-- ==== Sys2Proof/Word.lean ====
section
/-! DEFINITION. Words, bytes and the plainest arithmetic on them (R7, R8, R10). -/

namespace Sys2Proof

/-- A 32-bit register or lane word. -/
abbrev Word := BitVec 32
/-- The smallest addressable unit of memory. -/
abbrev Byte := BitVec 8
/-- A 64-bit value held in an even register pair (R8). -/
abbrev DWord := BitVec 64

/-- `rotl32(x, k)` of R10. -/
def rotl32 (x : Word) (k : Nat) : Word := x.rotateLeft k

/-- The pair whose low half is `lo` (R8). -/
def pair (lo hi : Word) : DWord := hi ++ lo
/-- The low half of a pair. -/
def loHalf (x : DWord) : Word := x.setWidth 32
/-- The high half of a pair. -/
def hiHalf (x : DWord) : Word := (x >>> 32).setWidth 32

/-- The `n` bits of the number `w` from bit `lo` up (R7). -/
def fld (w lo n : Nat) : Nat := w / 2 ^ lo % 2 ^ n

/-- The number of one bits among the low `n` bits of `x`. -/
def popc (x : Nat) : Nat → Nat
  | 0 => 0
  | n + 1 => popc x n + (if x.testBit n then 1 else 0)

/-- The number of leading zero bits of the low `n` bits of `x`. -/
def clz (x : Nat) : Nat → Nat
  | 0 => 0
  | n + 1 => if x.testBit n then 0 else clz x n + 1

/-- The low `n` bits of `x` in reverse order. -/
def brev (x : Nat) : Nat → Nat
  | 0 => 0
  | n + 1 => 2 * brev x n + (if x.testBit n then 1 else 0)

end Sys2Proof
end

