-- ==== Sys2Proof/Syntax.lean ====
section
/-! DEFINITION. The instruction set as syntax: one constructor for every row of spec/opcode_table.json.

The first 255 constructors are the instruction words (R69, R75): each argument is a field of the
word, as wide as the table draws it and under the table's name, the chain bit left out. Where the
table leaves out the low bits of a register field (an even pair, a quad, an octet), the argument is
the field without those bits, so that the register number is the argument times the width. The words
without a field stand after those with one.
The last 120 constructors, whose names begin with `ev`, are the device's other whole and indivisible
steps; they have no encoding. Which pending item such a step concerns, or what the outside world
sends with it, stands in the state beside it (`Machine.EvArgs`). -/

namespace Sys2Proof

/-- The steps of the SZB9-M: instruction words and device events. -/
inductive Instr where
  /-- R128: Completes its group, then raises trap SOFTWARE with imm16 in TRAPINFO0. -/
  | trap (i : BitVec 16)
  /-- R123: Pushes a reconvergence entry holding the target and EXEC. -/
  | pushr (o : BitVec 17)
  /-- R131: Counts an arrival at the barrier of group-table entry id and parks the warp until it opens. -/
  | gsync (g : BitVec 8)
  /-- R120: Branches unconditionally to packet p + OFF17. -/
  | bra (o : BitVec 17)
  /-- R120: Branches when the named scalar is zero. -/
  | bz (s : BitVec 5) (o : BitVec 17)
  /-- R120: Branches when the named scalar is nonzero. -/
  | bnz (s : BitVec 5) (o : BitVec 17)
  /-- R120: Branches when the predicate and EXEC share a set bit. -/
  | bany (p : BitVec 3) (o : BitVec 17)
  /-- R120: Branches when the predicate covers every bit of EXEC. -/
  | ball (p : BitVec 3) (o : BitVec 17)
  /-- R120: Branches when the predicate and EXEC share no set bit. -/
  | bnone (p : BitVec 3) (o : BitVec 17)
  /-- R124: Splits the active lanes by predicate, pushing the false side as a deferred path and running the true side first. -/
  | bdiv (p : BitVec 3) (o : BitVec 17)
  /-- R121: Writes the link to S30 and transfers to packet p + OFF25. -/
  | call (o : BitVec 25)
  /-- R113: Adds two scalars modulo 2^32. -/
  | sadd (d : BitVec 5) (a : BitVec 5) (b : BitVec 5)
  /-- R113: Subtracts two scalars modulo 2^32. -/
  | ssub (d : BitVec 5) (a : BitVec 5) (b : BitVec 5)
  /-- R113: Writes the low 32 bits of a scalar product. -/
  | smul (d : BitVec 5) (a : BitVec 5) (b : BitVec 5)
  /-- R113: Writes the high 32 bits of a signed scalar product. -/
  | smulhiI32 (d : BitVec 5) (a : BitVec 5) (b : BitVec 5)
  /-- R113: Writes the high 32 bits of an unsigned scalar product. -/
  | smulhiN32 (d : BitVec 5) (a : BitVec 5) (b : BitVec 5)
  /-- R113: Bitwise AND of two scalars. -/
  | sand (d : BitVec 5) (a : BitVec 5) (b : BitVec 5)
  /-- R113: Bitwise OR of two scalars. -/
  | sor (d : BitVec 5) (a : BitVec 5) (b : BitVec 5)
  /-- R113: Bitwise XOR of two scalars. -/
  | sxor (d : BitVec 5) (a : BitVec 5) (b : BitVec 5)
  /-- R113: Shifts a scalar left. -/
  | sshl (d : BitVec 5) (a : BitVec 5) (b : BitVec 5)
  /-- R113: Shifts a scalar right, filling with zeros. -/
  | sshrN32 (d : BitVec 5) (a : BitVec 5) (b : BitVec 5)
  /-- R113: Shifts a scalar right, filling with its sign. -/
  | sshrI32 (d : BitVec 5) (a : BitVec 5) (b : BitVec 5)
  /-- R113: Signed minimum of two scalars. -/
  | sminI32 (d : BitVec 5) (a : BitVec 5) (b : BitVec 5)
  /-- R113: Signed maximum of two scalars. -/
  | smaxI32 (d : BitVec 5) (a : BitVec 5) (b : BitVec 5)
  /-- R113: Unsigned minimum of two scalars. -/
  | sminN32 (d : BitVec 5) (a : BitVec 5) (b : BitVec 5)
  /-- R113: Unsigned maximum of two scalars. -/
  | smaxN32 (d : BitVec 5) (a : BitVec 5) (b : BitVec 5)
  /-- R113: Counts the leading zero bits of a scalar. -/
  | sclz (d : BitVec 5) (a : BitVec 5)
  /-- R113: Counts the one bits of a scalar. -/
  | spopc (d : BitVec 5) (a : BitVec 5)
  /-- R113: Copies a scalar. -/
  | smov (d : BitVec 5) (a : BitVec 5)
  /-- R113: Writes 1 if A is signed-less than B, else 0. -/
  | ssltI32 (d : BitVec 5) (a : BitVec 5) (b : BitVec 5)
  /-- R113: Writes 1 if A is unsigned-less than B, else 0. -/
  | ssltN32 (d : BitVec 5) (a : BitVec 5) (b : BitVec 5)
  /-- R113: Writes 1 if two scalars are equal, else 0. -/
  | sseq (d : BitVec 5) (a : BitVec 5) (b : BitVec 5)
  /-- R113: Adds two scalar pairs modulo 2^64. -/
  | sadd64 (d : BitVec 4) (a : BitVec 4) (b : BitVec 4)
  /-- R113: Subtracts two scalar pairs modulo 2^64. -/
  | ssub64 (d : BitVec 4) (a : BitVec 4) (b : BitVec 4)
  /-- R114: Adds a sign-extended 15-bit immediate to a scalar. -/
  | saddi (d : BitVec 5) (a : BitVec 5) (i : BitVec 15)
  /-- R114: ANDs a scalar with a sign-extended immediate. -/
  | sandi (d : BitVec 5) (a : BitVec 5) (i : BitVec 15)
  /-- R114: ORs a scalar with a sign-extended immediate. -/
  | sori (d : BitVec 5) (a : BitVec 5) (i : BitVec 15)
  /-- R114: XORs a scalar with a sign-extended immediate. -/
  | sxori (d : BitVec 5) (a : BitVec 5) (i : BitVec 15)
  /-- R115: Shifts a scalar left by an immediate amount. -/
  | sshiShl (d : BitVec 5) (a : BitVec 5) (n : BitVec 5)
  /-- R115: Shifts a scalar right by an immediate, filling with zeros. -/
  | sshiShrN32 (d : BitVec 5) (a : BitVec 5) (n : BitVec 5)
  /-- R115: Shifts a scalar right by an immediate, filling with the sign. -/
  | sshiShrI32 (d : BitVec 5) (a : BitVec 5) (n : BitVec 5)
  /-- R115: Rotates a scalar left by an immediate amount. -/
  | sshiRotl (d : BitVec 5) (a : BitVec 5) (n : BitVec 5)
  /-- R116: Writes IMM20 << 12 to a scalar. -/
  | slui (d : BitVec 5) (i : BitVec 20)
  /-- R117: Compares a scalar with a sign-extended 12-bit immediate under the selected condition and writes 1 or 0. -/
  | scmpi (d : BitVec 5) (a : BitVec 5) (k : BitVec 3) (i : BitVec 12)
  /-- R118: Loads one 32-bit word into a scalar from a pair address plus immediate. -/
  | sld (d : BitVec 5) (a : BitVec 4) (i : BitVec 15)
  /-- R118: Stores a scalar as one 32-bit word at a pair address plus immediate. -/
  | sst (d : BitVec 5) (a : BitVec 4) (i : BitVec 15)
  /-- R135: Reads a loop-nest descriptor and starts Almond on it for the warp. -/
  | lstart (a : BitVec 4)
  /-- R135: Pops the next iteration entry into four scalars. -/
  | nextit (d : BitVec 3)
  /-- R135: Branches while iterations remain; otherwise clears LOOPACT and falls through. -/
  | brit (o : BitVec 17)
  /-- R119: Reads a special register into a scalar. -/
  | getsr (s : BitVec 5) (i : BitVec 10)
  /-- R119: Writes a scalar to a special register through its field map. -/
  | setsr (s : BitVec 5) (i : BitVec 10)
  /-- R431: Holds its group until every counter is at or below its limit, raising a held latched trap instead. -/
  | waitc (l : BitVec 5) (s : BitVec 5) (y : BitVec 5) (m : BitVec 5) (a : BitVec 5)
  /-- R144: Adds two vectors lane by lane modulo 2^32. -/
  | vadd (d : BitVec 6) (a : BitVec 6) (b : BitVec 6)
  /-- R144: Subtracts two vectors modulo 2^32. -/
  | vsub (d : BitVec 6) (a : BitVec 6) (b : BitVec 6)
  /-- R144: Low 32 bits of the lane products. -/
  | vmul (d : BitVec 6) (a : BitVec 6) (b : BitVec 6)
  /-- R144: High 32 bits of the signed lane products. -/
  | vmulhiI32 (d : BitVec 6) (a : BitVec 6) (b : BitVec 6)
  /-- R144: High 32 bits of the unsigned lane products. -/
  | vmulhiN32 (d : BitVec 6) (a : BitVec 6) (b : BitVec 6)
  /-- R144: Signed lane minimum. -/
  | vminI32 (d : BitVec 6) (a : BitVec 6) (b : BitVec 6)
  /-- R144: Signed lane maximum. -/
  | vmaxI32 (d : BitVec 6) (a : BitVec 6) (b : BitVec 6)
  /-- R144: Unsigned lane minimum. -/
  | vminN32 (d : BitVec 6) (a : BitVec 6) (b : BitVec 6)
  /-- R144: Unsigned lane maximum. -/
  | vmaxN32 (d : BitVec 6) (a : BitVec 6) (b : BitVec 6)
  /-- R144: Lane bitwise AND. -/
  | vand (d : BitVec 6) (a : BitVec 6) (b : BitVec 6)
  /-- R144: Lane bitwise OR. -/
  | vor (d : BitVec 6) (a : BitVec 6) (b : BitVec 6)
  /-- R144: Lane bitwise XOR. -/
  | vxor (d : BitVec 6) (a : BitVec 6) (b : BitVec 6)
  /-- R144: Lane a AND NOT b. -/
  | vandn (d : BitVec 6) (a : BitVec 6) (b : BitVec 6)
  /-- R144: Lane shift left. -/
  | vshl (d : BitVec 6) (a : BitVec 6) (b : BitVec 6)
  /-- R144: Lane logical shift right. -/
  | vshrN32 (d : BitVec 6) (a : BitVec 6) (b : BitVec 6)
  /-- R144: Lane arithmetic shift right. -/
  | vshrI32 (d : BitVec 6) (a : BitVec 6) (b : BitVec 6)
  /-- R144: Lane rotate left. -/
  | vrotl (d : BitVec 6) (a : BitVec 6) (b : BitVec 6)
  /-- R144: Lane population count. -/
  | vpopc (d : BitVec 6) (a : BitVec 6)
  /-- R144: Lane leading-zero count. -/
  | vclz (d : BitVec 6) (a : BitVec 6)
  /-- R144: Lane bit reversal. -/
  | vbrev (d : BitVec 6) (a : BitVec 6)
  /-- R144: Lane absolute signed difference. -/
  | vabsdI32 (d : BitVec 6) (a : BitVec 6) (b : BitVec 6)
  /-- R145: Saturating signed lane add, setting WSTAT.SAT on saturation. -/
  | vaddsI32 (d : BitVec 6) (a : BitVec 6) (b : BitVec 6)
  /-- R145: Saturating signed lane subtract. -/
  | vsubsI32 (d : BitVec 6) (a : BitVec 6) (b : BitVec 6)
  /-- R144: 64-bit lane add on register pairs. -/
  | vadd64 (d : BitVec 5) (a : BitVec 5) (b : BitVec 5)
  /-- R144: 64-bit lane subtract on register pairs. -/
  | vsub64 (d : BitVec 5) (a : BitVec 5) (b : BitVec 5)
  /-- R144: Accumulates a four-way signed byte dot product into the destination. -/
  | vdot4I8 (d : BitVec 6) (a : BitVec 6) (b : BitVec 6)
  /-- R144: Accumulates a two-way signed half dot product into the destination. -/
  | vdot2I16 (d : BitVec 6) (a : BitVec 6) (b : BitVec 6)
  /-- R146: Performs VINT function 0 to 16 with a zero-extended 8-bit immediate as B. -/
  | vinti (f : BitVec 5) (d : BitVec 6) (a : BitVec 6) (i : BitVec 8)
  /-- R147: F32 lane add rounded under RM. -/
  | vfaddF32 (d : BitVec 6) (a : BitVec 6) (b : BitVec 6)
  /-- R147: F32 lane subtract. -/
  | vfsubF32 (d : BitVec 6) (a : BitVec 6) (b : BitVec 6)
  /-- R147: F32 lane multiply. -/
  | vfmulF32 (d : BitVec 6) (a : BitVec 6) (b : BitVec 6)
  /-- R147: F32 lane minimumNumber. -/
  | vfminF32 (d : BitVec 6) (a : BitVec 6) (b : BitVec 6)
  /-- R147: F32 lane maximumNumber. -/
  | vfmaxF32 (d : BitVec 6) (a : BitVec 6) (b : BitVec 6)
  /-- R148: Clears the sign of each F32 lane. -/
  | vfabsF32 (d : BitVec 6) (a : BitVec 6)
  /-- R148: Inverts the sign of each F32 lane. -/
  | vfnegF32 (d : BitVec 6) (a : BitVec 6)
  /-- R148: Gives each F32 lane the sign of b. -/
  | vfcpsgnF32 (d : BitVec 6) (a : BitVec 6) (b : BitVec 6)
  /-- R147: F16 pair add. -/
  | vfaddF16x2 (d : BitVec 6) (a : BitVec 6) (b : BitVec 6)
  /-- R147: F16 pair subtract. -/
  | vfsubF16x2 (d : BitVec 6) (a : BitVec 6) (b : BitVec 6)
  /-- R147: F16 pair multiply. -/
  | vfmulF16x2 (d : BitVec 6) (a : BitVec 6) (b : BitVec 6)
  /-- R147: F16 pair minimumNumber. -/
  | vfminF16x2 (d : BitVec 6) (a : BitVec 6) (b : BitVec 6)
  /-- R147: F16 pair maximumNumber. -/
  | vfmaxF16x2 (d : BitVec 6) (a : BitVec 6) (b : BitVec 6)
  /-- R147: B16 pair add. -/
  | vfaddB16x2 (d : BitVec 6) (a : BitVec 6) (b : BitVec 6)
  /-- R147: B16 pair subtract. -/
  | vfsubB16x2 (d : BitVec 6) (a : BitVec 6) (b : BitVec 6)
  /-- R147: B16 pair multiply. -/
  | vfmulB16x2 (d : BitVec 6) (a : BitVec 6) (b : BitVec 6)
  /-- R147: B16 pair minimumNumber. -/
  | vfminB16x2 (d : BitVec 6) (a : BitVec 6) (b : BitVec 6)
  /-- R147: B16 pair maximumNumber. -/
  | vfmaxB16x2 (d : BitVec 6) (a : BitVec 6) (b : BitVec 6)
  /-- R147: F64 add on register pairs. -/
  | vfaddF64 (d : BitVec 5) (a : BitVec 5) (b : BitVec 5)
  /-- R147: F64 subtract on register pairs. -/
  | vfsubF64 (d : BitVec 5) (a : BitVec 5) (b : BitVec 5)
  /-- R147: F64 multiply on register pairs. -/
  | vfmulF64 (d : BitVec 5) (a : BitVec 5) (b : BitVec 5)
  /-- R147: F64 minimumNumber on register pairs. -/
  | vfminF64 (d : BitVec 5) (a : BitVec 5) (b : BitVec 5)
  /-- R147: F64 maximumNumber on register pairs. -/
  | vfmaxF64 (d : BitVec 5) (a : BitVec 5) (b : BitVec 5)
  /-- R149: Complex B16 product with each bracket rounded once. -/
  | vcmulB16 (d : BitVec 6) (a : BitVec 6) (b : BitVec 6)
  /-- R150: Fused F32 multiply-add with one rounding. -/
  | vfmaF32 (d : BitVec 6) (a : BitVec 6) (b : BitVec 6) (e : BitVec 5)
  /-- R150: Fused multiply-add on F16 pairs. -/
  | vfmaF16x2 (d : BitVec 6) (a : BitVec 6) (b : BitVec 6) (e : BitVec 5)
  /-- R150: Fused multiply-add on B16 pairs. -/
  | vfmaB16x2 (d : BitVec 6) (a : BitVec 6) (b : BitVec 6) (e : BitVec 5)
  /-- R150: Fused F64 multiply-add on register pairs. -/
  | vfmaF64 (d : BitVec 5) (a : BitVec 5) (b : BitVec 5) (e : BitVec 4)
  /-- R151: Signed lane comparison under the selected condition into a predicate. -/
  | vcmpI32 (k : BitVec 3) (p : BitVec 3) (a : BitVec 6) (b : BitVec 6)
  /-- R151: Unsigned lane comparison into a predicate. -/
  | vcmpN32 (k : BitVec 3) (p : BitVec 3) (a : BitVec 6) (b : BitVec 6)
  /-- R151: IEEE F32 lane comparison into a predicate. -/
  | vcmpF32 (k : BitVec 3) (p : BitVec 3) (a : BitVec 6) (b : BitVec 6)
  /-- R151: F16-pair comparison true only when both elements meet the condition. -/
  | vcmpF16x2 (k : BitVec 3) (p : BitVec 3) (a : BitVec 6) (b : BitVec 6)
  /-- R152: Converts signed integers to F32. -/
  | vcvtF32I32 (d : BitVec 6) (a : BitVec 6)
  /-- R152: Converts unsigned integers to F32. -/
  | vcvtF32N32 (d : BitVec 6) (a : BitVec 6)
  /-- R153: Converts F32 to I32, rounding to nearest even. -/
  | vcvtI32F32 (d : BitVec 6) (a : BitVec 6)
  /-- R153: Converts F32 to I32, truncating. -/
  | vcvtI32F32Rz (d : BitVec 6) (a : BitVec 6)
  /-- R153: Converts F32 to N32, truncating. -/
  | vcvtN32F32 (d : BitVec 6) (a : BitVec 6)
  /-- R152: Packs two F32 registers into F16 pairs. -/
  | vcvtF16x2F32 (d : BitVec 6) (a : BitVec 5)
  /-- R152: Packs two F32 registers into B16 pairs. -/
  | vcvtB16x2F32 (d : BitVec 6) (a : BitVec 5)
  /-- R152: Widens the low F16 element to F32. -/
  | vcvtF32F16 (d : BitVec 6) (a : BitVec 6)
  /-- R152: Widens the high F16 element to F32. -/
  | vcvtF32F16h (d : BitVec 6) (a : BitVec 6)
  /-- R152: Widens the low B16 element to F32. -/
  | vcvtF32B16 (d : BitVec 6) (a : BitVec 6)
  /-- R152: Widens the high B16 element to F32. -/
  | vcvtF32B16h (d : BitVec 6) (a : BitVec 6)
  /-- R152: Widens F32 to an F64 pair. -/
  | vcvtF64F32 (d : BitVec 5) (a : BitVec 6)
  /-- R152: Narrows an F64 pair to F32. -/
  | vcvtF32F64 (d : BitVec 6) (a : BitVec 5)
  /-- R153: Packs four F32 registers into E4 bytes. -/
  | vcvtE4x4F32 (d : BitVec 6) (a : BitVec 4)
  /-- R152: Packs four F32 registers into E5 bytes. -/
  | vcvtE5x4F32 (d : BitVec 6) (a : BitVec 4)
  /-- R152: Packs eight F32 registers into E2 nibbles. -/
  | vcvtE2x8F32 (d : BitVec 6) (a : BitVec 3)
  /-- R475: Rounds F32 to the nearest L6 code. -/
  | vcvtL6F32 (d : BitVec 6) (a : BitVec 6)
  /-- R152: Converts an L6 code to its linear F32 value. -/
  | vcvtF32L6 (d : BitVec 6) (a : BitVec 6)
  /-- R152: Widens an E4 byte to F32. -/
  | vcvtF32E4 (d : BitVec 6) (a : BitVec 6)
  /-- R152: Widens an E5 byte to F32. -/
  | vcvtF32E5 (d : BitVec 6) (a : BitVec 6)
  /-- R152: Widens an E2 nibble to F32. -/
  | vcvtF32E2 (d : BitVec 6) (a : BitVec 6)
  /-- R154: Correctly rounded reciprocal. -/
  | vrcp (d : BitVec 6) (a : BitVec 6)
  /-- R154: Correctly rounded reciprocal square root. -/
  | vrsq (d : BitVec 6) (a : BitVec 6)
  /-- R154: Correctly rounded square root. -/
  | vsqrt (d : BitVec 6) (a : BitVec 6)
  /-- R154: Correctly rounded 2^x. -/
  | vexp2 (d : BitVec 6) (a : BitVec 6)
  /-- R154: Correctly rounded log2(x). -/
  | vlog2 (d : BitVec 6) (a : BitVec 6)
  /-- R154: Correctly rounded sin(2πx). -/
  | vsint (d : BitVec 6) (a : BitVec 6)
  /-- R154: Correctly rounded cos(2πx). -/
  | vcost (d : BitVec 6) (a : BitVec 6)
  /-- R154: Correctly rounded tanh(x). -/
  | vtanh (d : BitVec 6) (a : BitVec 6)
  /-- R155: Evaluates function table TID of the bound generation for each lane. -/
  | vtab (t : BitVec 3) (d : BitVec 6) (a : BitVec 6)
  /-- R156: Copies vector registers in active lanes. -/
  | vmov (w : BitVec 2) (d : BitVec 6) (a : BitVec 6)
  /-- R156: Broadcasts a scalar to the active lanes. -/
  | vmovs (d : BitVec 6) (a : BitVec 5)
  /-- R156: Writes each active lane's number. -/
  | vlaneid (d : BitVec 6)
  /-- R156: Reads one lane of a vector into a scalar regardless of EXEC. -/
  | vreadl (d : BitVec 5) (a : BitVec 6) (l : BitVec 5)
  /-- R156: Writes a scalar into one lane of a vector regardless of EXEC. -/
  | vwritel (d : BitVec 6) (a : BitVec 5) (l : BitVec 5)
  /-- R156: Broadcasts the lowest active lane's value to the active lanes. -/
  | vfirst (d : BitVec 6) (a : BitVec 6)
  /-- R157: Shuffles by a vector of lane indices within each partition. -/
  | vshflIdx (d : BitVec 6) (a : BitVec 6) (b : BitVec 6)
  /-- R157: Takes each lane's value from n lanes below within the partition. -/
  | vshflUp (d : BitVec 6) (a : BitVec 6) (n : BitVec 5)
  /-- R157: Takes each lane's value from n lanes above within the partition. -/
  | vshflDown (d : BitVec 6) (a : BitVec 6) (n : BitVec 5)
  /-- R157: Takes each lane's value from its lane XOR n within the partition. -/
  | vshflXor (d : BitVec 6) (a : BitVec 6) (n : BitVec 5)
  /-- R157: Broadcasts lane n of each partition. -/
  | vshflBcast (d : BitVec 6) (a : BitVec 6) (n : BitVec 5)
  /-- R158: Integer sum over each partition written to all its lanes. -/
  | raddI32 (d : BitVec 6) (a : BitVec 6)
  /-- R55: F32 tree sum over each partition written to all its lanes. -/
  | raddF32 (d : BitVec 6) (a : BitVec 6)
  /-- R158: Signed minimum reduction. -/
  | rminI32 (d : BitVec 6) (a : BitVec 6)
  /-- R158: Signed maximum reduction. -/
  | rmaxI32 (d : BitVec 6) (a : BitVec 6)
  /-- R158: Unsigned minimum reduction. -/
  | rminN32 (d : BitVec 6) (a : BitVec 6)
  /-- R158: Unsigned maximum reduction. -/
  | rmaxN32 (d : BitVec 6) (a : BitVec 6)
  /-- R158: F32 minimumNumber reduction tree. -/
  | rminF32 (d : BitVec 6) (a : BitVec 6)
  /-- R158: F32 maximumNumber reduction tree. -/
  | rmaxF32 (d : BitVec 6) (a : BitVec 6)
  /-- R158: AND reduction. -/
  | rand (d : BitVec 6) (a : BitVec 6)
  /-- R158: OR reduction. -/
  | ror (d : BitVec 6) (a : BitVec 6)
  /-- R158: XOR reduction. -/
  | rxor (d : BitVec 6) (a : BitVec 6)
  /-- R159: Inclusive integer prefix sum over active lanes of each partition. -/
  | scanaddI32 (d : BitVec 6) (a : BitVec 6)
  /-- R159: Exclusive integer prefix sum. -/
  | scanaddI32Ex (d : BitVec 6) (a : BitVec 6)
  /-- R56: Hillis-Steele F32 prefix sum. -/
  | scanaddF32 (d : BitVec 6) (a : BitVec 6)
  /-- R160: Per partition, sets every predicate bit if any active lane's bit is set. -/
  | vvoteAny (d : BitVec 3) (a : BitVec 3)
  /-- R160: Per partition, sets every predicate bit if all active lanes' bits are set. -/
  | vvoteAll (d : BitVec 3) (a : BitVec 3)
  /-- R160: Writes the predicate AND EXEC to a scalar. -/
  | vvoteBallot (d : BitVec 5) (a : BitVec 3)
  /-- R160: Writes the count of active set predicate bits per partition to its lanes. -/
  | vvoteCount (d : BitVec 6) (a : BitVec 3)
  /-- R161: Predicate AND. -/
  | pand (d : BitVec 3) (a : BitVec 3) (b : BitVec 3)
  /-- R161: Predicate OR. -/
  | por (d : BitVec 3) (a : BitVec 3) (b : BitVec 3)
  /-- R161: Predicate XOR. -/
  | pxor (d : BitVec 3) (a : BitVec 3) (b : BitVec 3)
  /-- R161: Predicate A AND NOT B. -/
  | pandn (d : BitVec 3) (a : BitVec 3) (b : BitVec 3)
  /-- R161: Predicate NOT. -/
  | pnot (d : BitVec 3) (a : BitVec 3)
  /-- R161: Predicate copy. -/
  | pmov (d : BitVec 3) (a : BitVec 3)
  /-- R161: Sets EXEC from a predicate. -/
  | setexec (a : BitVec 3)
  /-- R161: Copies EXEC into a predicate. -/
  | getexec (d : BitVec 3)
  /-- R161: Copies a scalar into a predicate. -/
  | pfroms (d : BitVec 3) (a : BitVec 5)
  /-- R161: Copies a predicate into a scalar. -/
  | ptos (d : BitVec 5) (a : BitVec 3)
  /-- R161: ANDs EXEC with a predicate. -/
  | execand (a : BitVec 3)
  /-- R161: Writes the popcount of predicate AND EXEC. -/
  | ppopc (d : BitVec 3) (a : BitVec 3)
  /-- R283: Loads each active lane's element of the selected size, optionally as an acquire. -/
  | vld (z : BitVec 3) (q : BitVec 1) (w : BitVec 2) (d : BitVec 6) (a : BitVec 6) (b : BitVec 4) (h : BitVec 2)
  /-- R283: Stores each active lane's element of the selected size, optionally as a release. -/
  | vst (z : BitVec 3) (q : BitVec 1) (w : BitVec 2) (d : BitVec 6) (a : BitVec 6) (b : BitVec 4) (h : BitVec 2)
  /-- R285: Atomic 32-bit integer add, combined across same-address lanes. -/
  | vatomAddI32 (d : BitVec 6) (a : BitVec 6) (b : BitVec 4) (h : BitVec 2)
  /-- R289: Atomic F32 add with combined prefix returns. -/
  | vatomAddF32 (d : BitVec 6) (a : BitVec 6) (b : BitVec 4) (h : BitVec 2)
  /-- R285: Atomic B16-pair add. -/
  | vatomAddB16x2 (d : BitVec 6) (a : BitVec 6) (b : BitVec 4) (h : BitVec 2)
  /-- R285: Atomic signed minimum. -/
  | vatomMinI32 (d : BitVec 6) (a : BitVec 6) (b : BitVec 4) (h : BitVec 2)
  /-- R285: Atomic signed maximum. -/
  | vatomMaxI32 (d : BitVec 6) (a : BitVec 6) (b : BitVec 4) (h : BitVec 2)
  /-- R285: Atomic unsigned minimum. -/
  | vatomMinN32 (d : BitVec 6) (a : BitVec 6) (b : BitVec 4) (h : BitVec 2)
  /-- R285: Atomic unsigned maximum. -/
  | vatomMaxN32 (d : BitVec 6) (a : BitVec 6) (b : BitVec 4) (h : BitVec 2)
  /-- R285: Atomic AND. -/
  | vatomAnd (d : BitVec 6) (a : BitVec 6) (b : BitVec 4) (h : BitVec 2)
  /-- R285: Atomic OR. -/
  | vatomOr (d : BitVec 6) (a : BitVec 6) (b : BitVec 4) (h : BitVec 2)
  /-- R285: Atomic XOR. -/
  | vatomXor (d : BitVec 6) (a : BitVec 6) (b : BitVec 4) (h : BitVec 2)
  /-- R285: Atomic exchange. -/
  | vatomXchg (d : BitVec 6) (a : BitVec 6) (b : BitVec 4) (h : BitVec 2)
  /-- R285: Atomic compare-and-swap. -/
  | vatomCas (d : BitVec 5) (a : BitVec 6) (b : BitVec 4) (h : BitVec 2)
  /-- R285: Atomic wrapping increment. -/
  | vatomIncw (d : BitVec 6) (a : BitVec 6) (b : BitVec 4) (h : BitVec 2)
  /-- R285: Atomic wrapping decrement. -/
  | vatomDecw (d : BitVec 6) (a : BitVec 6) (b : BitVec 4) (h : BitVec 2)
  /-- R288: Atomic 64-bit add. -/
  | vatomAddI64 (d : BitVec 5) (a : BitVec 6) (b : BitVec 4) (h : BitVec 2)
  /-- R292: Arms a monitor on a global word and parks until the selected comparison holds. -/
  | mwait (f : BitVec 4) (d : BitVec 5) (a : BitVec 5) (b : BitVec 4)
  /-- R295: Initialises a barrier object with an expected arrival count. -/
  | binit (a : BitVec 5) (b : BitVec 5)
  /-- R294: Makes one release arrival on an own-scratch barrier object. -/
  | barrive (a : BitVec 5)
  /-- R295: Makes one arrival on a barrier object named by a peer-window word. -/
  | barrivePeer (a : BitVec 5)
  /-- R295: Adds expected bytes to a barrier object's PENDB. -/
  | bexpect (a : BitVec 5) (b : BitVec 5)
  /-- R296: Proceeds if the phase differs from the given parity, otherwise parks. -/
  | bwait (a : BitVec 5) (b : BitVec 5)
  /-- R295: Writes 1 to a scalar if the phase is complete, else 0. -/
  | btry (a : BitVec 5) (b : BitVec 5) (d : BitVec 5)
  /-- R295: Clears a barrier object's VAL bit. -/
  | binval (a : BitVec 5)
  /-- R301: Starts a copy from global or peer scratch into own scratch. -/
  | cpy (a : BitVec 2) (h : BitVec 2)
  /-- R301: Starts a multicast copy into the scratch of every gang of group IMM8. -/
  | cpymc (a : BitVec 2) (i : BitVec 8) (h : BitVec 2)
  /-- R301: Starts a copy into the issuing core's B-store. -/
  | cpyb (a : BitVec 2) (h : BitVec 2)
  /-- R301: Starts a copy from scratch to global or peer scratch. -/
  | cpyout (a : BitVec 2) (h : BitVec 2)
  /-- R301: Starts an XOR-parity copy into the destination. -/
  | cpypar (a : BitVec 2) (l : BitVec 1) (h : BitVec 2)
  /-- R301: Starts a GF(2^8)-scaled XOR copy into the destination. -/
  | cpygf (a : BitVec 2) (i : BitVec 8) (l : BitVec 1) (h : BitVec 2)
  /-- R301: Starts a copy to a peer device's memory. -/
  | cpypeer (a : BitVec 2) (h : BitVec 2)
  /-- R306: Starts a chain of copy steps from a descriptor list. -/
  | chn (a : BitVec 4)
  /-- R310: Requests a range of lines into the L2 and cluster cache. -/
  | pref (a : BitVec 4) (b : BitVec 5) (h : BitVec 2)
  /-- R310: Writes every modified line of a range back to memory. -/
  | wback (a : BitVec 5) (b : BitVec 5)
  /-- R310: Writes zero to every byte of a range without reading it. -/
  | discard (a : BitVec 5) (b : BitVec 5)
  /-- R311: Fences, then changes a claimed segment's mode. -/
  | bankcfg (a : BitVec 5) (m : BitVec 2)
  /-- R312: Returns the peer-window offset of a logical segment's first byte. -/
  | bankq (a : BitVec 5) (d : BitVec 5)
  /-- R313: Writes one 48-byte record per active lane to the grid's deposit area. -/
  | deposit (d : BitVec 4) (a : BitVec 6)
  /-- R189: Queues a 128x128 matrix multiply-accumulate of the selected format into a tile. -/
  | mma (f : BitVec 4) (k : BitVec 2) (t : BitVec 2) (a : BitVec 5) (b : BitVec 5) (z : BitVec 1) (x : BitVec 1)
  /-- R191: Queues a block-scaled accumulation of a partial-sum tile into a destination tile. -/
  | mscale (t : BitVec 2) (p : BitVec 2) (a : BitVec 5) (b : BitVec 5)
  /-- R193: Queues zeroing of a tile. -/
  | tzero (t : BitVec 2)
  /-- R193: Queues a load of a tile from scratch or global memory. -/
  | tload (t : BitVec 2) (a : BitVec 5) (b : BitVec 5) (g : BitVec 1) (v : BitVec 2)
  /-- R193: Queues a store of a tile to scratch or global memory. -/
  | tstore (t : BitVec 2) (a : BitVec 5) (b : BitVec 5) (g : BitVec 1) (v : BitVec 2)
  /-- R194: Queues one indivisible add of a tile into memory. -/
  | taddst (t : BitVec 2) (a : BitVec 5) (b : BitVec 5) (g : BitVec 1) (v : BitVec 2)
  /-- R193: Queues a copy of one tile into another. -/
  | tmove (t : BitVec 2) (p : BitVec 2)
  /-- R199: Queues optional Hadamard transform and block quantisation of a tile to codes and scales. -/
  | mquant (f : BitVec 2) (k : BitVec 2) (t : BitVec 2) (a : BitVec 5) (b : BitVec 5) (h : BitVec 2)
  /-- R170: Closes a batch of matrix entries and writes its number. -/
  | mbatch (d : BitVec 5)
  /-- R200: Waits for a batch of matrix entries, parking if it is incomplete. -/
  | mwaitb (a : BitVec 5)
  /-- R341: Checks CFSIG[19:0] against the immediate and resets CFSIG or traps. -/
  | sigchk (i : BitVec 20)
  /-- R341: Sets CFSIG to the immediate. -/
  | sigset (i : BitVec 20)
  /-- R326: Sets the seal range from vectors and tiles and, in a checked block, ends the span. -/
  | seal (d : BitVec 6) (n : BitVec 6) (t : BitVec 3)
  /-- R326: Sets a seal range of tiles only and, in a checked block, ends the span. -/
  | sealNovec (t : BitVec 3)
  /-- R421: Loads a function table source into the table's inactive bank. -/
  | tblload (a : BitVec 4) (t : BitVec 3)
  /-- R421: Loads a log table source into its inactive bank. -/
  | tblloadLog (a : BitVec 4)
  /-- R422: Table fence: swaps the masked banks for the context and advances GEN. -/
  | tblswap (l : BitVec 1) (m : BitVec 8)
  /-- R414: Reads the member count of a group-table entry. -/
  | grprdCnt (d : BitVec 5) (a : BitVec 5)
  /-- R414: Reads one member of a group-table entry. -/
  | grprdMem (d : BitVec 5) (a : BitVec 5) (b : BitVec 5)
  /-- R414: Tells whether the issuing block is a member of a group. -/
  | grprdSelf (d : BitVec 5) (a : BitVec 5)
  /-- R74: Does nothing but advance the program counter; with C set it occupies no pipe. -/
  | nop
  /-- R127: Stops the warp issuing and begins its exit, which waits for its S, C, M and A counters. -/
  | exit
  /-- R121: Transfers to slot 0 of packet S30[29:0]. -/
  | ret
  /-- R128: Completes its group, then raises trap BREAKPOINT. -/
  | bpt
  /-- R130: Ends its group; it parks the warp while a switch is pending or while the gang is being moved by a fencing. -/
  | yield
  /-- R129: Leaves handler mode, sets EXEC to TRAPMASK and continues at TRAPPC. -/
  | rtt
  /-- R125: Pops the reconvergence stack, restores its mask and jumps to its program counter. -/
  | join
  /-- R131: Counts an arrival at the block barrier and parks the warp until the barrier opens. -/
  | bsync
  /-- R135: Discards the nest state and the queue and clears LOOPACT. -/
  | lstop
  /-- R315: Full fence: no later memory word issues until every earlier access is performed. -/
  | fence
  /-- R315: Release fence. -/
  | fenceRel
  /-- R315: Acquire fence. -/
  | fenceAcq
  /-- R171: Queues an entry that orders earlier scratch stores before later matrix entries. -/
  | opfence
  /-- R127: Once the exiting warp's counters drain, releases its slot and window and ends the block or gang. -/
  | evExitComplete
  /-- R367: A warp ready and not issued for 256 cycles becomes boosted. -/
  | evWarpBoost
  /-- R283: A load's data arrives, writes the destination and lowers L. -/
  | evLoadReturn
  /-- R283: A store is performed or held and lowers S. -/
  | evStorePerformed
  /-- R286: An atomic's old values are written or redirected and the counter lowers. -/
  | evAtomicReturn
  /-- R134: Almond writes one iteration entry into a warp's queue when a permit is free. -/
  | evAlmondEntry
  /-- R303: A copy's last write is performed, or it stops, and C falls. -/
  | evCopyComplete
  /-- R308: The chain engine reads and runs the next step once the previous step's writes are performed. -/
  | evChainStep
  /-- R169: A matrix queue entry takes effect in queue order and completes, lowering M. -/
  | evMatrixEntry
  /-- R195: A waiting tile-update entry is admitted once no overlapping admitted entry remains. -/
  | evAdmission
  /-- R207: A segment's mode change completes after its accesses drain and its old mode is closed out. -/
  | evSegmentModeChange
  /-- R378: A store, arrival, byte count or push aimed at a saved gang is appended to the arrival log. -/
  | evArrivalLogAppend
  /-- R253: Every TTIME cycles an unrecorded monitor re-reads its word. -/
  | evMonitorPoll
  /-- R298: Every 256 cycles a polling BWAIT re-reads the phase. -/
  | evBarrierPoll
  /-- R322: After the counters drain, folds RSIG, writes the checkpoint, sends the span record and parks. -/
  | evSpanEnd
  /-- R321: The hardware ends a span when the log would overflow, 2^24 groups issue or a new table generation is bound. -/
  | evForcedSpanEnd
  /-- R335: Hazel receives a span record and schedules the shadow run. -/
  | evSpanRecord
  /-- R335: A shadow or tiebreak run ends its span and Hazel compares signatures and gives the verdict. -/
  | evRunEnd
  /-- R329: A committed line's masked bytes are written as one write. -/
  | evCommit
  /-- R328: A held store waiting for version-store room is accepted. -/
  | evHeldStore
  /-- R246: A die pool serves a cluster's read miss for a line. -/
  | evClusterRead
  /-- R247: A holder answers a transient read request. -/
  | evTreqr
  /-- R247: A holder answers a transient write request. -/
  | evTreqw
  /-- R218: A holder answers a bypass read with data only. -/
  | evTreqb
  /-- R229: A holder receives tokens with data. -/
  | evTokd
  /-- R247: A holder receives tokens without data. -/
  | evTokn
  /-- R245: A requester receives data without tokens for one access. -/
  | evDatab
  /-- R241: The arbiter enters a persistent request as waiting. -/
  | evPreq
  /-- R243: A table activates a persistent request and its holders forward tokens. -/
  | evPact
  /-- R241: The arbiter learns the requester was served and deactivates the request. -/
  | evPdone
  /-- R241: A table clears a persistent entry and acknowledges. -/
  | evPdeact
  /-- R241: The arbiter collects acknowledgements and activates the next waiting entry. -/
  | evPack
  /-- R247: A holder receives written-back tokens with data. -/
  | evWbd
  /-- R247: A holder receives written-back tokens without data. -/
  | evWbn
  /-- R238: An unsatisfied transient request is reissued, or a persistent request raised. -/
  | evTransientTimeout
  /-- R218: A bypass read with no reply waits for a miss register and retries. -/
  | evBypassTimeout
  /-- R243: A pool repeats its persistent TREQW to its clusters every TTIME cycles. -/
  | evPersistentDemandRepeat
  /-- R244: A persistent entry active too long makes the line lost and starts recovery. -/
  | evPwatch
  /-- R220: A head flit waiting 64 cycles enters the urgent lane. -/
  | evHeadUrgent
  /-- R343: A nonzero RINGADDR write reads the descriptor and registers the ring or refuses it. -/
  | evRingRegister
  /-- R343: A zero RINGADDR write unregisters the ring. -/
  | evRingUnregister
  /-- R345: The host publishes host-ring entries below the written index. -/
  | evDoorbell
  /-- R381: The driver freezes and unmaps a ring, saving its indices. -/
  | evRingFreeze
  /-- R381: The driver remaps a ring, which is re-read if its wake-pending bit is set. -/
  | evRingRemap
  /-- R345: The front end consumes the next published ring entry and enters its node or refuses it. -/
  | evEntryConsume
  /-- R347: A node completes and decrements its successors or keeps credits. -/
  | evNodeComplete
  /-- R351: A ready LAUNCH node is checked and its grid handed to the scheduler. -/
  | evNodeLaunch
  /-- R87: The translator finalises an RPF image or refuses it. -/
  | evRpfTranslate
  /-- R354: A ready COPY node runs on a copy engine. -/
  | evNodeCopy
  /-- R354: A ready CHAIN node runs on a chain engine. -/
  | evNodeChain
  /-- R354: A ready bundle hands its members to the scheduler in one step. -/
  | evNodeBundle
  /-- R354: Writes a SIGNAL event record and optionally sends an MSI-X. -/
  | evNodeSignal
  /-- R356: Completes once every record of its predecessors is performed. -/
  | evNodeEvfence
  /-- R383: A TIMED node enters Equinox's pending store. -/
  | evNodeTimed
  /-- R357: Writes a snapshot of contexts, rings, nodes and fault records. -/
  | evNodeResync
  /-- R384: At T, makes a switch pending for the context and stops its fabric injection. -/
  | evTimedPreempt
  /-- R384: At T, begins restoring a SAVED context and clears SWITCH. -/
  | evTimedResume
  /-- R384: At T, releases the named TIMED LAUNCH node. -/
  | evTimedLaunch
  /-- R386: At T plus grace an incomplete switch writes a STRAGGLER record. -/
  | evStraggler
  /-- R387: A fabric GO message for a context and T lets a record act while LOST. -/
  | evGo
  /-- R359: After the gangs retire, sorts deposits, writes the run table and completes the parent. -/
  | evDepositSort
  /-- R363: The scheduler offers the next gang to a cluster in rotation. -/
  | evGangOffer
  /-- R364: A leaf places a gang, setting segments, marking windows and starting warps, or refuses. -/
  | evPlace
  /-- R365: The scheduler records a placed gang. -/
  | evPlaced
  /-- R361: A refused gang returns to the head of its level. -/
  | evRefused
  /-- R361: The scheduler records a retired gang. -/
  | evRetired
  /-- R371: The scheduler tells a leaf to save a gang. -/
  | evSave
  /-- R371: When every warp is held or exited, the leaf drains and writes the gang's save image. -/
  | evGangSave
  /-- R372: The scheduler records a saved gang and marks the context SAVED when all are. -/
  | evSaved
  /-- R377: A leaf restores a gang, replays its arrival log and starts its warps. -/
  | evRestore
  /-- R361: The scheduler receives a leaf's fault report. -/
  | evFault
  /-- R434: A permit-return message; an excess return fences the cluster. -/
  | evPret
  /-- R447: Setting CTXCTL.VALID creates the context. -/
  | evContextCreate
  /-- R447: Clearing CTXCTL.VALID releases a torn-down context. -/
  | evContextRelease
  /-- R408: Tears down the context's address space. -/
  | evTeardown
  /-- R373: SWREQ 1 starts a driver pre-emption. -/
  | evDriverPreempt
  /-- R369: SWREQ 2 starts a driver resume. -/
  | evDriverResume
  /-- R387: A driver GO for the context's timed records at T. -/
  | evGot
  /-- R416: Answers a page request so parked accesses reissue. -/
  | evPrdone
  /-- R416: Answers a page request so parked accesses fault. -/
  | evPrfail
  /-- R417: INVCTL starts an invalidation of a context's virtual range. -/
  | evInvalidate
  /-- R417: An invalidation completes once no TLB holds a matching entry. -/
  | evInvalidationDone
  /-- R446: Unfences a core and zeroes its demerits. -/
  | evUnfence
  /-- R411: Returns a cleaned quarantined page to use. -/
  | evQclear
  /-- R453: The driver sets a peer-table entry UP. -/
  | evPeerSetUp
  /-- R444: A host write to a BAR0 register with no behaviour of its own. -/
  | evRegisterWrite
  /-- R457: Writing 0xA5 to RESETCTL resets the device, keeping memory, demerits, HSEC and logs. -/
  | evWarmReset
  /-- R457: PERST# or power return resets the device fully. -/
  | evColdReset
  /-- R455: Requests a health record with the current nonce. -/
  | evHreq
  /-- R455: Every HPERIOD seconds a health record is produced. -/
  | evHealthPeriodic
  /-- R455: A signed health record is written to the health ring. -/
  | evHealthRecord
  /-- R448: Starts verification of the staged firmware image. -/
  | evLdrgo
  /-- R456: Verification ends and the image starts or FWSTAT reads FAIL. -/
  | evFirmwareVerified
  /-- R456: A missed controller heartbeat tears down every context and fails the firmware. -/
  | evHeartbeatMissed
  /-- R449: A host write through BAR2 is performed at the line's home. -/
  | evInboundWrite
  /-- R449: A host read through BAR2. -/
  | evInboundRead
  /-- R450: At enumeration or retrain the firmware records AtomicOp completer support. -/
  | evLinkRetrain
  /-- R453: A peer read request is performed at a home. -/
  | evTransportRead
  /-- R453: A peer write request is performed at a home. -/
  | evTransportWrite
  /-- R453: A peer atomic request is performed at a home. -/
  | evTransportAtomic
  /-- R453: Incoming CPYPEER data is written and acknowledged. -/
  | evCpypeerData
  /-- R453: A completion for an outstanding peer request arrives. -/
  | evTransportCompletion
  /-- R453: A peer with no acknowledgment for 10 ms becomes DOWN. -/
  | evPeerDown
  /-- R223: A link flit failing its CRC is retransmitted. -/
  | evFlitRetransmit
  /-- R224: A parity error discards a flit or queue entry for retransmission. -/
  | evParityDiscard
  /-- R404: A parity error in issue state refetches and replays the group. -/
  | evGroupReplay
  /-- R406: An uncorrectable error is contained by where it is found. -/
  | evUncorrectable
  /-- R225: The patrol scrubber reads and corrects one location. -/
  | evScrubStep
  /-- R411: No sooner than 1 ms after quarantine the page is rewritten clean. -/
  | evQuarantineClean
  /-- R435: Each whole hour of HSEC lowers each core's demerits by 1. -/
  | evDemeritDecay
  /-- R382: An IEEE 1588 message updates the DTB discipline and clock state. -/
  | evPtpMessage
  /-- R382: Three sync intervals without valid sync put the clock in HOLDOVER. -/
  | evSyncTimeout
  /-- R382: After 2 ms in HOLDOVER the clock becomes LOST. -/
  | evHoldoverTimeout
  /-- R31: The power manager lowers or restores the core clock by 50 MHz. -/
  | evClockStep
  /-- R458: Power above the limit at 0.8 GHz for 10 ms trips the module off. -/
  | evPowerTrip
  /-- R459: A junction at 95 °C lowers the clock. -/
  | evJunction95
  /-- R459: A junction at 105 °C turns the module off. -/
  | evJunction105
  /-- R459: Flow below 2.0 L/min for 1 s turns the module off. -/
  | evFlowLow
  /-- R439: The firmware lowers an SRAM voltage domain by a step after a whole WINDOW at nominal with no crossing, and restores a raised scrub rate when the error rate returns to normal. -/
  | evAdaptiveUndervolting
  /-- R442: A performance counter that wraps modulo 2^48 sets OVF and, with INT set, sends the performance MSI-X vector. -/
  | evPmcWrap
deriving DecidableEq, Repr

end Sys2Proof
end

