-- ==== Sys2Proof/Decode.lean ====
section
/-! DEFINITION. Decoding an instruction word into `Instr`, total on every word and rejecting by the
subcode of R73, and after it the encoder, both written from the encodings of R69 to R78 and of the
chapters they name. The chain bit [31] is no part of the instruction (R65). -/

namespace Sys2Proof

/-- What the decoder answers: an instruction, or the subcode of R73 by which the word is refused. -/
abbrev Decoded := Except Nat Instr

/-- Majors 0x00, SYS (R76, R126): reserved functions are subcode 2, nonzero unused bits subcode 3. -/
def decodeSys (w : Nat) : Decoded :=
  match fld w 20 5 with
  | 3 => if fld w 16 4 ≠ 0 then .error 3 else .ok (.trap (.ofNat 16 (fld w 0 16)))
  | 7 => if fld w 17 3 ≠ 0 then .error 3 else .ok (.pushr (.ofNat 17 (fld w 0 17)))
  | 10 => if fld w 8 12 ≠ 0 then .error 3 else .ok (.gsync (.ofNat 8 (fld w 0 8)))
  | 0 => if fld w 0 20 ≠ 0 then .error 3 else .ok (.nop)
  | 1 => if fld w 0 20 ≠ 0 then .error 3 else .ok (.exit)
  | 2 => if fld w 0 20 ≠ 0 then .error 3 else .ok (.ret)
  | 4 => if fld w 0 20 ≠ 0 then .error 3 else .ok (.bpt)
  | 5 => if fld w 0 20 ≠ 0 then .error 3 else .ok (.yield)
  | 6 => if fld w 0 20 ≠ 0 then .error 3 else .ok (.rtt)
  | 8 => if fld w 0 20 ≠ 0 then .error 3 else .ok (.join)
  | 9 => if fld w 0 20 ≠ 0 then .error 3 else .ok (.bsync)
  | _ => .error 2

/-- Major 0x01, BR (R120): the condition selects what REG names (R70, R76). -/
def decodeBr (w : Nat) : Decoded :=
  match fld w 22 3 with
  | 0 => if fld w 17 5 ≠ 0 then .error 3 else .ok (.bra (.ofNat 17 (fld w 0 17)))
  | 1 => .ok (.bz (.ofNat 5 (fld w 17 5)) (.ofNat 17 (fld w 0 17)))
  | 2 => .ok (.bnz (.ofNat 5 (fld w 17 5)) (.ofNat 17 (fld w 0 17)))
  | 3 => if fld w 20 2 ≠ 0 then .error 5 else .ok (.bany (.ofNat 3 (fld w 17 3)) (.ofNat 17 (fld w 0 17)))
  | 4 => if fld w 20 2 ≠ 0 then .error 5 else .ok (.ball (.ofNat 3 (fld w 17 3)) (.ofNat 17 (fld w 0 17)))
  | 5 => if fld w 20 2 ≠ 0 then .error 5 else .ok (.bnone (.ofNat 3 (fld w 17 3)) (.ofNat 17 (fld w 0 17)))
  | 6 => if fld w 20 2 ≠ 0 then .error 5 else .ok (.bdiv (.ofNat 3 (fld w 17 3)) (.ofNat 17 (fld w 0 17)))
  | _ => .error 2

/-- Major 0x03, SALU (R113). -/
def decodeSalu (w : Nat) : Decoded :=
  match fld w 20 5 with
  | 0 => if fld w 18 2 ≠ 0 then .error 3 else if fld w 17 1 ≠ 0 then .error 5 else if fld w 11 1 ≠ 0 then .error 5 else if fld w 5 1 ≠ 0 then .error 5 else .ok (.sadd (.ofNat 5 (fld w 12 5)) (.ofNat 5 (fld w 6 5)) (.ofNat 5 (fld w 0 5)))
  | 1 => if fld w 18 2 ≠ 0 then .error 3 else if fld w 17 1 ≠ 0 then .error 5 else if fld w 11 1 ≠ 0 then .error 5 else if fld w 5 1 ≠ 0 then .error 5 else .ok (.ssub (.ofNat 5 (fld w 12 5)) (.ofNat 5 (fld w 6 5)) (.ofNat 5 (fld w 0 5)))
  | 2 => if fld w 18 2 ≠ 0 then .error 3 else if fld w 17 1 ≠ 0 then .error 5 else if fld w 11 1 ≠ 0 then .error 5 else if fld w 5 1 ≠ 0 then .error 5 else .ok (.smul (.ofNat 5 (fld w 12 5)) (.ofNat 5 (fld w 6 5)) (.ofNat 5 (fld w 0 5)))
  | 3 => if fld w 18 2 ≠ 0 then .error 3 else if fld w 17 1 ≠ 0 then .error 5 else if fld w 11 1 ≠ 0 then .error 5 else if fld w 5 1 ≠ 0 then .error 5 else .ok (.smulhiI32 (.ofNat 5 (fld w 12 5)) (.ofNat 5 (fld w 6 5)) (.ofNat 5 (fld w 0 5)))
  | 4 => if fld w 18 2 ≠ 0 then .error 3 else if fld w 17 1 ≠ 0 then .error 5 else if fld w 11 1 ≠ 0 then .error 5 else if fld w 5 1 ≠ 0 then .error 5 else .ok (.smulhiN32 (.ofNat 5 (fld w 12 5)) (.ofNat 5 (fld w 6 5)) (.ofNat 5 (fld w 0 5)))
  | 5 => if fld w 18 2 ≠ 0 then .error 3 else if fld w 17 1 ≠ 0 then .error 5 else if fld w 11 1 ≠ 0 then .error 5 else if fld w 5 1 ≠ 0 then .error 5 else .ok (.sand (.ofNat 5 (fld w 12 5)) (.ofNat 5 (fld w 6 5)) (.ofNat 5 (fld w 0 5)))
  | 6 => if fld w 18 2 ≠ 0 then .error 3 else if fld w 17 1 ≠ 0 then .error 5 else if fld w 11 1 ≠ 0 then .error 5 else if fld w 5 1 ≠ 0 then .error 5 else .ok (.sor (.ofNat 5 (fld w 12 5)) (.ofNat 5 (fld w 6 5)) (.ofNat 5 (fld w 0 5)))
  | 7 => if fld w 18 2 ≠ 0 then .error 3 else if fld w 17 1 ≠ 0 then .error 5 else if fld w 11 1 ≠ 0 then .error 5 else if fld w 5 1 ≠ 0 then .error 5 else .ok (.sxor (.ofNat 5 (fld w 12 5)) (.ofNat 5 (fld w 6 5)) (.ofNat 5 (fld w 0 5)))
  | 8 => if fld w 18 2 ≠ 0 then .error 3 else if fld w 17 1 ≠ 0 then .error 5 else if fld w 11 1 ≠ 0 then .error 5 else if fld w 5 1 ≠ 0 then .error 5 else .ok (.sshl (.ofNat 5 (fld w 12 5)) (.ofNat 5 (fld w 6 5)) (.ofNat 5 (fld w 0 5)))
  | 9 => if fld w 18 2 ≠ 0 then .error 3 else if fld w 17 1 ≠ 0 then .error 5 else if fld w 11 1 ≠ 0 then .error 5 else if fld w 5 1 ≠ 0 then .error 5 else .ok (.sshrN32 (.ofNat 5 (fld w 12 5)) (.ofNat 5 (fld w 6 5)) (.ofNat 5 (fld w 0 5)))
  | 10 => if fld w 18 2 ≠ 0 then .error 3 else if fld w 17 1 ≠ 0 then .error 5 else if fld w 11 1 ≠ 0 then .error 5 else if fld w 5 1 ≠ 0 then .error 5 else .ok (.sshrI32 (.ofNat 5 (fld w 12 5)) (.ofNat 5 (fld w 6 5)) (.ofNat 5 (fld w 0 5)))
  | 11 => if fld w 18 2 ≠ 0 then .error 3 else if fld w 17 1 ≠ 0 then .error 5 else if fld w 11 1 ≠ 0 then .error 5 else if fld w 5 1 ≠ 0 then .error 5 else .ok (.sminI32 (.ofNat 5 (fld w 12 5)) (.ofNat 5 (fld w 6 5)) (.ofNat 5 (fld w 0 5)))
  | 12 => if fld w 18 2 ≠ 0 then .error 3 else if fld w 17 1 ≠ 0 then .error 5 else if fld w 11 1 ≠ 0 then .error 5 else if fld w 5 1 ≠ 0 then .error 5 else .ok (.smaxI32 (.ofNat 5 (fld w 12 5)) (.ofNat 5 (fld w 6 5)) (.ofNat 5 (fld w 0 5)))
  | 13 => if fld w 18 2 ≠ 0 then .error 3 else if fld w 17 1 ≠ 0 then .error 5 else if fld w 11 1 ≠ 0 then .error 5 else if fld w 5 1 ≠ 0 then .error 5 else .ok (.sminN32 (.ofNat 5 (fld w 12 5)) (.ofNat 5 (fld w 6 5)) (.ofNat 5 (fld w 0 5)))
  | 14 => if fld w 18 2 ≠ 0 then .error 3 else if fld w 17 1 ≠ 0 then .error 5 else if fld w 11 1 ≠ 0 then .error 5 else if fld w 5 1 ≠ 0 then .error 5 else .ok (.smaxN32 (.ofNat 5 (fld w 12 5)) (.ofNat 5 (fld w 6 5)) (.ofNat 5 (fld w 0 5)))
  | 15 => if fld w 18 2 ≠ 0 then .error 3 else if fld w 0 6 ≠ 0 then .error 3 else if fld w 17 1 ≠ 0 then .error 5 else if fld w 11 1 ≠ 0 then .error 5 else .ok (.sclz (.ofNat 5 (fld w 12 5)) (.ofNat 5 (fld w 6 5)))
  | 16 => if fld w 18 2 ≠ 0 then .error 3 else if fld w 0 6 ≠ 0 then .error 3 else if fld w 17 1 ≠ 0 then .error 5 else if fld w 11 1 ≠ 0 then .error 5 else .ok (.spopc (.ofNat 5 (fld w 12 5)) (.ofNat 5 (fld w 6 5)))
  | 17 => if fld w 18 2 ≠ 0 then .error 3 else if fld w 0 6 ≠ 0 then .error 3 else if fld w 17 1 ≠ 0 then .error 5 else if fld w 11 1 ≠ 0 then .error 5 else .ok (.smov (.ofNat 5 (fld w 12 5)) (.ofNat 5 (fld w 6 5)))
  | 18 => if fld w 18 2 ≠ 0 then .error 3 else if fld w 17 1 ≠ 0 then .error 5 else if fld w 11 1 ≠ 0 then .error 5 else if fld w 5 1 ≠ 0 then .error 5 else .ok (.ssltI32 (.ofNat 5 (fld w 12 5)) (.ofNat 5 (fld w 6 5)) (.ofNat 5 (fld w 0 5)))
  | 19 => if fld w 18 2 ≠ 0 then .error 3 else if fld w 17 1 ≠ 0 then .error 5 else if fld w 11 1 ≠ 0 then .error 5 else if fld w 5 1 ≠ 0 then .error 5 else .ok (.ssltN32 (.ofNat 5 (fld w 12 5)) (.ofNat 5 (fld w 6 5)) (.ofNat 5 (fld w 0 5)))
  | 20 => if fld w 18 2 ≠ 0 then .error 3 else if fld w 17 1 ≠ 0 then .error 5 else if fld w 11 1 ≠ 0 then .error 5 else if fld w 5 1 ≠ 0 then .error 5 else .ok (.sseq (.ofNat 5 (fld w 12 5)) (.ofNat 5 (fld w 6 5)) (.ofNat 5 (fld w 0 5)))
  | 21 => if fld w 18 2 ≠ 0 then .error 3 else if fld w 12 1 ≠ 0 then .error 4 else if fld w 6 1 ≠ 0 then .error 4 else if fld w 0 1 ≠ 0 then .error 4 else if fld w 17 1 ≠ 0 then .error 5 else if fld w 11 1 ≠ 0 then .error 5 else if fld w 5 1 ≠ 0 then .error 5 else .ok (.sadd64 (.ofNat 4 (fld w 13 4)) (.ofNat 4 (fld w 7 4)) (.ofNat 4 (fld w 1 4)))
  | 22 => if fld w 18 2 ≠ 0 then .error 3 else if fld w 12 1 ≠ 0 then .error 4 else if fld w 6 1 ≠ 0 then .error 4 else if fld w 0 1 ≠ 0 then .error 4 else if fld w 17 1 ≠ 0 then .error 5 else if fld w 11 1 ≠ 0 then .error 5 else if fld w 5 1 ≠ 0 then .error 5 else .ok (.ssub64 (.ofNat 4 (fld w 13 4)) (.ofNat 4 (fld w 7 4)) (.ofNat 4 (fld w 1 4)))
  | _ => .error 2

/-- Major 0x08, SSHI (R115): bits [12:5] are reserved. -/
def decodeSshi (w : Nat) : Decoded :=
  if fld w 5 8 ≠ 0 then .error 3 else
  match fld w 13 2 with
  | 0 => .ok (.sshiShl (.ofNat 5 (fld w 20 5)) (.ofNat 5 (fld w 15 5)) (.ofNat 5 (fld w 0 5)))
  | 1 => .ok (.sshiShrN32 (.ofNat 5 (fld w 20 5)) (.ofNat 5 (fld w 15 5)) (.ofNat 5 (fld w 0 5)))
  | 2 => .ok (.sshiShrI32 (.ofNat 5 (fld w 20 5)) (.ofNat 5 (fld w 15 5)) (.ofNat 5 (fld w 0 5)))
  | _ => .ok (.sshiRotl (.ofNat 5 (fld w 20 5)) (.ofNat 5 (fld w 15 5)) (.ofNat 5 (fld w 0 5)))

/-- Major 0x0D, LOOP (R135). -/
def decodeLoop (w : Nat) : Decoded :=
  match fld w 20 5 with
  | 0 => if fld w 0 15 ≠ 0 then .error 3 else if fld w 15 1 ≠ 0 then .error 4 else .ok (.lstart (.ofNat 4 (fld w 16 4)))
  | 1 => if fld w 0 15 ≠ 0 then .error 3 else if fld w 15 2 ≠ 0 then .error 4 else .ok (.nextit (.ofNat 3 (fld w 17 3)))
  | 2 => if fld w 17 3 ≠ 0 then .error 3 else .ok (.brit (.ofNat 17 (fld w 0 17)))
  | 3 => if fld w 0 20 ≠ 0 then .error 3 else .ok .lstop
  | _ => .error 2

/-- The special-register indices that exist (R100): all up to 29 but 9. -/
def sregListed (i : Nat) : Bool := i ≤ 29 && i != 9
/-- The special registers that SETSR may write (R100). -/
def sregWritable (i : Nat) : Bool := [0, 1, 2, 4, 5, 21, 22, 23, 24, 25].contains i

/-- Major 0x0E, SREG (R119): an unlisted index, or SETSR to a read-only register, is subcode 10. -/
def decodeSreg (w : Nat) : Decoded :=
  match fld w 20 5 with
  | 0 => if fld w 10 5 ≠ 0 then .error 3 else if ¬ sregListed (fld w 0 10) then .error 10 else .ok (.getsr (.ofNat 5 (fld w 15 5)) (.ofNat 10 (fld w 0 10)))
  | 1 => if fld w 10 5 ≠ 0 then .error 3 else if ¬ sregWritable (fld w 0 10) then .error 10 else .ok (.setsr (.ofNat 5 (fld w 15 5)) (.ofNat 10 (fld w 0 10)))
  | _ => .error 2

/-- Major 0x10, VINT (R144). -/
def decodeVint (w : Nat) : Decoded :=
  match fld w 20 5 with
  | 0 => if fld w 18 2 ≠ 0 then .error 3 else .ok (.vadd (.ofNat 6 (fld w 12 6)) (.ofNat 6 (fld w 6 6)) (.ofNat 6 (fld w 0 6)))
  | 1 => if fld w 18 2 ≠ 0 then .error 3 else .ok (.vsub (.ofNat 6 (fld w 12 6)) (.ofNat 6 (fld w 6 6)) (.ofNat 6 (fld w 0 6)))
  | 2 => if fld w 18 2 ≠ 0 then .error 3 else .ok (.vmul (.ofNat 6 (fld w 12 6)) (.ofNat 6 (fld w 6 6)) (.ofNat 6 (fld w 0 6)))
  | 3 => if fld w 18 2 ≠ 0 then .error 3 else .ok (.vmulhiI32 (.ofNat 6 (fld w 12 6)) (.ofNat 6 (fld w 6 6)) (.ofNat 6 (fld w 0 6)))
  | 4 => if fld w 18 2 ≠ 0 then .error 3 else .ok (.vmulhiN32 (.ofNat 6 (fld w 12 6)) (.ofNat 6 (fld w 6 6)) (.ofNat 6 (fld w 0 6)))
  | 5 => if fld w 18 2 ≠ 0 then .error 3 else .ok (.vminI32 (.ofNat 6 (fld w 12 6)) (.ofNat 6 (fld w 6 6)) (.ofNat 6 (fld w 0 6)))
  | 6 => if fld w 18 2 ≠ 0 then .error 3 else .ok (.vmaxI32 (.ofNat 6 (fld w 12 6)) (.ofNat 6 (fld w 6 6)) (.ofNat 6 (fld w 0 6)))
  | 7 => if fld w 18 2 ≠ 0 then .error 3 else .ok (.vminN32 (.ofNat 6 (fld w 12 6)) (.ofNat 6 (fld w 6 6)) (.ofNat 6 (fld w 0 6)))
  | 8 => if fld w 18 2 ≠ 0 then .error 3 else .ok (.vmaxN32 (.ofNat 6 (fld w 12 6)) (.ofNat 6 (fld w 6 6)) (.ofNat 6 (fld w 0 6)))
  | 9 => if fld w 18 2 ≠ 0 then .error 3 else .ok (.vand (.ofNat 6 (fld w 12 6)) (.ofNat 6 (fld w 6 6)) (.ofNat 6 (fld w 0 6)))
  | 10 => if fld w 18 2 ≠ 0 then .error 3 else .ok (.vor (.ofNat 6 (fld w 12 6)) (.ofNat 6 (fld w 6 6)) (.ofNat 6 (fld w 0 6)))
  | 11 => if fld w 18 2 ≠ 0 then .error 3 else .ok (.vxor (.ofNat 6 (fld w 12 6)) (.ofNat 6 (fld w 6 6)) (.ofNat 6 (fld w 0 6)))
  | 12 => if fld w 18 2 ≠ 0 then .error 3 else .ok (.vandn (.ofNat 6 (fld w 12 6)) (.ofNat 6 (fld w 6 6)) (.ofNat 6 (fld w 0 6)))
  | 13 => if fld w 18 2 ≠ 0 then .error 3 else .ok (.vshl (.ofNat 6 (fld w 12 6)) (.ofNat 6 (fld w 6 6)) (.ofNat 6 (fld w 0 6)))
  | 14 => if fld w 18 2 ≠ 0 then .error 3 else .ok (.vshrN32 (.ofNat 6 (fld w 12 6)) (.ofNat 6 (fld w 6 6)) (.ofNat 6 (fld w 0 6)))
  | 15 => if fld w 18 2 ≠ 0 then .error 3 else .ok (.vshrI32 (.ofNat 6 (fld w 12 6)) (.ofNat 6 (fld w 6 6)) (.ofNat 6 (fld w 0 6)))
  | 16 => if fld w 18 2 ≠ 0 then .error 3 else .ok (.vrotl (.ofNat 6 (fld w 12 6)) (.ofNat 6 (fld w 6 6)) (.ofNat 6 (fld w 0 6)))
  | 17 => if fld w 18 2 ≠ 0 then .error 3 else if fld w 0 6 ≠ 0 then .error 3 else .ok (.vpopc (.ofNat 6 (fld w 12 6)) (.ofNat 6 (fld w 6 6)))
  | 18 => if fld w 18 2 ≠ 0 then .error 3 else if fld w 0 6 ≠ 0 then .error 3 else .ok (.vclz (.ofNat 6 (fld w 12 6)) (.ofNat 6 (fld w 6 6)))
  | 19 => if fld w 18 2 ≠ 0 then .error 3 else if fld w 0 6 ≠ 0 then .error 3 else .ok (.vbrev (.ofNat 6 (fld w 12 6)) (.ofNat 6 (fld w 6 6)))
  | 20 => if fld w 18 2 ≠ 0 then .error 3 else .ok (.vabsdI32 (.ofNat 6 (fld w 12 6)) (.ofNat 6 (fld w 6 6)) (.ofNat 6 (fld w 0 6)))
  | 21 => if fld w 18 2 ≠ 0 then .error 3 else .ok (.vaddsI32 (.ofNat 6 (fld w 12 6)) (.ofNat 6 (fld w 6 6)) (.ofNat 6 (fld w 0 6)))
  | 22 => if fld w 18 2 ≠ 0 then .error 3 else .ok (.vsubsI32 (.ofNat 6 (fld w 12 6)) (.ofNat 6 (fld w 6 6)) (.ofNat 6 (fld w 0 6)))
  | 23 => if fld w 18 2 ≠ 1 then .error 3 else if fld w 12 1 ≠ 0 then .error 4 else if fld w 6 1 ≠ 0 then .error 4 else if fld w 0 1 ≠ 0 then .error 4 else .ok (.vadd64 (.ofNat 5 (fld w 13 5)) (.ofNat 5 (fld w 7 5)) (.ofNat 5 (fld w 1 5)))
  | 24 => if fld w 18 2 ≠ 1 then .error 3 else if fld w 12 1 ≠ 0 then .error 4 else if fld w 6 1 ≠ 0 then .error 4 else if fld w 0 1 ≠ 0 then .error 4 else .ok (.vsub64 (.ofNat 5 (fld w 13 5)) (.ofNat 5 (fld w 7 5)) (.ofNat 5 (fld w 1 5)))
  | 25 => if fld w 18 2 ≠ 0 then .error 3 else .ok (.vdot4I8 (.ofNat 6 (fld w 12 6)) (.ofNat 6 (fld w 6 6)) (.ofNat 6 (fld w 0 6)))
  | 26 => if fld w 18 2 ≠ 0 then .error 3 else .ok (.vdot2I16 (.ofNat 6 (fld w 12 6)) (.ofNat 6 (fld w 6 6)) (.ofNat 6 (fld w 0 6)))
  | _ => .error 2

/-- Major 0x11, VINTI (R146): functions 0 to 16, and shift amounts 0 to 31. -/
def decodeVinti (w : Nat) : Decoded :=
  if 17 ≤ fld w 20 5 then .error 2
  else if 13 ≤ fld w 20 5 ∧ fld w 5 3 ≠ 0 then .error 3
  else .ok (.vinti (.ofNat 5 (fld w 20 5)) (.ofNat 6 (fld w 14 6)) (.ofNat 6 (fld w 8 6)) (.ofNat 8 (fld w 0 8)))

/-- Major 0x12, VFLT (R147). -/
def decodeVflt (w : Nat) : Decoded :=
  match fld w 20 5 with
  | 0 => if fld w 18 2 ≠ 0 then .error 3 else .ok (.vfaddF32 (.ofNat 6 (fld w 12 6)) (.ofNat 6 (fld w 6 6)) (.ofNat 6 (fld w 0 6)))
  | 1 => if fld w 18 2 ≠ 0 then .error 3 else .ok (.vfsubF32 (.ofNat 6 (fld w 12 6)) (.ofNat 6 (fld w 6 6)) (.ofNat 6 (fld w 0 6)))
  | 2 => if fld w 18 2 ≠ 0 then .error 3 else .ok (.vfmulF32 (.ofNat 6 (fld w 12 6)) (.ofNat 6 (fld w 6 6)) (.ofNat 6 (fld w 0 6)))
  | 3 => if fld w 18 2 ≠ 0 then .error 3 else .ok (.vfminF32 (.ofNat 6 (fld w 12 6)) (.ofNat 6 (fld w 6 6)) (.ofNat 6 (fld w 0 6)))
  | 4 => if fld w 18 2 ≠ 0 then .error 3 else .ok (.vfmaxF32 (.ofNat 6 (fld w 12 6)) (.ofNat 6 (fld w 6 6)) (.ofNat 6 (fld w 0 6)))
  | 5 => if fld w 18 2 ≠ 0 then .error 3 else if fld w 0 6 ≠ 0 then .error 3 else .ok (.vfabsF32 (.ofNat 6 (fld w 12 6)) (.ofNat 6 (fld w 6 6)))
  | 6 => if fld w 18 2 ≠ 0 then .error 3 else if fld w 0 6 ≠ 0 then .error 3 else .ok (.vfnegF32 (.ofNat 6 (fld w 12 6)) (.ofNat 6 (fld w 6 6)))
  | 7 => if fld w 18 2 ≠ 0 then .error 3 else .ok (.vfcpsgnF32 (.ofNat 6 (fld w 12 6)) (.ofNat 6 (fld w 6 6)) (.ofNat 6 (fld w 0 6)))
  | 8 => if fld w 18 2 ≠ 0 then .error 3 else .ok (.vfaddF16x2 (.ofNat 6 (fld w 12 6)) (.ofNat 6 (fld w 6 6)) (.ofNat 6 (fld w 0 6)))
  | 9 => if fld w 18 2 ≠ 0 then .error 3 else .ok (.vfsubF16x2 (.ofNat 6 (fld w 12 6)) (.ofNat 6 (fld w 6 6)) (.ofNat 6 (fld w 0 6)))
  | 10 => if fld w 18 2 ≠ 0 then .error 3 else .ok (.vfmulF16x2 (.ofNat 6 (fld w 12 6)) (.ofNat 6 (fld w 6 6)) (.ofNat 6 (fld w 0 6)))
  | 11 => if fld w 18 2 ≠ 0 then .error 3 else .ok (.vfminF16x2 (.ofNat 6 (fld w 12 6)) (.ofNat 6 (fld w 6 6)) (.ofNat 6 (fld w 0 6)))
  | 12 => if fld w 18 2 ≠ 0 then .error 3 else .ok (.vfmaxF16x2 (.ofNat 6 (fld w 12 6)) (.ofNat 6 (fld w 6 6)) (.ofNat 6 (fld w 0 6)))
  | 13 => if fld w 18 2 ≠ 0 then .error 3 else .ok (.vfaddB16x2 (.ofNat 6 (fld w 12 6)) (.ofNat 6 (fld w 6 6)) (.ofNat 6 (fld w 0 6)))
  | 14 => if fld w 18 2 ≠ 0 then .error 3 else .ok (.vfsubB16x2 (.ofNat 6 (fld w 12 6)) (.ofNat 6 (fld w 6 6)) (.ofNat 6 (fld w 0 6)))
  | 15 => if fld w 18 2 ≠ 0 then .error 3 else .ok (.vfmulB16x2 (.ofNat 6 (fld w 12 6)) (.ofNat 6 (fld w 6 6)) (.ofNat 6 (fld w 0 6)))
  | 16 => if fld w 18 2 ≠ 0 then .error 3 else .ok (.vfminB16x2 (.ofNat 6 (fld w 12 6)) (.ofNat 6 (fld w 6 6)) (.ofNat 6 (fld w 0 6)))
  | 17 => if fld w 18 2 ≠ 0 then .error 3 else .ok (.vfmaxB16x2 (.ofNat 6 (fld w 12 6)) (.ofNat 6 (fld w 6 6)) (.ofNat 6 (fld w 0 6)))
  | 18 => if fld w 18 2 ≠ 1 then .error 3 else if fld w 12 1 ≠ 0 then .error 4 else if fld w 6 1 ≠ 0 then .error 4 else if fld w 0 1 ≠ 0 then .error 4 else .ok (.vfaddF64 (.ofNat 5 (fld w 13 5)) (.ofNat 5 (fld w 7 5)) (.ofNat 5 (fld w 1 5)))
  | 19 => if fld w 18 2 ≠ 1 then .error 3 else if fld w 12 1 ≠ 0 then .error 4 else if fld w 6 1 ≠ 0 then .error 4 else if fld w 0 1 ≠ 0 then .error 4 else .ok (.vfsubF64 (.ofNat 5 (fld w 13 5)) (.ofNat 5 (fld w 7 5)) (.ofNat 5 (fld w 1 5)))
  | 20 => if fld w 18 2 ≠ 1 then .error 3 else if fld w 12 1 ≠ 0 then .error 4 else if fld w 6 1 ≠ 0 then .error 4 else if fld w 0 1 ≠ 0 then .error 4 else .ok (.vfmulF64 (.ofNat 5 (fld w 13 5)) (.ofNat 5 (fld w 7 5)) (.ofNat 5 (fld w 1 5)))
  | 21 => if fld w 18 2 ≠ 1 then .error 3 else if fld w 12 1 ≠ 0 then .error 4 else if fld w 6 1 ≠ 0 then .error 4 else if fld w 0 1 ≠ 0 then .error 4 else .ok (.vfminF64 (.ofNat 5 (fld w 13 5)) (.ofNat 5 (fld w 7 5)) (.ofNat 5 (fld w 1 5)))
  | 22 => if fld w 18 2 ≠ 1 then .error 3 else if fld w 12 1 ≠ 0 then .error 4 else if fld w 6 1 ≠ 0 then .error 4 else if fld w 0 1 ≠ 0 then .error 4 else .ok (.vfmaxF64 (.ofNat 5 (fld w 13 5)) (.ofNat 5 (fld w 7 5)) (.ofNat 5 (fld w 1 5)))
  | 23 => if fld w 18 2 ≠ 0 then .error 3 else .ok (.vcmulB16 (.ofNat 6 (fld w 12 6)) (.ofNat 6 (fld w 6 6)) (.ofNat 6 (fld w 0 6)))
  | _ => .error 2

/-- Major 0x13, VFMA (R150). -/
def decodeVfma (w : Nat) : Decoded :=
  match fld w 23 2 with
  | 0 => .ok (.vfmaF32 (.ofNat 6 (fld w 17 6)) (.ofNat 6 (fld w 11 6)) (.ofNat 6 (fld w 5 6)) (.ofNat 5 (fld w 0 5)))
  | 1 => .ok (.vfmaF16x2 (.ofNat 6 (fld w 17 6)) (.ofNat 6 (fld w 11 6)) (.ofNat 6 (fld w 5 6)) (.ofNat 5 (fld w 0 5)))
  | 2 => .ok (.vfmaB16x2 (.ofNat 6 (fld w 17 6)) (.ofNat 6 (fld w 11 6)) (.ofNat 6 (fld w 5 6)) (.ofNat 5 (fld w 0 5)))
  | _ => if fld w 0 1 ≠ 0 ∨ fld w 5 1 ≠ 0 ∨ fld w 11 1 ≠ 0 ∨ fld w 17 1 ≠ 0 then .error 4 else .ok (.vfmaF64 (.ofNat 5 (fld w 18 5)) (.ofNat 5 (fld w 12 5)) (.ofNat 5 (fld w 6 5)) (.ofNat 4 (fld w 1 4)))

/-- Major 0x14, VCMP (R151): UNORD and ORD do not exist for the integer types. -/
def decodeVcmp (w : Nat) : Decoded :=
  match fld w 23 2 with
  | 0 => if 6 ≤ fld w 20 3 then .error 2 else if fld w 18 2 ≠ 0 then .error 3 else if fld w 15 3 ≠ 0 then .error 5 else .ok (.vcmpI32 (.ofNat 3 (fld w 20 3)) (.ofNat 3 (fld w 12 3)) (.ofNat 6 (fld w 6 6)) (.ofNat 6 (fld w 0 6)))
  | 1 => if 6 ≤ fld w 20 3 then .error 2 else if fld w 18 2 ≠ 0 then .error 3 else if fld w 15 3 ≠ 0 then .error 5 else .ok (.vcmpN32 (.ofNat 3 (fld w 20 3)) (.ofNat 3 (fld w 12 3)) (.ofNat 6 (fld w 6 6)) (.ofNat 6 (fld w 0 6)))
  | 2 => if fld w 18 2 ≠ 0 then .error 3 else if fld w 15 3 ≠ 0 then .error 5 else .ok (.vcmpF32 (.ofNat 3 (fld w 20 3)) (.ofNat 3 (fld w 12 3)) (.ofNat 6 (fld w 6 6)) (.ofNat 6 (fld w 0 6)))
  | _ => if fld w 18 2 ≠ 0 then .error 3 else if fld w 15 3 ≠ 0 then .error 5 else .ok (.vcmpF16x2 (.ofNat 3 (fld w 20 3)) (.ofNat 3 (fld w 12 3)) (.ofNat 6 (fld w 6 6)) (.ofNat 6 (fld w 0 6)))

/-- Major 0x15, VCVT (R152): each function accepts exactly one W. -/
def decodeVcvt (w : Nat) : Decoded :=
  match fld w 20 5 with
  | 0 => if fld w 18 2 ≠ 0 then .error 3 else if fld w 0 6 ≠ 0 then .error 3 else .ok (.vcvtF32I32 (.ofNat 6 (fld w 12 6)) (.ofNat 6 (fld w 6 6)))
  | 1 => if fld w 18 2 ≠ 0 then .error 3 else if fld w 0 6 ≠ 0 then .error 3 else .ok (.vcvtF32N32 (.ofNat 6 (fld w 12 6)) (.ofNat 6 (fld w 6 6)))
  | 2 => if fld w 18 2 ≠ 0 then .error 3 else if fld w 0 6 ≠ 0 then .error 3 else .ok (.vcvtI32F32 (.ofNat 6 (fld w 12 6)) (.ofNat 6 (fld w 6 6)))
  | 3 => if fld w 18 2 ≠ 0 then .error 3 else if fld w 0 6 ≠ 0 then .error 3 else .ok (.vcvtI32F32Rz (.ofNat 6 (fld w 12 6)) (.ofNat 6 (fld w 6 6)))
  | 4 => if fld w 18 2 ≠ 0 then .error 3 else if fld w 0 6 ≠ 0 then .error 3 else .ok (.vcvtN32F32 (.ofNat 6 (fld w 12 6)) (.ofNat 6 (fld w 6 6)))
  | 5 => if fld w 18 2 ≠ 1 then .error 3 else if fld w 0 6 ≠ 0 then .error 3 else if fld w 6 1 ≠ 0 then .error 4 else .ok (.vcvtF16x2F32 (.ofNat 6 (fld w 12 6)) (.ofNat 5 (fld w 7 5)))
  | 6 => if fld w 18 2 ≠ 1 then .error 3 else if fld w 0 6 ≠ 0 then .error 3 else if fld w 6 1 ≠ 0 then .error 4 else .ok (.vcvtB16x2F32 (.ofNat 6 (fld w 12 6)) (.ofNat 5 (fld w 7 5)))
  | 7 => if fld w 18 2 ≠ 0 then .error 3 else if fld w 0 6 ≠ 0 then .error 3 else .ok (.vcvtF32F16 (.ofNat 6 (fld w 12 6)) (.ofNat 6 (fld w 6 6)))
  | 8 => if fld w 18 2 ≠ 0 then .error 3 else if fld w 0 6 ≠ 0 then .error 3 else .ok (.vcvtF32F16h (.ofNat 6 (fld w 12 6)) (.ofNat 6 (fld w 6 6)))
  | 9 => if fld w 18 2 ≠ 0 then .error 3 else if fld w 0 6 ≠ 0 then .error 3 else .ok (.vcvtF32B16 (.ofNat 6 (fld w 12 6)) (.ofNat 6 (fld w 6 6)))
  | 10 => if fld w 18 2 ≠ 0 then .error 3 else if fld w 0 6 ≠ 0 then .error 3 else .ok (.vcvtF32B16h (.ofNat 6 (fld w 12 6)) (.ofNat 6 (fld w 6 6)))
  | 11 => if fld w 18 2 ≠ 1 then .error 3 else if fld w 0 6 ≠ 0 then .error 3 else if fld w 12 1 ≠ 0 then .error 4 else .ok (.vcvtF64F32 (.ofNat 5 (fld w 13 5)) (.ofNat 6 (fld w 6 6)))
  | 12 => if fld w 18 2 ≠ 1 then .error 3 else if fld w 0 6 ≠ 0 then .error 3 else if fld w 6 1 ≠ 0 then .error 4 else .ok (.vcvtF32F64 (.ofNat 6 (fld w 12 6)) (.ofNat 5 (fld w 7 5)))
  | 13 => if fld w 18 2 ≠ 2 then .error 3 else if fld w 0 6 ≠ 0 then .error 3 else if fld w 6 2 ≠ 0 then .error 4 else .ok (.vcvtE4x4F32 (.ofNat 6 (fld w 12 6)) (.ofNat 4 (fld w 8 4)))
  | 14 => if fld w 18 2 ≠ 2 then .error 3 else if fld w 0 6 ≠ 0 then .error 3 else if fld w 6 2 ≠ 0 then .error 4 else .ok (.vcvtE5x4F32 (.ofNat 6 (fld w 12 6)) (.ofNat 4 (fld w 8 4)))
  | 15 => if fld w 18 2 ≠ 3 then .error 3 else if fld w 0 6 ≠ 0 then .error 3 else if fld w 6 3 ≠ 0 then .error 4 else .ok (.vcvtE2x8F32 (.ofNat 6 (fld w 12 6)) (.ofNat 3 (fld w 9 3)))
  | 16 => if fld w 18 2 ≠ 0 then .error 3 else if fld w 0 6 ≠ 0 then .error 3 else .ok (.vcvtL6F32 (.ofNat 6 (fld w 12 6)) (.ofNat 6 (fld w 6 6)))
  | 17 => if fld w 18 2 ≠ 0 then .error 3 else if fld w 0 6 ≠ 0 then .error 3 else .ok (.vcvtF32L6 (.ofNat 6 (fld w 12 6)) (.ofNat 6 (fld w 6 6)))
  | 18 => if fld w 18 2 ≠ 0 then .error 3 else if fld w 0 6 ≠ 0 then .error 3 else .ok (.vcvtF32E4 (.ofNat 6 (fld w 12 6)) (.ofNat 6 (fld w 6 6)))
  | 19 => if fld w 18 2 ≠ 0 then .error 3 else if fld w 0 6 ≠ 0 then .error 3 else .ok (.vcvtF32E5 (.ofNat 6 (fld w 12 6)) (.ofNat 6 (fld w 6 6)))
  | 20 => if fld w 18 2 ≠ 0 then .error 3 else if fld w 0 6 ≠ 0 then .error 3 else .ok (.vcvtF32E2 (.ofNat 6 (fld w 12 6)) (.ofNat 6 (fld w 6 6)))
  | _ => .error 2

/-- Major 0x16, VSFU (R154). -/
def decodeVsfu (w : Nat) : Decoded :=
  match fld w 20 5 with
  | 0 => if fld w 18 2 ≠ 0 then .error 3 else if fld w 0 6 ≠ 0 then .error 3 else .ok (.vrcp (.ofNat 6 (fld w 12 6)) (.ofNat 6 (fld w 6 6)))
  | 1 => if fld w 18 2 ≠ 0 then .error 3 else if fld w 0 6 ≠ 0 then .error 3 else .ok (.vrsq (.ofNat 6 (fld w 12 6)) (.ofNat 6 (fld w 6 6)))
  | 2 => if fld w 18 2 ≠ 0 then .error 3 else if fld w 0 6 ≠ 0 then .error 3 else .ok (.vsqrt (.ofNat 6 (fld w 12 6)) (.ofNat 6 (fld w 6 6)))
  | 3 => if fld w 18 2 ≠ 0 then .error 3 else if fld w 0 6 ≠ 0 then .error 3 else .ok (.vexp2 (.ofNat 6 (fld w 12 6)) (.ofNat 6 (fld w 6 6)))
  | 4 => if fld w 18 2 ≠ 0 then .error 3 else if fld w 0 6 ≠ 0 then .error 3 else .ok (.vlog2 (.ofNat 6 (fld w 12 6)) (.ofNat 6 (fld w 6 6)))
  | 5 => if fld w 18 2 ≠ 0 then .error 3 else if fld w 0 6 ≠ 0 then .error 3 else .ok (.vsint (.ofNat 6 (fld w 12 6)) (.ofNat 6 (fld w 6 6)))
  | 6 => if fld w 18 2 ≠ 0 then .error 3 else if fld w 0 6 ≠ 0 then .error 3 else .ok (.vcost (.ofNat 6 (fld w 12 6)) (.ofNat 6 (fld w 6 6)))
  | 7 => if fld w 18 2 ≠ 0 then .error 3 else if fld w 0 6 ≠ 0 then .error 3 else .ok (.vtanh (.ofNat 6 (fld w 12 6)) (.ofNat 6 (fld w 6 6)))
  | _ => .error 2

/-- Whether register number `n` is a multiple of the width that the W field `v` selects (R71). -/
def widthOk (v n : Nat) : Bool := n % 2 ^ v == 0

/-- Major 0x17, VLANE (R156): VMOV takes every W. -/
def decodeVlane (w : Nat) : Decoded :=
  match fld w 20 5 with
  | 1 => if fld w 18 2 ≠ 0 then .error 3 else if fld w 0 6 ≠ 0 then .error 3 else if fld w 11 1 ≠ 0 then .error 5 else .ok (.vmovs (.ofNat 6 (fld w 12 6)) (.ofNat 5 (fld w 6 5)))
  | 2 => if fld w 18 2 ≠ 0 then .error 3 else if fld w 6 6 ≠ 0 then .error 3 else if fld w 0 6 ≠ 0 then .error 3 else .ok (.vlaneid (.ofNat 6 (fld w 12 6)))
  | 3 => if fld w 18 2 ≠ 0 then .error 3 else if fld w 5 1 ≠ 0 then .error 3 else if fld w 17 1 ≠ 0 then .error 5 else .ok (.vreadl (.ofNat 5 (fld w 12 5)) (.ofNat 6 (fld w 6 6)) (.ofNat 5 (fld w 0 5)))
  | 4 => if fld w 18 2 ≠ 0 then .error 3 else if fld w 5 1 ≠ 0 then .error 3 else if fld w 11 1 ≠ 0 then .error 5 else .ok (.vwritel (.ofNat 6 (fld w 12 6)) (.ofNat 5 (fld w 6 5)) (.ofNat 5 (fld w 0 5)))
  | 5 => if fld w 18 2 ≠ 0 then .error 3 else if fld w 0 6 ≠ 0 then .error 3 else .ok (.vfirst (.ofNat 6 (fld w 12 6)) (.ofNat 6 (fld w 6 6)))
  | 0 => if fld w 0 6 ≠ 0 then .error 3
         else if ¬ widthOk (fld w 18 2) (fld w 12 6) ∨ ¬ widthOk (fld w 18 2) (fld w 6 6) then .error 4
         else .ok (.vmov (.ofNat 2 (fld w 18 2)) (.ofNat 6 (fld w 12 6)) (.ofNat 6 (fld w 6 6)))
  | _ => .error 2

/-- Major 0x18, VSHFL (R157): function 0 has format A, the others format I. -/
def decodeVshfl (w : Nat) : Decoded :=
  match fld w 20 5 with
  | 0 => if fld w 18 2 ≠ 0 then .error 3 else .ok (.vshflIdx (.ofNat 6 (fld w 12 6)) (.ofNat 6 (fld w 6 6)) (.ofNat 6 (fld w 0 6)))
  | 1 => if fld w 5 3 ≠ 0 then .error 3 else .ok (.vshflUp (.ofNat 6 (fld w 14 6)) (.ofNat 6 (fld w 8 6)) (.ofNat 5 (fld w 0 5)))
  | 2 => if fld w 5 3 ≠ 0 then .error 3 else .ok (.vshflDown (.ofNat 6 (fld w 14 6)) (.ofNat 6 (fld w 8 6)) (.ofNat 5 (fld w 0 5)))
  | 3 => if fld w 5 3 ≠ 0 then .error 3 else .ok (.vshflXor (.ofNat 6 (fld w 14 6)) (.ofNat 6 (fld w 8 6)) (.ofNat 5 (fld w 0 5)))
  | 4 => if fld w 5 3 ≠ 0 then .error 3 else .ok (.vshflBcast (.ofNat 6 (fld w 14 6)) (.ofNat 6 (fld w 8 6)) (.ofNat 5 (fld w 0 5)))
  | _ => .error 2

/-- Major 0x19, VRED (R158, R159). -/
def decodeVred (w : Nat) : Decoded :=
  match fld w 20 5 with
  | 0 => if fld w 18 2 ≠ 0 then .error 3 else if fld w 0 6 ≠ 0 then .error 3 else .ok (.raddI32 (.ofNat 6 (fld w 12 6)) (.ofNat 6 (fld w 6 6)))
  | 1 => if fld w 18 2 ≠ 0 then .error 3 else if fld w 0 6 ≠ 0 then .error 3 else .ok (.raddF32 (.ofNat 6 (fld w 12 6)) (.ofNat 6 (fld w 6 6)))
  | 2 => if fld w 18 2 ≠ 0 then .error 3 else if fld w 0 6 ≠ 0 then .error 3 else .ok (.rminI32 (.ofNat 6 (fld w 12 6)) (.ofNat 6 (fld w 6 6)))
  | 3 => if fld w 18 2 ≠ 0 then .error 3 else if fld w 0 6 ≠ 0 then .error 3 else .ok (.rmaxI32 (.ofNat 6 (fld w 12 6)) (.ofNat 6 (fld w 6 6)))
  | 4 => if fld w 18 2 ≠ 0 then .error 3 else if fld w 0 6 ≠ 0 then .error 3 else .ok (.rminN32 (.ofNat 6 (fld w 12 6)) (.ofNat 6 (fld w 6 6)))
  | 5 => if fld w 18 2 ≠ 0 then .error 3 else if fld w 0 6 ≠ 0 then .error 3 else .ok (.rmaxN32 (.ofNat 6 (fld w 12 6)) (.ofNat 6 (fld w 6 6)))
  | 6 => if fld w 18 2 ≠ 0 then .error 3 else if fld w 0 6 ≠ 0 then .error 3 else .ok (.rminF32 (.ofNat 6 (fld w 12 6)) (.ofNat 6 (fld w 6 6)))
  | 7 => if fld w 18 2 ≠ 0 then .error 3 else if fld w 0 6 ≠ 0 then .error 3 else .ok (.rmaxF32 (.ofNat 6 (fld w 12 6)) (.ofNat 6 (fld w 6 6)))
  | 8 => if fld w 18 2 ≠ 0 then .error 3 else if fld w 0 6 ≠ 0 then .error 3 else .ok (.rand (.ofNat 6 (fld w 12 6)) (.ofNat 6 (fld w 6 6)))
  | 9 => if fld w 18 2 ≠ 0 then .error 3 else if fld w 0 6 ≠ 0 then .error 3 else .ok (.ror (.ofNat 6 (fld w 12 6)) (.ofNat 6 (fld w 6 6)))
  | 10 => if fld w 18 2 ≠ 0 then .error 3 else if fld w 0 6 ≠ 0 then .error 3 else .ok (.rxor (.ofNat 6 (fld w 12 6)) (.ofNat 6 (fld w 6 6)))
  | 16 => if fld w 18 2 ≠ 0 then .error 3 else if fld w 0 6 ≠ 0 then .error 3 else .ok (.scanaddI32 (.ofNat 6 (fld w 12 6)) (.ofNat 6 (fld w 6 6)))
  | 17 => if fld w 18 2 ≠ 0 then .error 3 else if fld w 0 6 ≠ 0 then .error 3 else .ok (.scanaddI32Ex (.ofNat 6 (fld w 12 6)) (.ofNat 6 (fld w 6 6)))
  | 18 => if fld w 18 2 ≠ 0 then .error 3 else if fld w 0 6 ≠ 0 then .error 3 else .ok (.scanaddF32 (.ofNat 6 (fld w 12 6)) (.ofNat 6 (fld w 6 6)))
  | _ => .error 2

/-- Major 0x1A, VVOTE (R160). -/
def decodeVvote (w : Nat) : Decoded :=
  match fld w 20 5 with
  | 0 => if fld w 18 2 ≠ 0 then .error 3 else if fld w 0 6 ≠ 0 then .error 3 else if fld w 15 3 ≠ 0 then .error 5 else if fld w 9 3 ≠ 0 then .error 5 else .ok (.vvoteAny (.ofNat 3 (fld w 12 3)) (.ofNat 3 (fld w 6 3)))
  | 1 => if fld w 18 2 ≠ 0 then .error 3 else if fld w 0 6 ≠ 0 then .error 3 else if fld w 15 3 ≠ 0 then .error 5 else if fld w 9 3 ≠ 0 then .error 5 else .ok (.vvoteAll (.ofNat 3 (fld w 12 3)) (.ofNat 3 (fld w 6 3)))
  | 2 => if fld w 18 2 ≠ 0 then .error 3 else if fld w 0 6 ≠ 0 then .error 3 else if fld w 17 1 ≠ 0 then .error 5 else if fld w 9 3 ≠ 0 then .error 5 else .ok (.vvoteBallot (.ofNat 5 (fld w 12 5)) (.ofNat 3 (fld w 6 3)))
  | 3 => if fld w 18 2 ≠ 0 then .error 3 else if fld w 0 6 ≠ 0 then .error 3 else if fld w 9 3 ≠ 0 then .error 5 else .ok (.vvoteCount (.ofNat 6 (fld w 12 6)) (.ofNat 3 (fld w 6 3)))
  | _ => .error 2

/-- Major 0x1B, VTAB (R155): FN[4:3] is reserved. -/
def decodeVtab (w : Nat) : Decoded :=
  if fld w 23 2 ≠ 0 ∨ fld w 18 2 ≠ 0 ∨ fld w 0 6 ≠ 0 then .error 3 else .ok (.vtab (.ofNat 3 (fld w 20 3)) (.ofNat 6 (fld w 12 6)) (.ofNat 6 (fld w 6 6)))

/-- Major 0x1C, VPRED (R161). -/
def decodeVpred (w : Nat) : Decoded :=
  match fld w 20 5 with
  | 0 => if fld w 18 2 ≠ 0 then .error 3 else if fld w 15 3 ≠ 0 then .error 5 else if fld w 9 3 ≠ 0 then .error 5 else if fld w 3 3 ≠ 0 then .error 5 else .ok (.pand (.ofNat 3 (fld w 12 3)) (.ofNat 3 (fld w 6 3)) (.ofNat 3 (fld w 0 3)))
  | 1 => if fld w 18 2 ≠ 0 then .error 3 else if fld w 15 3 ≠ 0 then .error 5 else if fld w 9 3 ≠ 0 then .error 5 else if fld w 3 3 ≠ 0 then .error 5 else .ok (.por (.ofNat 3 (fld w 12 3)) (.ofNat 3 (fld w 6 3)) (.ofNat 3 (fld w 0 3)))
  | 2 => if fld w 18 2 ≠ 0 then .error 3 else if fld w 15 3 ≠ 0 then .error 5 else if fld w 9 3 ≠ 0 then .error 5 else if fld w 3 3 ≠ 0 then .error 5 else .ok (.pxor (.ofNat 3 (fld w 12 3)) (.ofNat 3 (fld w 6 3)) (.ofNat 3 (fld w 0 3)))
  | 3 => if fld w 18 2 ≠ 0 then .error 3 else if fld w 15 3 ≠ 0 then .error 5 else if fld w 9 3 ≠ 0 then .error 5 else if fld w 3 3 ≠ 0 then .error 5 else .ok (.pandn (.ofNat 3 (fld w 12 3)) (.ofNat 3 (fld w 6 3)) (.ofNat 3 (fld w 0 3)))
  | 4 => if fld w 18 2 ≠ 0 then .error 3 else if fld w 0 6 ≠ 0 then .error 3 else if fld w 15 3 ≠ 0 then .error 5 else if fld w 9 3 ≠ 0 then .error 5 else .ok (.pnot (.ofNat 3 (fld w 12 3)) (.ofNat 3 (fld w 6 3)))
  | 5 => if fld w 18 2 ≠ 0 then .error 3 else if fld w 0 6 ≠ 0 then .error 3 else if fld w 15 3 ≠ 0 then .error 5 else if fld w 9 3 ≠ 0 then .error 5 else .ok (.pmov (.ofNat 3 (fld w 12 3)) (.ofNat 3 (fld w 6 3)))
  | 6 => if fld w 18 2 ≠ 0 then .error 3 else if fld w 12 6 ≠ 0 then .error 3 else if fld w 0 6 ≠ 0 then .error 3 else if fld w 9 3 ≠ 0 then .error 5 else .ok (.setexec (.ofNat 3 (fld w 6 3)))
  | 7 => if fld w 18 2 ≠ 0 then .error 3 else if fld w 6 6 ≠ 0 then .error 3 else if fld w 0 6 ≠ 0 then .error 3 else if fld w 15 3 ≠ 0 then .error 5 else .ok (.getexec (.ofNat 3 (fld w 12 3)))
  | 8 => if fld w 18 2 ≠ 0 then .error 3 else if fld w 0 6 ≠ 0 then .error 3 else if fld w 15 3 ≠ 0 then .error 5 else if fld w 11 1 ≠ 0 then .error 5 else .ok (.pfroms (.ofNat 3 (fld w 12 3)) (.ofNat 5 (fld w 6 5)))
  | 9 => if fld w 18 2 ≠ 0 then .error 3 else if fld w 0 6 ≠ 0 then .error 3 else if fld w 17 1 ≠ 0 then .error 5 else if fld w 9 3 ≠ 0 then .error 5 else .ok (.ptos (.ofNat 5 (fld w 12 5)) (.ofNat 3 (fld w 6 3)))
  | 10 => if fld w 18 2 ≠ 0 then .error 3 else if fld w 12 6 ≠ 0 then .error 3 else if fld w 0 6 ≠ 0 then .error 3 else if fld w 9 3 ≠ 0 then .error 5 else .ok (.execand (.ofNat 3 (fld w 6 3)))
  | 11 => if fld w 18 2 ≠ 0 then .error 3 else if fld w 0 6 ≠ 0 then .error 3 else if fld w 15 3 ≠ 0 then .error 5 else if fld w 9 3 ≠ 0 then .error 5 else .ok (.ppopc (.ofNat 3 (fld w 12 3)) (.ofNat 3 (fld w 6 3)))
  | _ => .error 2

/-- The W value that a VLD or VST of size `z` needs (R282). -/
def sizeW (z : Nat) : Nat := if z = 3 then 1 else if z = 4 then 2 else 0

/-- Major 0x20, VLD (R282). -/
def decodeVld (w : Nat) : Decoded :=
  if fld w 22 3 = 7 then .error 2
  else if fld w 19 2 ≠ sizeW (fld w 22 3) then .error 3
  else if ¬ widthOk (fld w 19 2) (fld w 13 6) ∨ fld w 2 1 ≠ 0 then .error 4
  else .ok (.vld (.ofNat 3 (fld w 22 3)) (.ofNat 1 (fld w 21 1)) (.ofNat 2 (fld w 19 2)) (.ofNat 6 (fld w 13 6)) (.ofNat 6 (fld w 7 6)) (.ofNat 4 (fld w 3 4)) (.ofNat 2 (fld w 0 2)))

/-- Major 0x21, VST (R282): the sign-extending sizes do not exist. -/
def decodeVst (w : Nat) : Decoded :=
  if 5 ≤ fld w 22 3 then .error 2
  else if fld w 19 2 ≠ sizeW (fld w 22 3) then .error 3
  else if ¬ widthOk (fld w 19 2) (fld w 13 6) ∨ fld w 2 1 ≠ 0 then .error 4
  else .ok (.vst (.ofNat 3 (fld w 22 3)) (.ofNat 1 (fld w 21 1)) (.ofNat 2 (fld w 19 2)) (.ofNat 6 (fld w 13 6)) (.ofNat 6 (fld w 7 6)) (.ofNat 4 (fld w 3 4)) (.ofNat 2 (fld w 0 2)))

/-- Major 0x22, VATOM (R285, R287): CAS and ADD.I64 take pairs, and a redirect word must be a
register up to V63. -/
def decodeVatom (w : Nat) : Decoded :=
  if fld w 21 4 = 15 ∨ fld w 0 2 = 3 then .error 2 else
  let wide := fld w 21 4 = 11 ∨ fld w 21 4 = 14
  if fld w 19 2 ≠ (if wide then 1 else 0) then .error 3
  else if fld w 0 2 = 2 ∧ 62 < fld w 13 6 + (if wide then 1 else 0) then .error 3
  else if (wide ∧ fld w 13 1 ≠ 0) ∨ fld w 2 1 ≠ 0 then .error 4
  else match fld w 21 4 with
    | 0 => .ok (.vatomAddI32 (.ofNat 6 (fld w 13 6)) (.ofNat 6 (fld w 7 6)) (.ofNat 4 (fld w 3 4)) (.ofNat 2 (fld w 0 2)))
    | 1 => .ok (.vatomAddF32 (.ofNat 6 (fld w 13 6)) (.ofNat 6 (fld w 7 6)) (.ofNat 4 (fld w 3 4)) (.ofNat 2 (fld w 0 2)))
    | 2 => .ok (.vatomAddB16x2 (.ofNat 6 (fld w 13 6)) (.ofNat 6 (fld w 7 6)) (.ofNat 4 (fld w 3 4)) (.ofNat 2 (fld w 0 2)))
    | 3 => .ok (.vatomMinI32 (.ofNat 6 (fld w 13 6)) (.ofNat 6 (fld w 7 6)) (.ofNat 4 (fld w 3 4)) (.ofNat 2 (fld w 0 2)))
    | 4 => .ok (.vatomMaxI32 (.ofNat 6 (fld w 13 6)) (.ofNat 6 (fld w 7 6)) (.ofNat 4 (fld w 3 4)) (.ofNat 2 (fld w 0 2)))
    | 5 => .ok (.vatomMinN32 (.ofNat 6 (fld w 13 6)) (.ofNat 6 (fld w 7 6)) (.ofNat 4 (fld w 3 4)) (.ofNat 2 (fld w 0 2)))
    | 6 => .ok (.vatomMaxN32 (.ofNat 6 (fld w 13 6)) (.ofNat 6 (fld w 7 6)) (.ofNat 4 (fld w 3 4)) (.ofNat 2 (fld w 0 2)))
    | 7 => .ok (.vatomAnd (.ofNat 6 (fld w 13 6)) (.ofNat 6 (fld w 7 6)) (.ofNat 4 (fld w 3 4)) (.ofNat 2 (fld w 0 2)))
    | 8 => .ok (.vatomOr (.ofNat 6 (fld w 13 6)) (.ofNat 6 (fld w 7 6)) (.ofNat 4 (fld w 3 4)) (.ofNat 2 (fld w 0 2)))
    | 9 => .ok (.vatomXor (.ofNat 6 (fld w 13 6)) (.ofNat 6 (fld w 7 6)) (.ofNat 4 (fld w 3 4)) (.ofNat 2 (fld w 0 2)))
    | 10 => .ok (.vatomXchg (.ofNat 6 (fld w 13 6)) (.ofNat 6 (fld w 7 6)) (.ofNat 4 (fld w 3 4)) (.ofNat 2 (fld w 0 2)))
    | 11 => .ok (.vatomCas (.ofNat 5 (fld w 14 5)) (.ofNat 6 (fld w 7 6)) (.ofNat 4 (fld w 3 4)) (.ofNat 2 (fld w 0 2)))
    | 12 => .ok (.vatomIncw (.ofNat 6 (fld w 13 6)) (.ofNat 6 (fld w 7 6)) (.ofNat 4 (fld w 3 4)) (.ofNat 2 (fld w 0 2)))
    | 13 => .ok (.vatomDecw (.ofNat 6 (fld w 13 6)) (.ofNat 6 (fld w 7 6)) (.ofNat 4 (fld w 3 4)) (.ofNat 2 (fld w 0 2)))
    | _ => .ok (.vatomAddI64 (.ofNat 5 (fld w 14 5)) (.ofNat 6 (fld w 7 6)) (.ofNat 4 (fld w 3 4)) (.ofNat 2 (fld w 0 2)))

/-- Major 0x23, MWAIT (R292). -/
def decodeMwait (w : Nat) : Decoded :=
  if 6 ≤ fld w 21 4 then .error 2
  else if fld w 19 2 ≠ 0 ∨ fld w 0 2 ≠ 0 then .error 3
  else if fld w 2 1 ≠ 0 then .error 4
  else if fld w 18 1 ≠ 0 ∨ fld w 12 1 ≠ 0 then .error 5
  else .ok (.mwait (.ofNat 4 (fld w 21 4)) (.ofNat 5 (fld w 13 5)) (.ofNat 5 (fld w 7 5)) (.ofNat 4 (fld w 3 4)))

/-- Major 0x24, BAR (R295): only BARRIVE accepts PEER. -/
def decodeBar (w : Nat) : Decoded :=
  match fld w 20 5 with
  | 0 => if fld w 0 10 ≠ 0 then .error 3 else .ok (.binit (.ofNat 5 (fld w 15 5)) (.ofNat 5 (fld w 10 5)))
  | 1 => if fld w 5 10 ≠ 0 ∨ fld w 0 4 ≠ 0 then .error 3
         else if fld w 4 1 = 0 then .ok (.barrive (.ofNat 5 (fld w 15 5))) else .ok (.barrivePeer (.ofNat 5 (fld w 15 5)))
  | 2 => if fld w 0 10 ≠ 0 then .error 3 else .ok (.bexpect (.ofNat 5 (fld w 15 5)) (.ofNat 5 (fld w 10 5)))
  | 3 => if fld w 0 10 ≠ 0 then .error 3 else .ok (.bwait (.ofNat 5 (fld w 15 5)) (.ofNat 5 (fld w 10 5)))
  | 4 => if fld w 0 5 ≠ 0 then .error 3 else .ok (.btry (.ofNat 5 (fld w 15 5)) (.ofNat 5 (fld w 10 5)) (.ofNat 5 (fld w 5 5)))
  | 5 => if fld w 0 15 ≠ 0 then .error 3 else .ok (.binval (.ofNat 5 (fld w 15 5)))
  | _ => .error 2

/-- Major 0x25, COPY (R300): IMM8 only for CPYMC and CPYGF, DLT only for CPYPAR and CPYGF. -/
def decodeCopy (w : Nat) : Decoded :=
  if 7 ≤ fld w 20 5 then .error 2
  else if fld w 13 2 ≠ 0 ∨ fld w 2 2 ≠ 0 then .error 3
  else if fld w 5 8 ≠ 0 ∧ fld w 20 5 ≠ 1 ∧ fld w 20 5 ≠ 5 then .error 3
  else if fld w 4 1 ≠ 0 ∧ fld w 20 5 ≠ 4 ∧ fld w 20 5 ≠ 5 then .error 3
  else if fld w 15 3 ≠ 0 then .error 4
  else match fld w 20 5 with
    | 0 => .ok (.cpy (.ofNat 2 (fld w 18 2)) (.ofNat 2 (fld w 0 2)))
    | 1 => .ok (.cpymc (.ofNat 2 (fld w 18 2)) (.ofNat 8 (fld w 5 8)) (.ofNat 2 (fld w 0 2)))
    | 2 => .ok (.cpyb (.ofNat 2 (fld w 18 2)) (.ofNat 2 (fld w 0 2)))
    | 3 => .ok (.cpyout (.ofNat 2 (fld w 18 2)) (.ofNat 2 (fld w 0 2)))
    | 4 => .ok (.cpypar (.ofNat 2 (fld w 18 2)) (.ofNat 1 (fld w 4 1)) (.ofNat 2 (fld w 0 2)))
    | 5 => .ok (.cpygf (.ofNat 2 (fld w 18 2)) (.ofNat 8 (fld w 5 8)) (.ofNat 1 (fld w 4 1)) (.ofNat 2 (fld w 0 2)))
    | _ => .ok (.cpypeer (.ofNat 2 (fld w 18 2)) (.ofNat 2 (fld w 0 2)))

/-- Major 0x26, CHAIN (R306). -/
def decodeChain (w : Nat) : Decoded :=
  match fld w 20 5 with
  | 0 => if fld w 0 15 ≠ 0 then .error 3 else if fld w 15 1 ≠ 0 then .error 4 else .ok (.chn (.ofNat 4 (fld w 16 4)))
  | _ => .error 2

/-- Major 0x27, CACHEOP (R309). -/
def decodeCacheop (w : Nat) : Decoded :=
  match fld w 20 5 with
  | 0 => if fld w 2 8 ≠ 0 then .error 3 else if fld w 15 1 ≠ 0 then .error 4 else .ok (.pref (.ofNat 4 (fld w 16 4)) (.ofNat 5 (fld w 10 5)) (.ofNat 2 (fld w 0 2)))
  | 1 => if fld w 0 10 ≠ 0 then .error 3 else if fld w 15 1 ≠ 0 then .error 4 else .ok (.wback (.ofNat 5 (fld w 15 5)) (.ofNat 5 (fld w 10 5)))
  | 2 => if fld w 0 10 ≠ 0 then .error 3 else if fld w 15 1 ≠ 0 then .error 4 else .ok (.discard (.ofNat 5 (fld w 15 5)) (.ofNat 5 (fld w 10 5)))
  | 3 => if fld w 0 2 = 3 then .error 2 else if fld w 2 13 ≠ 0 then .error 3 else .ok (.bankcfg (.ofNat 5 (fld w 15 5)) (.ofNat 2 (fld w 0 2)))
  | 4 => if fld w 10 5 ≠ 0 ∨ fld w 0 5 ≠ 0 then .error 3 else .ok (.bankq (.ofNat 5 (fld w 15 5)) (.ofNat 5 (fld w 5 5)))
  | _ => .error 2

/-- Major 0x28, DEPOSIT (R313): W is the quad. -/
def decodeDeposit (w : Nat) : Decoded :=
  match fld w 20 5 with
  | 0 => if fld w 18 2 ≠ 2 ∨ fld w 0 6 ≠ 0 then .error 3 else if fld w 12 2 ≠ 0 then .error 4 else .ok (.deposit (.ofNat 4 (fld w 14 4)) (.ofNat 6 (fld w 6 6)))
  | _ => .error 2

/-- Major 0x29, FENCE (R315). -/
def decodeFence (w : Nat) : Decoded :=
  match fld w 20 5 with
  | 0 => if fld w 0 20 ≠ 0 then .error 3 else .ok .fence
  | 1 => if fld w 0 20 ≠ 0 then .error 3 else .ok .fenceRel
  | 2 => if fld w 0 20 ≠ 0 then .error 3 else .ok .fenceAcq
  | _ => .error 2

/-- Major 0x30, MMA (R180, R188). -/
def decodeMma (w : Nat) : Decoded :=
  if 10 ≤ fld w 21 4 then .error 2
  else if fld w 15 2 ≠ 0 ∨ fld w 0 3 ≠ 0 then .error 3
  else .ok (.mma (.ofNat 4 (fld w 21 4)) (.ofNat 2 (fld w 19 2)) (.ofNat 2 (fld w 17 2)) (.ofNat 5 (fld w 10 5)) (.ofNat 5 (fld w 5 5)) (.ofNat 1 (fld w 4 1)) (.ofNat 1 (fld w 3 1)))

/-- Major 0x31, MSCALE (R180, R191). -/
def decodeMscale (w : Nat) : Decoded :=
  match fld w 21 4 with
  | 0 => if fld w 19 2 ≠ 0 ∨ fld w 0 5 ≠ 0 then .error 3 else .ok (.mscale (.ofNat 2 (fld w 17 2)) (.ofNat 2 (fld w 15 2)) (.ofNat 5 (fld w 10 5)) (.ofNat 5 (fld w 5 5)))
  | _ => .error 2

/-- Major 0x32, MTILE (R180, R192): CV 3 is reserved, and a global form takes an even pair. Of a word that fails more than
one check the lowest subcode is reported (R73). DEDUCED (log 9). -/
def decodeMtile (w : Nat) : Decoded :=
  if 5 ≤ fld w 21 4 then .error 2
  else if (fld w 21 4 = 1 ∨ fld w 21 4 = 2 ∨ fld w 21 4 = 3) ∧ fld w 0 2 = 3 then .error 2
  else if fld w 19 2 ≠ 0 then .error 3
  else match fld w 21 4 with
    | 0 => if fld w 0 17 ≠ 0 then .error 3 else .ok (.tzero (.ofNat 2 (fld w 17 2)))
    | 4 => if fld w 0 15 ≠ 0 then .error 3 else .ok (.tmove (.ofNat 2 (fld w 17 2)) (.ofNat 2 (fld w 15 2)))
    | f =>
      if fld w 15 2 ≠ 0 ∨ fld w 2 2 ≠ 0 then .error 3
      else if fld w 4 1 = 1 ∧ fld w 10 1 ≠ 0 then .error 4
      else if f = 1 then .ok (.tload (.ofNat 2 (fld w 17 2)) (.ofNat 5 (fld w 10 5)) (.ofNat 5 (fld w 5 5)) (.ofNat 1 (fld w 4 1)) (.ofNat 2 (fld w 0 2)))
      else if f = 2 then .ok (.tstore (.ofNat 2 (fld w 17 2)) (.ofNat 5 (fld w 10 5)) (.ofNat 5 (fld w 5 5)) (.ofNat 1 (fld w 4 1)) (.ofNat 2 (fld w 0 2)))
      else .ok (.taddst (.ofNat 2 (fld w 17 2)) (.ofNat 5 (fld w 10 5)) (.ofNat 5 (fld w 5 5)) (.ofNat 1 (fld w 4 1)) (.ofNat 2 (fld w 0 2)))

/-- Major 0x33, MQUANT (R180, R198): block length 3 is reserved. -/
def decodeMquant (w : Nat) : Decoded :=
  if 4 ≤ fld w 21 4 ∨ fld w 19 2 = 3 then .error 2
  else if fld w 15 2 ≠ 0 ∨ fld w 0 3 ≠ 0 then .error 3
  else .ok (.mquant (.ofNat 2 (fld w 21 2)) (.ofNat 2 (fld w 19 2)) (.ofNat 2 (fld w 17 2)) (.ofNat 5 (fld w 10 5)) (.ofNat 5 (fld w 5 5)) (.ofNat 2 (fld w 3 2)))

/-- Major 0x34, MCTL (R180, R200). -/
def decodeMctl (w : Nat) : Decoded :=
  match fld w 21 4 with
  | 0 => if fld w 0 21 ≠ 0 then .error 3 else .ok .opfence
  | 1 => if fld w 10 11 ≠ 0 ∨ fld w 0 5 ≠ 0 then .error 3 else .ok (.mbatch (.ofNat 5 (fld w 5 5)))
  | 2 => if fld w 10 11 ≠ 0 ∨ fld w 0 5 ≠ 0 then .error 3 else .ok (.mwaitb (.ofNat 5 (fld w 5 5)))
  | _ => .error 2

/-- Major 0x38, CHK (R341). -/
def decodeChk (w : Nat) : Decoded :=
  match fld w 20 5 with
  | 0 => .ok (.sigchk (.ofNat 20 (fld w 0 20)))
  | 1 => .ok (.sigset (.ofNat 20 (fld w 0 20)))
  | _ => .error 2

/-- Major 0x39, SEAL (R326): N of 0 means 64, and the range must end at V63 or below. Of a word that fails more than one
check the lowest subcode is reported (R73). DEDUCED (log 9). -/
def decodeSeal (w : Nat) : Decoded :=
  if fld w 20 5 ≠ 0 then .error 2
  else if fld w 3 1 = 0 ∧ 64 < fld w 12 6 + (if fld w 6 6 = 0 then 64 else fld w 6 6) then .error 2
  else if fld w 18 2 ≠ 0 ∨ fld w 4 2 ≠ 0 then .error 3
  else if fld w 3 1 = 1 then
    if fld w 6 12 ≠ 0 then .error 3 else .ok (.sealNovec (.ofNat 3 (fld w 0 3)))
  else .ok (.seal (.ofNat 6 (fld w 12 6)) (.ofNat 6 (fld w 6 6)) (.ofNat 3 (fld w 0 3)))

/-- Major 0x3A, TBL (R414, R421, R422). -/
def decodeTbl (w : Nat) : Decoded :=
  match fld w 20 5 with
  | 0 =>
    if fld w 0 11 ≠ 0 then .error 3
    else if fld w 11 1 = 1 ∧ fld w 12 3 ≠ 0 then .error 3
    else if fld w 15 1 ≠ 0 then .error 4
    else if fld w 11 1 = 1 then .ok (.tblloadLog (.ofNat 4 (fld w 16 4))) else .ok (.tblload (.ofNat 4 (fld w 16 4)) (.ofNat 3 (fld w 12 3)))
  | 1 => if fld w 9 11 ≠ 0 then .error 3 else .ok (.tblswap (.ofNat 1 (fld w 8 1)) (.ofNat 8 (fld w 0 8)))
  | 2 =>
    if fld w 0 2 = 3 then .error 2
    else if fld w 2 3 ≠ 0 then .error 3
    else match fld w 0 2 with
      | 1 => .ok (.grprdMem (.ofNat 5 (fld w 15 5)) (.ofNat 5 (fld w 10 5)) (.ofNat 5 (fld w 5 5)))
      | 0 => if fld w 5 5 ≠ 0 then .error 3 else .ok (.grprdCnt (.ofNat 5 (fld w 15 5)) (.ofNat 5 (fld w 10 5)))
      | _ => if fld w 5 5 ≠ 0 then .error 3 else .ok (.grprdSelf (.ofNat 5 (fld w 15 5)) (.ofNat 5 (fld w 10 5)))
  | _ => .error 2

/-- One instruction word (R75): the major opcode selects the map, and an unlisted major is subcode 1.
The chain bit is ignored here. DEDUCED (log 9). -/
def decodeWord (w : Nat) : Decoded :=
  match fld w 25 6 with
  | 0x00 => decodeSys w
  | 0x01 => decodeBr w
  | 0x02 => .ok (.call (.ofNat 25 (fld w 0 25)))
  | 0x03 => decodeSalu w
  | 0x04 => .ok (.saddi (.ofNat 5 (fld w 20 5)) (.ofNat 5 (fld w 15 5)) (.ofNat 15 (fld w 0 15)))
  | 0x05 => .ok (.sandi (.ofNat 5 (fld w 20 5)) (.ofNat 5 (fld w 15 5)) (.ofNat 15 (fld w 0 15)))
  | 0x06 => .ok (.sori (.ofNat 5 (fld w 20 5)) (.ofNat 5 (fld w 15 5)) (.ofNat 15 (fld w 0 15)))
  | 0x07 => .ok (.sxori (.ofNat 5 (fld w 20 5)) (.ofNat 5 (fld w 15 5)) (.ofNat 15 (fld w 0 15)))
  | 0x08 => decodeSshi w
  | 0x09 => .ok (.slui (.ofNat 5 (fld w 20 5)) (.ofNat 20 (fld w 0 20)))
  | 0x0A => .ok (.scmpi (.ofNat 5 (fld w 20 5)) (.ofNat 5 (fld w 15 5)) (.ofNat 3 (fld w 12 3)) (.ofNat 12 (fld w 0 12)))
  | 0x0B => if fld w 15 1 ≠ 0 then .error 4 else .ok (.sld (.ofNat 5 (fld w 20 5)) (.ofNat 4 (fld w 16 4)) (.ofNat 15 (fld w 0 15)))
  | 0x0C => if fld w 15 1 ≠ 0 then .error 4 else .ok (.sst (.ofNat 5 (fld w 20 5)) (.ofNat 4 (fld w 16 4)) (.ofNat 15 (fld w 0 15)))
  | 0x0D => decodeLoop w
  | 0x0E => decodeSreg w
  | 0x0F => .ok (.waitc (.ofNat 5 (fld w 20 5)) (.ofNat 5 (fld w 15 5)) (.ofNat 5 (fld w 10 5)) (.ofNat 5 (fld w 5 5)) (.ofNat 5 (fld w 0 5)))
  | 0x10 => decodeVint w
  | 0x11 => decodeVinti w
  | 0x12 => decodeVflt w
  | 0x13 => decodeVfma w
  | 0x14 => decodeVcmp w
  | 0x15 => decodeVcvt w
  | 0x16 => decodeVsfu w
  | 0x17 => decodeVlane w
  | 0x18 => decodeVshfl w
  | 0x19 => decodeVred w
  | 0x1A => decodeVvote w
  | 0x1B => decodeVtab w
  | 0x1C => decodeVpred w
  | 0x20 => decodeVld w
  | 0x21 => decodeVst w
  | 0x22 => decodeVatom w
  | 0x23 => decodeMwait w
  | 0x24 => decodeBar w
  | 0x25 => decodeCopy w
  | 0x26 => decodeChain w
  | 0x27 => decodeCacheop w
  | 0x28 => decodeDeposit w
  | 0x29 => decodeFence w
  | 0x30 => decodeMma w
  | 0x31 => decodeMscale w
  | 0x32 => decodeMtile w
  | 0x33 => decodeMquant w
  | 0x34 => decodeMctl w
  | 0x38 => decodeChk w
  | 0x39 => decodeSeal w
  | 0x3A => decodeTbl w
  | _ => .error 1

/-- The word that four bytes hold in memory, least significant byte first (R8, R60). -/
def wordOfBytes : List Byte → Nat
  | [] => 0
  | b :: bs => b.toNat + 256 * wordOfBytes bs

/-- The bytes of a word as memory holds them (R8). -/
def bytesOfNat : Nat → Nat → List Byte
  | 0, _ => []
  | n + 1, x => BitVec.ofNat 8 x :: bytesOfNat n (x / 256)

/-- The decoder on the four bytes of an instruction word. -/
def decodeBytes (bs : List Byte) : Decoded := decodeWord (wordOfBytes bs)

/-- The instruction that the decoder reads from a table row's bits: every row of the table that has an
encoding is one 32-bit word, stored little-endian. -/
def decodeTableWord (nbits w : Nat) : Option Instr :=
  if nbits ≤ 32 then (decodeBytes (bytesOfNat 4 w)).toOption else none

/-- A word: its fixed bits, and each field at the place of its lowest bit. -/
def wordOf (fixed : Nat) : List (Nat × Nat) → Nat
  | [] => fixed
  | (x, lo) :: fs => x * 2 ^ lo + wordOf fixed fs

/-- The word of an instruction with C = 0, from the same encodings; none for a device event, which has
no encoding. -/
def encode : Instr → Option Nat
  | .trap i => some (wordOf 0x00300000 [(i.toNat, 0)])
  | .pushr o => some (wordOf 0x00700000 [(o.toNat, 0)])
  | .gsync g => some (wordOf 0x00A00000 [(g.toNat, 0)])
  | .bra o => some (wordOf 0x02000000 [(o.toNat, 0)])
  | .bz s o => some (wordOf 0x02400000 [(s.toNat, 17), (o.toNat, 0)])
  | .bnz s o => some (wordOf 0x02800000 [(s.toNat, 17), (o.toNat, 0)])
  | .bany p o => some (wordOf 0x02C00000 [(p.toNat, 17), (o.toNat, 0)])
  | .ball p o => some (wordOf 0x03000000 [(p.toNat, 17), (o.toNat, 0)])
  | .bnone p o => some (wordOf 0x03400000 [(p.toNat, 17), (o.toNat, 0)])
  | .bdiv p o => some (wordOf 0x03800000 [(p.toNat, 17), (o.toNat, 0)])
  | .call o => some (wordOf 0x04000000 [(o.toNat, 0)])
  | .sadd d a b => some (wordOf 0x06000000 [(d.toNat, 12), (a.toNat, 6), (b.toNat, 0)])
  | .ssub d a b => some (wordOf 0x06100000 [(d.toNat, 12), (a.toNat, 6), (b.toNat, 0)])
  | .smul d a b => some (wordOf 0x06200000 [(d.toNat, 12), (a.toNat, 6), (b.toNat, 0)])
  | .smulhiI32 d a b => some (wordOf 0x06300000 [(d.toNat, 12), (a.toNat, 6), (b.toNat, 0)])
  | .smulhiN32 d a b => some (wordOf 0x06400000 [(d.toNat, 12), (a.toNat, 6), (b.toNat, 0)])
  | .sand d a b => some (wordOf 0x06500000 [(d.toNat, 12), (a.toNat, 6), (b.toNat, 0)])
  | .sor d a b => some (wordOf 0x06600000 [(d.toNat, 12), (a.toNat, 6), (b.toNat, 0)])
  | .sxor d a b => some (wordOf 0x06700000 [(d.toNat, 12), (a.toNat, 6), (b.toNat, 0)])
  | .sshl d a b => some (wordOf 0x06800000 [(d.toNat, 12), (a.toNat, 6), (b.toNat, 0)])
  | .sshrN32 d a b => some (wordOf 0x06900000 [(d.toNat, 12), (a.toNat, 6), (b.toNat, 0)])
  | .sshrI32 d a b => some (wordOf 0x06A00000 [(d.toNat, 12), (a.toNat, 6), (b.toNat, 0)])
  | .sminI32 d a b => some (wordOf 0x06B00000 [(d.toNat, 12), (a.toNat, 6), (b.toNat, 0)])
  | .smaxI32 d a b => some (wordOf 0x06C00000 [(d.toNat, 12), (a.toNat, 6), (b.toNat, 0)])
  | .sminN32 d a b => some (wordOf 0x06D00000 [(d.toNat, 12), (a.toNat, 6), (b.toNat, 0)])
  | .smaxN32 d a b => some (wordOf 0x06E00000 [(d.toNat, 12), (a.toNat, 6), (b.toNat, 0)])
  | .sclz d a => some (wordOf 0x06F00000 [(d.toNat, 12), (a.toNat, 6)])
  | .spopc d a => some (wordOf 0x07000000 [(d.toNat, 12), (a.toNat, 6)])
  | .smov d a => some (wordOf 0x07100000 [(d.toNat, 12), (a.toNat, 6)])
  | .ssltI32 d a b => some (wordOf 0x07200000 [(d.toNat, 12), (a.toNat, 6), (b.toNat, 0)])
  | .ssltN32 d a b => some (wordOf 0x07300000 [(d.toNat, 12), (a.toNat, 6), (b.toNat, 0)])
  | .sseq d a b => some (wordOf 0x07400000 [(d.toNat, 12), (a.toNat, 6), (b.toNat, 0)])
  | .sadd64 d a b => some (wordOf 0x07500000 [(d.toNat, 13), (a.toNat, 7), (b.toNat, 1)])
  | .ssub64 d a b => some (wordOf 0x07600000 [(d.toNat, 13), (a.toNat, 7), (b.toNat, 1)])
  | .saddi d a i => some (wordOf 0x08000000 [(d.toNat, 20), (a.toNat, 15), (i.toNat, 0)])
  | .sandi d a i => some (wordOf 0x0A000000 [(d.toNat, 20), (a.toNat, 15), (i.toNat, 0)])
  | .sori d a i => some (wordOf 0x0C000000 [(d.toNat, 20), (a.toNat, 15), (i.toNat, 0)])
  | .sxori d a i => some (wordOf 0x0E000000 [(d.toNat, 20), (a.toNat, 15), (i.toNat, 0)])
  | .sshiShl d a n => some (wordOf 0x10000000 [(d.toNat, 20), (a.toNat, 15), (n.toNat, 0)])
  | .sshiShrN32 d a n => some (wordOf 0x10002000 [(d.toNat, 20), (a.toNat, 15), (n.toNat, 0)])
  | .sshiShrI32 d a n => some (wordOf 0x10004000 [(d.toNat, 20), (a.toNat, 15), (n.toNat, 0)])
  | .sshiRotl d a n => some (wordOf 0x10006000 [(d.toNat, 20), (a.toNat, 15), (n.toNat, 0)])
  | .slui d i => some (wordOf 0x12000000 [(d.toNat, 20), (i.toNat, 0)])
  | .scmpi d a k i => some (wordOf 0x14000000 [(d.toNat, 20), (a.toNat, 15), (k.toNat, 12), (i.toNat, 0)])
  | .sld d a i => some (wordOf 0x16000000 [(d.toNat, 20), (a.toNat, 16), (i.toNat, 0)])
  | .sst d a i => some (wordOf 0x18000000 [(d.toNat, 20), (a.toNat, 16), (i.toNat, 0)])
  | .lstart a => some (wordOf 0x1A000000 [(a.toNat, 16)])
  | .nextit d => some (wordOf 0x1A100000 [(d.toNat, 17)])
  | .brit o => some (wordOf 0x1A200000 [(o.toNat, 0)])
  | .getsr s i => some (wordOf 0x1C000000 [(s.toNat, 15), (i.toNat, 0)])
  | .setsr s i => some (wordOf 0x1C100000 [(s.toNat, 15), (i.toNat, 0)])
  | .waitc l s y m a => some (wordOf 0x1E000000 [(l.toNat, 20), (s.toNat, 15), (y.toNat, 10), (m.toNat, 5), (a.toNat, 0)])
  | .vadd d a b => some (wordOf 0x20000000 [(d.toNat, 12), (a.toNat, 6), (b.toNat, 0)])
  | .vsub d a b => some (wordOf 0x20100000 [(d.toNat, 12), (a.toNat, 6), (b.toNat, 0)])
  | .vmul d a b => some (wordOf 0x20200000 [(d.toNat, 12), (a.toNat, 6), (b.toNat, 0)])
  | .vmulhiI32 d a b => some (wordOf 0x20300000 [(d.toNat, 12), (a.toNat, 6), (b.toNat, 0)])
  | .vmulhiN32 d a b => some (wordOf 0x20400000 [(d.toNat, 12), (a.toNat, 6), (b.toNat, 0)])
  | .vminI32 d a b => some (wordOf 0x20500000 [(d.toNat, 12), (a.toNat, 6), (b.toNat, 0)])
  | .vmaxI32 d a b => some (wordOf 0x20600000 [(d.toNat, 12), (a.toNat, 6), (b.toNat, 0)])
  | .vminN32 d a b => some (wordOf 0x20700000 [(d.toNat, 12), (a.toNat, 6), (b.toNat, 0)])
  | .vmaxN32 d a b => some (wordOf 0x20800000 [(d.toNat, 12), (a.toNat, 6), (b.toNat, 0)])
  | .vand d a b => some (wordOf 0x20900000 [(d.toNat, 12), (a.toNat, 6), (b.toNat, 0)])
  | .vor d a b => some (wordOf 0x20A00000 [(d.toNat, 12), (a.toNat, 6), (b.toNat, 0)])
  | .vxor d a b => some (wordOf 0x20B00000 [(d.toNat, 12), (a.toNat, 6), (b.toNat, 0)])
  | .vandn d a b => some (wordOf 0x20C00000 [(d.toNat, 12), (a.toNat, 6), (b.toNat, 0)])
  | .vshl d a b => some (wordOf 0x20D00000 [(d.toNat, 12), (a.toNat, 6), (b.toNat, 0)])
  | .vshrN32 d a b => some (wordOf 0x20E00000 [(d.toNat, 12), (a.toNat, 6), (b.toNat, 0)])
  | .vshrI32 d a b => some (wordOf 0x20F00000 [(d.toNat, 12), (a.toNat, 6), (b.toNat, 0)])
  | .vrotl d a b => some (wordOf 0x21000000 [(d.toNat, 12), (a.toNat, 6), (b.toNat, 0)])
  | .vpopc d a => some (wordOf 0x21100000 [(d.toNat, 12), (a.toNat, 6)])
  | .vclz d a => some (wordOf 0x21200000 [(d.toNat, 12), (a.toNat, 6)])
  | .vbrev d a => some (wordOf 0x21300000 [(d.toNat, 12), (a.toNat, 6)])
  | .vabsdI32 d a b => some (wordOf 0x21400000 [(d.toNat, 12), (a.toNat, 6), (b.toNat, 0)])
  | .vaddsI32 d a b => some (wordOf 0x21500000 [(d.toNat, 12), (a.toNat, 6), (b.toNat, 0)])
  | .vsubsI32 d a b => some (wordOf 0x21600000 [(d.toNat, 12), (a.toNat, 6), (b.toNat, 0)])
  | .vadd64 d a b => some (wordOf 0x21740000 [(d.toNat, 13), (a.toNat, 7), (b.toNat, 1)])
  | .vsub64 d a b => some (wordOf 0x21840000 [(d.toNat, 13), (a.toNat, 7), (b.toNat, 1)])
  | .vdot4I8 d a b => some (wordOf 0x21900000 [(d.toNat, 12), (a.toNat, 6), (b.toNat, 0)])
  | .vdot2I16 d a b => some (wordOf 0x21A00000 [(d.toNat, 12), (a.toNat, 6), (b.toNat, 0)])
  | .vinti f d a i => some (wordOf 0x22000000 [(f.toNat, 20), (d.toNat, 14), (a.toNat, 8), (i.toNat, 0)])
  | .vfaddF32 d a b => some (wordOf 0x24000000 [(d.toNat, 12), (a.toNat, 6), (b.toNat, 0)])
  | .vfsubF32 d a b => some (wordOf 0x24100000 [(d.toNat, 12), (a.toNat, 6), (b.toNat, 0)])
  | .vfmulF32 d a b => some (wordOf 0x24200000 [(d.toNat, 12), (a.toNat, 6), (b.toNat, 0)])
  | .vfminF32 d a b => some (wordOf 0x24300000 [(d.toNat, 12), (a.toNat, 6), (b.toNat, 0)])
  | .vfmaxF32 d a b => some (wordOf 0x24400000 [(d.toNat, 12), (a.toNat, 6), (b.toNat, 0)])
  | .vfabsF32 d a => some (wordOf 0x24500000 [(d.toNat, 12), (a.toNat, 6)])
  | .vfnegF32 d a => some (wordOf 0x24600000 [(d.toNat, 12), (a.toNat, 6)])
  | .vfcpsgnF32 d a b => some (wordOf 0x24700000 [(d.toNat, 12), (a.toNat, 6), (b.toNat, 0)])
  | .vfaddF16x2 d a b => some (wordOf 0x24800000 [(d.toNat, 12), (a.toNat, 6), (b.toNat, 0)])
  | .vfsubF16x2 d a b => some (wordOf 0x24900000 [(d.toNat, 12), (a.toNat, 6), (b.toNat, 0)])
  | .vfmulF16x2 d a b => some (wordOf 0x24A00000 [(d.toNat, 12), (a.toNat, 6), (b.toNat, 0)])
  | .vfminF16x2 d a b => some (wordOf 0x24B00000 [(d.toNat, 12), (a.toNat, 6), (b.toNat, 0)])
  | .vfmaxF16x2 d a b => some (wordOf 0x24C00000 [(d.toNat, 12), (a.toNat, 6), (b.toNat, 0)])
  | .vfaddB16x2 d a b => some (wordOf 0x24D00000 [(d.toNat, 12), (a.toNat, 6), (b.toNat, 0)])
  | .vfsubB16x2 d a b => some (wordOf 0x24E00000 [(d.toNat, 12), (a.toNat, 6), (b.toNat, 0)])
  | .vfmulB16x2 d a b => some (wordOf 0x24F00000 [(d.toNat, 12), (a.toNat, 6), (b.toNat, 0)])
  | .vfminB16x2 d a b => some (wordOf 0x25000000 [(d.toNat, 12), (a.toNat, 6), (b.toNat, 0)])
  | .vfmaxB16x2 d a b => some (wordOf 0x25100000 [(d.toNat, 12), (a.toNat, 6), (b.toNat, 0)])
  | .vfaddF64 d a b => some (wordOf 0x25240000 [(d.toNat, 13), (a.toNat, 7), (b.toNat, 1)])
  | .vfsubF64 d a b => some (wordOf 0x25340000 [(d.toNat, 13), (a.toNat, 7), (b.toNat, 1)])
  | .vfmulF64 d a b => some (wordOf 0x25440000 [(d.toNat, 13), (a.toNat, 7), (b.toNat, 1)])
  | .vfminF64 d a b => some (wordOf 0x25540000 [(d.toNat, 13), (a.toNat, 7), (b.toNat, 1)])
  | .vfmaxF64 d a b => some (wordOf 0x25640000 [(d.toNat, 13), (a.toNat, 7), (b.toNat, 1)])
  | .vcmulB16 d a b => some (wordOf 0x25700000 [(d.toNat, 12), (a.toNat, 6), (b.toNat, 0)])
  | .vfmaF32 d a b e => some (wordOf 0x26000000 [(d.toNat, 17), (a.toNat, 11), (b.toNat, 5), (e.toNat, 0)])
  | .vfmaF16x2 d a b e => some (wordOf 0x26800000 [(d.toNat, 17), (a.toNat, 11), (b.toNat, 5), (e.toNat, 0)])
  | .vfmaB16x2 d a b e => some (wordOf 0x27000000 [(d.toNat, 17), (a.toNat, 11), (b.toNat, 5), (e.toNat, 0)])
  | .vfmaF64 d a b e => some (wordOf 0x27800000 [(d.toNat, 18), (a.toNat, 12), (b.toNat, 6), (e.toNat, 1)])
  | .vcmpI32 k p a b => some (wordOf 0x28000000 [(k.toNat, 20), (p.toNat, 12), (a.toNat, 6), (b.toNat, 0)])
  | .vcmpN32 k p a b => some (wordOf 0x28800000 [(k.toNat, 20), (p.toNat, 12), (a.toNat, 6), (b.toNat, 0)])
  | .vcmpF32 k p a b => some (wordOf 0x29000000 [(k.toNat, 20), (p.toNat, 12), (a.toNat, 6), (b.toNat, 0)])
  | .vcmpF16x2 k p a b => some (wordOf 0x29800000 [(k.toNat, 20), (p.toNat, 12), (a.toNat, 6), (b.toNat, 0)])
  | .vcvtF32I32 d a => some (wordOf 0x2A000000 [(d.toNat, 12), (a.toNat, 6)])
  | .vcvtF32N32 d a => some (wordOf 0x2A100000 [(d.toNat, 12), (a.toNat, 6)])
  | .vcvtI32F32 d a => some (wordOf 0x2A200000 [(d.toNat, 12), (a.toNat, 6)])
  | .vcvtI32F32Rz d a => some (wordOf 0x2A300000 [(d.toNat, 12), (a.toNat, 6)])
  | .vcvtN32F32 d a => some (wordOf 0x2A400000 [(d.toNat, 12), (a.toNat, 6)])
  | .vcvtF16x2F32 d a => some (wordOf 0x2A540000 [(d.toNat, 12), (a.toNat, 7)])
  | .vcvtB16x2F32 d a => some (wordOf 0x2A640000 [(d.toNat, 12), (a.toNat, 7)])
  | .vcvtF32F16 d a => some (wordOf 0x2A700000 [(d.toNat, 12), (a.toNat, 6)])
  | .vcvtF32F16h d a => some (wordOf 0x2A800000 [(d.toNat, 12), (a.toNat, 6)])
  | .vcvtF32B16 d a => some (wordOf 0x2A900000 [(d.toNat, 12), (a.toNat, 6)])
  | .vcvtF32B16h d a => some (wordOf 0x2AA00000 [(d.toNat, 12), (a.toNat, 6)])
  | .vcvtF64F32 d a => some (wordOf 0x2AB40000 [(d.toNat, 13), (a.toNat, 6)])
  | .vcvtF32F64 d a => some (wordOf 0x2AC40000 [(d.toNat, 12), (a.toNat, 7)])
  | .vcvtE4x4F32 d a => some (wordOf 0x2AD80000 [(d.toNat, 12), (a.toNat, 8)])
  | .vcvtE5x4F32 d a => some (wordOf 0x2AE80000 [(d.toNat, 12), (a.toNat, 8)])
  | .vcvtE2x8F32 d a => some (wordOf 0x2AFC0000 [(d.toNat, 12), (a.toNat, 9)])
  | .vcvtL6F32 d a => some (wordOf 0x2B000000 [(d.toNat, 12), (a.toNat, 6)])
  | .vcvtF32L6 d a => some (wordOf 0x2B100000 [(d.toNat, 12), (a.toNat, 6)])
  | .vcvtF32E4 d a => some (wordOf 0x2B200000 [(d.toNat, 12), (a.toNat, 6)])
  | .vcvtF32E5 d a => some (wordOf 0x2B300000 [(d.toNat, 12), (a.toNat, 6)])
  | .vcvtF32E2 d a => some (wordOf 0x2B400000 [(d.toNat, 12), (a.toNat, 6)])
  | .vrcp d a => some (wordOf 0x2C000000 [(d.toNat, 12), (a.toNat, 6)])
  | .vrsq d a => some (wordOf 0x2C100000 [(d.toNat, 12), (a.toNat, 6)])
  | .vsqrt d a => some (wordOf 0x2C200000 [(d.toNat, 12), (a.toNat, 6)])
  | .vexp2 d a => some (wordOf 0x2C300000 [(d.toNat, 12), (a.toNat, 6)])
  | .vlog2 d a => some (wordOf 0x2C400000 [(d.toNat, 12), (a.toNat, 6)])
  | .vsint d a => some (wordOf 0x2C500000 [(d.toNat, 12), (a.toNat, 6)])
  | .vcost d a => some (wordOf 0x2C600000 [(d.toNat, 12), (a.toNat, 6)])
  | .vtanh d a => some (wordOf 0x2C700000 [(d.toNat, 12), (a.toNat, 6)])
  | .vtab t d a => some (wordOf 0x36000000 [(t.toNat, 20), (d.toNat, 12), (a.toNat, 6)])
  | .vmov w d a => some (wordOf 0x2E000000 [(w.toNat, 18), (d.toNat, 12), (a.toNat, 6)])
  | .vmovs d a => some (wordOf 0x2E100000 [(d.toNat, 12), (a.toNat, 6)])
  | .vlaneid d => some (wordOf 0x2E200000 [(d.toNat, 12)])
  | .vreadl d a l => some (wordOf 0x2E300000 [(d.toNat, 12), (a.toNat, 6), (l.toNat, 0)])
  | .vwritel d a l => some (wordOf 0x2E400000 [(d.toNat, 12), (a.toNat, 6), (l.toNat, 0)])
  | .vfirst d a => some (wordOf 0x2E500000 [(d.toNat, 12), (a.toNat, 6)])
  | .vshflIdx d a b => some (wordOf 0x30000000 [(d.toNat, 12), (a.toNat, 6), (b.toNat, 0)])
  | .vshflUp d a n => some (wordOf 0x30100000 [(d.toNat, 14), (a.toNat, 8), (n.toNat, 0)])
  | .vshflDown d a n => some (wordOf 0x30200000 [(d.toNat, 14), (a.toNat, 8), (n.toNat, 0)])
  | .vshflXor d a n => some (wordOf 0x30300000 [(d.toNat, 14), (a.toNat, 8), (n.toNat, 0)])
  | .vshflBcast d a n => some (wordOf 0x30400000 [(d.toNat, 14), (a.toNat, 8), (n.toNat, 0)])
  | .raddI32 d a => some (wordOf 0x32000000 [(d.toNat, 12), (a.toNat, 6)])
  | .raddF32 d a => some (wordOf 0x32100000 [(d.toNat, 12), (a.toNat, 6)])
  | .rminI32 d a => some (wordOf 0x32200000 [(d.toNat, 12), (a.toNat, 6)])
  | .rmaxI32 d a => some (wordOf 0x32300000 [(d.toNat, 12), (a.toNat, 6)])
  | .rminN32 d a => some (wordOf 0x32400000 [(d.toNat, 12), (a.toNat, 6)])
  | .rmaxN32 d a => some (wordOf 0x32500000 [(d.toNat, 12), (a.toNat, 6)])
  | .rminF32 d a => some (wordOf 0x32600000 [(d.toNat, 12), (a.toNat, 6)])
  | .rmaxF32 d a => some (wordOf 0x32700000 [(d.toNat, 12), (a.toNat, 6)])
  | .rand d a => some (wordOf 0x32800000 [(d.toNat, 12), (a.toNat, 6)])
  | .ror d a => some (wordOf 0x32900000 [(d.toNat, 12), (a.toNat, 6)])
  | .rxor d a => some (wordOf 0x32A00000 [(d.toNat, 12), (a.toNat, 6)])
  | .scanaddI32 d a => some (wordOf 0x33000000 [(d.toNat, 12), (a.toNat, 6)])
  | .scanaddI32Ex d a => some (wordOf 0x33100000 [(d.toNat, 12), (a.toNat, 6)])
  | .scanaddF32 d a => some (wordOf 0x33200000 [(d.toNat, 12), (a.toNat, 6)])
  | .vvoteAny d a => some (wordOf 0x34000000 [(d.toNat, 12), (a.toNat, 6)])
  | .vvoteAll d a => some (wordOf 0x34100000 [(d.toNat, 12), (a.toNat, 6)])
  | .vvoteBallot d a => some (wordOf 0x34200000 [(d.toNat, 12), (a.toNat, 6)])
  | .vvoteCount d a => some (wordOf 0x34300000 [(d.toNat, 12), (a.toNat, 6)])
  | .pand d a b => some (wordOf 0x38000000 [(d.toNat, 12), (a.toNat, 6), (b.toNat, 0)])
  | .por d a b => some (wordOf 0x38100000 [(d.toNat, 12), (a.toNat, 6), (b.toNat, 0)])
  | .pxor d a b => some (wordOf 0x38200000 [(d.toNat, 12), (a.toNat, 6), (b.toNat, 0)])
  | .pandn d a b => some (wordOf 0x38300000 [(d.toNat, 12), (a.toNat, 6), (b.toNat, 0)])
  | .pnot d a => some (wordOf 0x38400000 [(d.toNat, 12), (a.toNat, 6)])
  | .pmov d a => some (wordOf 0x38500000 [(d.toNat, 12), (a.toNat, 6)])
  | .setexec a => some (wordOf 0x38600000 [(a.toNat, 6)])
  | .getexec d => some (wordOf 0x38700000 [(d.toNat, 12)])
  | .pfroms d a => some (wordOf 0x38800000 [(d.toNat, 12), (a.toNat, 6)])
  | .ptos d a => some (wordOf 0x38900000 [(d.toNat, 12), (a.toNat, 6)])
  | .execand a => some (wordOf 0x38A00000 [(a.toNat, 6)])
  | .ppopc d a => some (wordOf 0x38B00000 [(d.toNat, 12), (a.toNat, 6)])
  | .vld z q w d a b h => some (wordOf 0x40000000 [(z.toNat, 22), (q.toNat, 21), (w.toNat, 19), (d.toNat, 13), (a.toNat, 7), (b.toNat, 3), (h.toNat, 0)])
  | .vst z q w d a b h => some (wordOf 0x42000000 [(z.toNat, 22), (q.toNat, 21), (w.toNat, 19), (d.toNat, 13), (a.toNat, 7), (b.toNat, 3), (h.toNat, 0)])
  | .vatomAddI32 d a b h => some (wordOf 0x44000000 [(d.toNat, 13), (a.toNat, 7), (b.toNat, 3), (h.toNat, 0)])
  | .vatomAddF32 d a b h => some (wordOf 0x44200000 [(d.toNat, 13), (a.toNat, 7), (b.toNat, 3), (h.toNat, 0)])
  | .vatomAddB16x2 d a b h => some (wordOf 0x44400000 [(d.toNat, 13), (a.toNat, 7), (b.toNat, 3), (h.toNat, 0)])
  | .vatomMinI32 d a b h => some (wordOf 0x44600000 [(d.toNat, 13), (a.toNat, 7), (b.toNat, 3), (h.toNat, 0)])
  | .vatomMaxI32 d a b h => some (wordOf 0x44800000 [(d.toNat, 13), (a.toNat, 7), (b.toNat, 3), (h.toNat, 0)])
  | .vatomMinN32 d a b h => some (wordOf 0x44A00000 [(d.toNat, 13), (a.toNat, 7), (b.toNat, 3), (h.toNat, 0)])
  | .vatomMaxN32 d a b h => some (wordOf 0x44C00000 [(d.toNat, 13), (a.toNat, 7), (b.toNat, 3), (h.toNat, 0)])
  | .vatomAnd d a b h => some (wordOf 0x44E00000 [(d.toNat, 13), (a.toNat, 7), (b.toNat, 3), (h.toNat, 0)])
  | .vatomOr d a b h => some (wordOf 0x45000000 [(d.toNat, 13), (a.toNat, 7), (b.toNat, 3), (h.toNat, 0)])
  | .vatomXor d a b h => some (wordOf 0x45200000 [(d.toNat, 13), (a.toNat, 7), (b.toNat, 3), (h.toNat, 0)])
  | .vatomXchg d a b h => some (wordOf 0x45400000 [(d.toNat, 13), (a.toNat, 7), (b.toNat, 3), (h.toNat, 0)])
  | .vatomCas d a b h => some (wordOf 0x45680000 [(d.toNat, 14), (a.toNat, 7), (b.toNat, 3), (h.toNat, 0)])
  | .vatomIncw d a b h => some (wordOf 0x45800000 [(d.toNat, 13), (a.toNat, 7), (b.toNat, 3), (h.toNat, 0)])
  | .vatomDecw d a b h => some (wordOf 0x45A00000 [(d.toNat, 13), (a.toNat, 7), (b.toNat, 3), (h.toNat, 0)])
  | .vatomAddI64 d a b h => some (wordOf 0x45C80000 [(d.toNat, 14), (a.toNat, 7), (b.toNat, 3), (h.toNat, 0)])
  | .mwait f d a b => some (wordOf 0x46000000 [(f.toNat, 21), (d.toNat, 13), (a.toNat, 7), (b.toNat, 3)])
  | .binit a b => some (wordOf 0x48000000 [(a.toNat, 15), (b.toNat, 10)])
  | .barrive a => some (wordOf 0x48100000 [(a.toNat, 15)])
  | .barrivePeer a => some (wordOf 0x48100010 [(a.toNat, 15)])
  | .bexpect a b => some (wordOf 0x48200000 [(a.toNat, 15), (b.toNat, 10)])
  | .bwait a b => some (wordOf 0x48300000 [(a.toNat, 15), (b.toNat, 10)])
  | .btry a b d => some (wordOf 0x48400000 [(a.toNat, 15), (b.toNat, 10), (d.toNat, 5)])
  | .binval a => some (wordOf 0x48500000 [(a.toNat, 15)])
  | .cpy a h => some (wordOf 0x4A000000 [(a.toNat, 18), (h.toNat, 0)])
  | .cpymc a i h => some (wordOf 0x4A100000 [(a.toNat, 18), (i.toNat, 5), (h.toNat, 0)])
  | .cpyb a h => some (wordOf 0x4A200000 [(a.toNat, 18), (h.toNat, 0)])
  | .cpyout a h => some (wordOf 0x4A300000 [(a.toNat, 18), (h.toNat, 0)])
  | .cpypar a l h => some (wordOf 0x4A400000 [(a.toNat, 18), (l.toNat, 4), (h.toNat, 0)])
  | .cpygf a i l h => some (wordOf 0x4A500000 [(a.toNat, 18), (i.toNat, 5), (l.toNat, 4), (h.toNat, 0)])
  | .cpypeer a h => some (wordOf 0x4A600000 [(a.toNat, 18), (h.toNat, 0)])
  | .chn a => some (wordOf 0x4C000000 [(a.toNat, 16)])
  | .pref a b h => some (wordOf 0x4E000000 [(a.toNat, 16), (b.toNat, 10), (h.toNat, 0)])
  | .wback a b => some (wordOf 0x4E100000 [(a.toNat, 15), (b.toNat, 10)])
  | .discard a b => some (wordOf 0x4E200000 [(a.toNat, 15), (b.toNat, 10)])
  | .bankcfg a m => some (wordOf 0x4E300000 [(a.toNat, 15), (m.toNat, 0)])
  | .bankq a d => some (wordOf 0x4E400000 [(a.toNat, 15), (d.toNat, 5)])
  | .deposit d a => some (wordOf 0x50080000 [(d.toNat, 14), (a.toNat, 6)])
  | .mma f k t a b z x => some (wordOf 0x60000000 [(f.toNat, 21), (k.toNat, 19), (t.toNat, 17), (a.toNat, 10), (b.toNat, 5), (z.toNat, 4), (x.toNat, 3)])
  | .mscale t p a b => some (wordOf 0x62000000 [(t.toNat, 17), (p.toNat, 15), (a.toNat, 10), (b.toNat, 5)])
  | .tzero t => some (wordOf 0x64000000 [(t.toNat, 17)])
  | .tload t a b g v => some (wordOf 0x64200000 [(t.toNat, 17), (a.toNat, 10), (b.toNat, 5), (g.toNat, 4), (v.toNat, 0)])
  | .tstore t a b g v => some (wordOf 0x64400000 [(t.toNat, 17), (a.toNat, 10), (b.toNat, 5), (g.toNat, 4), (v.toNat, 0)])
  | .taddst t a b g v => some (wordOf 0x64600000 [(t.toNat, 17), (a.toNat, 10), (b.toNat, 5), (g.toNat, 4), (v.toNat, 0)])
  | .tmove t p => some (wordOf 0x64800000 [(t.toNat, 17), (p.toNat, 15)])
  | .mquant f k t a b h => some (wordOf 0x66000000 [(f.toNat, 21), (k.toNat, 19), (t.toNat, 17), (a.toNat, 10), (b.toNat, 5), (h.toNat, 3)])
  | .mbatch d => some (wordOf 0x68200000 [(d.toNat, 5)])
  | .mwaitb a => some (wordOf 0x68400000 [(a.toNat, 5)])
  | .sigchk i => some (wordOf 0x70000000 [(i.toNat, 0)])
  | .sigset i => some (wordOf 0x70100000 [(i.toNat, 0)])
  | .seal d n t => some (wordOf 0x72000000 [(d.toNat, 12), (n.toNat, 6), (t.toNat, 0)])
  | .sealNovec t => some (wordOf 0x72000008 [(t.toNat, 0)])
  | .tblload a t => some (wordOf 0x74000000 [(a.toNat, 16), (t.toNat, 12)])
  | .tblloadLog a => some (wordOf 0x74000800 [(a.toNat, 16)])
  | .tblswap l m => some (wordOf 0x74100000 [(l.toNat, 8), (m.toNat, 0)])
  | .grprdCnt d a => some (wordOf 0x74200000 [(d.toNat, 15), (a.toNat, 10)])
  | .grprdMem d a b => some (wordOf 0x74200001 [(d.toNat, 15), (a.toNat, 10), (b.toNat, 5)])
  | .grprdSelf d a => some (wordOf 0x74200002 [(d.toNat, 15), (a.toNat, 10)])
  | .nop => some (wordOf 0x00000000 [])
  | .exit => some (wordOf 0x00100000 [])
  | .ret => some (wordOf 0x00200000 [])
  | .bpt => some (wordOf 0x00400000 [])
  | .yield => some (wordOf 0x00500000 [])
  | .rtt => some (wordOf 0x00600000 [])
  | .join => some (wordOf 0x00800000 [])
  | .bsync => some (wordOf 0x00900000 [])
  | .lstop => some (wordOf 0x1A300000 [])
  | .fence => some (wordOf 0x52000000 [])
  | .fenceRel => some (wordOf 0x52100000 [])
  | .fenceAcq => some (wordOf 0x52200000 [])
  | .opfence => some (wordOf 0x68000000 [])
  | _ => none

end Sys2Proof
end

