-- ==== Sys2Proof/Config.lean ====
section
/-! DEFINITION. What an implementation fixes and the values that the manual leaves free. A free value is
an opaque constant: nothing can be proved of it but what holds of every value (log 5). -/

namespace Sys2Proof

/-- A free 32-bit value, fresh at each index. Each undefined word of the manual is one of these.
DESIGN CHOICE (log 5). -/
opaque Config.freeWord : Nat → BitVec 32
/-- A free byte, fresh at each index. DESIGN CHOICE (log 5). -/
opaque Config.freeByte : Nat → BitVec 8
/-- A free choice between the members of a stated set (R2, R5), fresh at each index. DESIGN CHOICE (log 5). -/
opaque Config.freeChoice : Nat → Nat
/-- A free 64-bit value, fresh at each index: the advance of a clock, an identifier the manual gives no
numbering for. DESIGN CHOICE (log 5). -/
opaque Config.freeDWord : Nat → BitVec 64
/-- The module's serial number, which the manual gives no value for (R445). DESIGN CHOICE (log 5). -/
opaque Config.serial : BitVec 64
/-- A byte of the digest of a firmware image, given by its bytes (R455). DESIGN CHOICE (log 5). -/
opaque Config.digestByte : List (BitVec 8) → Nat → BitVec 8
/-- The fixed hash that spreads the lines of a base die over its four stacks (R222). DESIGN CHOICE (log 5). -/
opaque Config.stackHash : Nat → Nat
/-- The set of a line in its slice of L2, and in its slice of L3, by fixed hashes (R216, R222).
DESIGN CHOICE (log 30). -/
opaque Config.l2Set : Nat → Nat
opaque Config.l3Set : Nat → Nat
/-- Bytes of the certificate chain, and its length (R444). DESIGN CHOICE (log 5). -/
opaque Config.certByte : Nat → BitVec 8
opaque Config.certLength : BitVec 32

end Sys2Proof
end

