-- ==== Sys2Proof/Machine/Float.lean ====
section
/-! DEFINITION. Number formats and exact arithmetic with one rounding (R33 to R39, R43, R49 to R53,
R58, R59, R475). Every operation forms its exact value as an integer times a power of two (or a
quotient of two integers) and rounds it once, in `roundMag`. -/

namespace Sys2Proof.Machine

/-! ## Formats and values -/

/-- How a format spends its largest exponent (R33). -/
inductive FmtKind where
  /-- infinities and NaNs as IEEE 754-2019 has them: E5, F16, B16, F32, F64 -/
  | ieee
  /-- no infinity, one NaN fraction: E4 -/
  | e4
  /-- neither infinity nor NaN: E2 -/
  | e2
  deriving DecidableEq, Repr

/-- A floating-point format: exponent bits, stored fraction bits and kind (R33). -/
structure Fmt where
  ebits : Nat
  mbits : Nat
  kind : FmtKind
  deriving DecidableEq, Repr

def fmtF64 : Fmt := ⟨11, 52, .ieee⟩
def fmtF32 : Fmt := ⟨8, 23, .ieee⟩
def fmtF16 : Fmt := ⟨5, 10, .ieee⟩
def fmtB16 : Fmt := ⟨8, 7, .ieee⟩
def fmtE5 : Fmt := ⟨5, 2, .ieee⟩
def fmtE4 : Fmt := ⟨4, 3, .e4⟩
def fmtE2 : Fmt := ⟨2, 1, .e2⟩

/-- The exponent bias (R33). -/
def Fmt.bias (f : Fmt) : Nat := 2 ^ (f.ebits - 1) - 1
/-- The place of the sign bit. -/
def Fmt.signBit (f : Fmt) : Nat := f.ebits + f.mbits
/-- The exponent of the last place of a subnormal. -/
def Fmt.qmin (f : Fmt) : Int := 1 - f.bias - f.mbits
/-- The code of the largest finite magnitude. -/
def Fmt.maxCode (f : Fmt) : Nat :=
  match f.kind with
  | .ieee => (2 ^ f.ebits - 1) * 2 ^ f.mbits - 1
  | .e4 => 2 ^ (f.ebits + f.mbits) - 2
  | .e2 => 2 ^ (f.ebits + f.mbits) - 1
/-- The code of positive infinity of an IEEE format. -/
def Fmt.infCode (f : Fmt) : Nat := (2 ^ f.ebits - 1) * 2 ^ f.mbits
/-- The canonical quiet NaN (R51); E2 has none and takes +0 (R53). -/
def Fmt.nanCode (f : Fmt) : Nat :=
  match f.kind with
  | .ieee => f.infCode + 2 ^ (f.mbits - 1)
  | .e4 => 2 ^ (f.ebits + f.mbits) - 1
  | .e2 => 0
/-- A magnitude code with a sign. -/
def Fmt.withSign (f : Fmt) (neg : Bool) (code : Nat) : Nat :=
  if neg then code + 2 ^ f.signBit else code

/-- What a code stands for: `num neg m e` is the number (−1)^neg × m × 2^e. -/
inductive FVal where
  | nan (signalling : Bool)
  | inf (neg : Bool)
  | num (neg : Bool) (m : Nat) (e : Int)
  deriving DecidableEq, Repr

/-- The value of a code (R33, R34). -/
def unpack (f : Fmt) (x : Nat) : FVal :=
  let s := x.testBit f.signBit
  let ex := fld x f.mbits f.ebits
  let fr := fld x 0 f.mbits
  if f.kind = .ieee ∧ ex = 2 ^ f.ebits - 1 then
    if fr = 0 then .inf s else .nan (!fr.testBit (f.mbits - 1))
  else if f.kind = .e4 ∧ ex = 2 ^ f.ebits - 1 ∧ fr = 2 ^ f.mbits - 1 then .nan false
  else if ex = 0 then .num s fr f.qmin
  else .num s (fr + 2 ^ f.mbits) (f.qmin + (ex - 1 : Nat))

/-- Whether a value is a NaN. -/
def FVal.isNan : FVal → Bool
  | .nan _ => true
  | _ => false
/-- Whether a value is a signalling NaN. -/
def FVal.isSnan : FVal → Bool
  | .nan b => b
  | _ => false
/-- Whether a value is a zero of either sign. -/
def FVal.isZero : FVal → Bool
  | .num _ 0 _ => true
  | _ => false
/-- The sign of a value; a NaN counts as positive. -/
def FVal.neg : FVal → Bool
  | .nan _ => false
  | .inf s => s
  | .num s _ _ => s
/-- The value with the other sign. -/
def FVal.negate : FVal → FVal
  | .nan b => .nan b
  | .inf s => .inf (!s)
  | .num s m e => .num (!s) m e
/-- The value as a signed integer in units of 2^`e0`, for `e0` at most its exponent. -/
def FVal.toUnits (e0 : Int) : FVal → Int
  | .num s m e => let n : Nat := m * 2 ^ (e - e0).toNat; if s then -(n : Int) else n
  | _ => 0
/-- The exponent a value is held at. -/
def FVal.exp : FVal → Int
  | .num _ _ e => e
  | _ => 0

/-! ## Flags (R48, R52), in the bit order of FPMODE[8:4] -/

abbrev flNV : BitVec 5 := 1
abbrev flDZ : BitVec 5 := 2
abbrev flOF : BitVec 5 := 4
abbrev flUF : BitVec 5 := 8
abbrev flNX : BitVec 5 := 16

/-- A result code with the exceptions it raised. -/
structure Rnd where
  bits : Nat
  flags : BitVec 5
  deriving DecidableEq, Repr

/-- The flags of one condition. -/
def flagIf (c : Bool) (f : BitVec 5) : BitVec 5 := if c then f else 0

/-! ## The one rounding -/

/-- `m` without its low `d` bits, rounded in mode `rm` (R48: 0 nearest even, 1 toward zero, 2 up,
3 down); `sticky` says that something nonzero lies below `m`. The second part says inexact. -/
def roundMag (rm : Nat) (neg : Bool) (m d : Nat) (sticky : Bool) : Nat × Bool :=
  let q := m / 2 ^ d
  let r := m % 2 ^ d
  let half := 2 ^ d / 2
  let inexact := r != 0 || sticky
  let above := d != 0 && (decide (half < r) || (r == half && sticky))
  let tie := d != 0 && r == half && !sticky
  let inc := match rm with
    | 0 => above || (tie && q % 2 == 1)
    | 1 => false
    | 2 => inexact && !neg
    | _ => inexact && neg
  (if inc then q + 1 else q, inexact)

/-- The rounding of (−1)^neg × m × 2^e to format `f` under `rm` (R49, R52, R53): overflow is judged
on the rounded value, tininess after rounding. A zero `m` gives a zero of sign `neg`. -/
def roundTo (f : Fmt) (rm : Nat) (neg : Bool) (m : Nat) (e : Int) (sticky : Bool) : Rnd :=
  if m = 0 ∧ sticky = false then ⟨f.withSign neg 0, 0⟩ else
  let top : Int := (Nat.log2 m : Int) + e
  let q := max (top - f.mbits) f.qmin
  let cut (q : Int) : Nat × Bool :=
    if q ≤ e then (m * 2 ^ (e - q).toNat, sticky) else roundMag rm neg m (q - e).toNat sticky
  let (r, inexact) := cut q
  let code := (q - f.qmin).toNat * 2 ^ f.mbits + r
  if f.maxCode < code then
    let away := match f.kind with
      | .ieee => match rm with
        | 0 => true
        | 1 => false
        | 2 => !neg
        | _ => neg
      | _ => false
    ⟨f.withSign neg (if away then f.infCode else f.maxCode), flOF ||| flNX⟩
  else
    let emin : Int := f.qmin + f.mbits
    let tiny := decide (top < emin) &&
      !(decide (top + 1 = emin) && (cut (top - f.mbits)).1 == 2 ^ (f.mbits + 1))
    ⟨f.withSign neg code, flagIf inexact flNX ||| flagIf (inexact && tiny) flUF⟩

/-- The rounding of a signed integer in units of 2^`e`; an exact zero takes the sign `zneg`. -/
def roundInt (f : Fmt) (rm : Nat) (zneg : Bool) (n : Int) (e : Int) : Rnd :=
  if n = 0 then ⟨f.withSign zneg 0, 0⟩ else roundTo f rm (decide (n < 0)) n.natAbs e false

/-- The rounding of the quotient (−1)^neg × (a / b) × 2^e for positive `a` and `b`: enough bits of
the quotient are formed for the rest to be only sticky. -/
def roundQuot (f : Fmt) (rm : Nat) (neg : Bool) (a b : Nat) (e : Int) : Rnd :=
  let k := Nat.log2 b + f.mbits + 4
  let n := a * 2 ^ k
  roundTo f rm neg (n / b) (e - k) (n % b != 0)

/-- A canonical NaN, with NV where `nv` holds. -/
def nanRes (f : Fmt) (nv : Bool) : Rnd := ⟨f.nanCode, flagIf nv flNV⟩
/-- An exact code without flags. -/
def exactRes (code : Nat) : Rnd := ⟨code, 0⟩

/-! ## Addition, multiplication and fused multiply-add -/

/-- The sign of an exact zero sum: the common sign, else + except when rounding down. -/
def zeroSign (rm : Nat) (a b : Bool) : Bool := if a = b then a else decide (rm = 3)

/-- The rounded exact sum of two values (IEEE 754-2019 addition, R51). -/
def addV (f : Fmt) (rm : Nat) (a b : FVal) : Rnd :=
  let snan := a.isSnan || b.isSnan
  match a, b with
  | .nan _, _ => nanRes f snan
  | _, .nan _ => nanRes f snan
  | .inf s, .inf t => if s = t then exactRes (f.withSign s f.infCode) else nanRes f true
  | .inf s, _ => exactRes (f.withSign s f.infCode)
  | _, .inf t => exactRes (f.withSign t f.infCode)
  | .num s _ e1, .num t _ e2 =>
    let e := min e1 e2
    roundInt f rm (zeroSign rm s t) (a.toUnits e + b.toUnits e) e

/-- The exact product; `none` for ∞ × 0. A NaN factor gives a NaN that keeps its signalling. -/
def mulV (a b : FVal) : Option FVal :=
  match a, b with
  | .nan s, .nan t => some (.nan (s || t))
  | .nan s, _ => some (.nan s)
  | _, .nan t => some (.nan t)
  | .inf s, .inf t => some (.inf (s != t))
  | .inf s, .num t m _ => if m = 0 then none else some (.inf (s != t))
  | .num s m _, .inf t => if m = 0 then none else some (.inf (s != t))
  | .num s m1 e1, .num t m2 e2 => some (.num (s != t) (m1 * m2) (e1 + e2))

/-- A value rounded to a format. -/
def roundV (f : Fmt) (rm : Nat) : FVal → Rnd
  | .nan s => nanRes f s
  | .inf s => exactRes (f.withSign s f.infCode)
  | .num s m e => roundTo f rm s m e false

/-- The rounded product. -/
def mulR (f : Fmt) (rm : Nat) (a b : FVal) : Rnd :=
  match mulV a b with
  | none => nanRes f true
  | some v => roundV f rm v

/-- The rounded a × b + c (R150): ∞ × 0 raises NV even when c is a quiet NaN. -/
def fmaV (f : Fmt) (rm : Nat) (a b c : FVal) : Rnd :=
  match mulV a b with
  | none => nanRes f true
  | some p => addV f rm p c

/-! ## The rules of the elements of a vector instruction -/

/-- The parts of FPMODE that an operation reads: the rounding mode and FTZ16 (R48). -/
structure FpEnv where
  rm : Nat
  ftz : Bool
  deriving DecidableEq, Repr

/-- R50: a subnormal F16 or B16 source is read as a zero of its sign. -/
def ftzSrc (f : Fmt) (ftz : Bool) : FVal → FVal
  | .num s m e => if ftz ∧ m < 2 ^ f.mbits then .num s 0 e else .num s m e
  | v => v

/-- R50: a subnormal F16 or B16 result is replaced by a zero of its sign, with UF and NX. -/
def ftzRes (f : Fmt) (ftz : Bool) (r : Rnd) : Rnd :=
  let mag := r.bits % 2 ^ f.signBit
  if ftz ∧ 0 < mag ∧ mag < 2 ^ f.mbits then
    ⟨f.withSign (r.bits.testBit f.signBit) 0, r.flags ||| flUF ||| flNX⟩
  else r

/-- minimumNumber (`mx` false) and maximumNumber (R51): a NaN yields to a number, −0 < +0. -/
def minMaxV (f : Fmt) (mx : Bool) (a b : FVal) (abits bbits : Nat) : Rnd :=
  let nv := a.isSnan || b.isSnan
  let less : Bool := match a, b with
    | .inf s, .inf t => s && !t
    | .inf s, _ => s
    | _, .inf t => !t
    | .num s _ e1, .num t _ e2 =>
      let e := min e1 e2
      let x := a.toUnits e
      let y := b.toUnits e
      decide (x < y) || (decide (x = y) && s && !t)
    | _, _ => false
  if a.isNan && b.isNan then nanRes f nv
  else if a.isNan then ⟨bbits, flagIf nv flNV⟩
  else if b.isNan then ⟨abits, flagIf nv flNV⟩
  else ⟨if less == !mx then abits else bbits, flagIf nv flNV⟩

/-- The eight comparisons of VCMP by code: EQ, NE, LT, LE, GT, GE, UNORD, ORD (R151). -/
def cmpV (cond : Nat) (a b : FVal) : Bool × BitVec 5 :=
  let un := a.isNan || b.isNan
  let snan := a.isSnan || b.isSnan
  let ordering : Int := match a, b with
    | .inf s, .inf t => if s = t then 0 else if s then -1 else 1
    | .inf s, _ => if s then -1 else 1
    | _, .inf t => if t then 1 else -1
    | .num _ _ e1, .num _ _ e2 => let e := min e1 e2; a.toUnits e - b.toUnits e
    | _, _ => 0
  let nv := flagIf (snan || (un && decide (2 ≤ cond ∧ cond ≤ 5))) flNV
  let r := match cond with
    | 0 => !un && decide (ordering = 0)
    | 1 => un || decide (ordering ≠ 0)
    | 2 => !un && decide (ordering < 0)
    | 3 => !un && decide (ordering ≤ 0)
    | 4 => !un && decide (ordering > 0)
    | 5 => !un && decide (ordering ≥ 0)
    | 6 => un
    | _ => !un
  (r, nv)

/-- R148: the sign of a non-NaN code replaced; a NaN becomes canonical. -/
def signOp (f : Fmt) (x : Nat) (neg : Bool) : Rnd :=
  match unpack f x with
  | .nan s => nanRes f s
  | _ => ⟨f.withSign neg (x % 2 ^ f.signBit), 0⟩

/-! ## Conversions -/

/-- R53: a value to E5, E4, E2 or an IEEE format under `rm`. E4 turns an infinity into its NaN and
E2 saturates it; E2 reads a NaN as +0. -/
def cvtV (f : Fmt) (rm : Nat) (v : FVal) : Rnd :=
  match f.kind, v with
  | .ieee, v => roundV f rm v
  | .e4, .nan s => nanRes f s
  | .e4, .inf _ => nanRes f true
  | .e2, .nan _ => ⟨0, flNV⟩
  | .e2, .inf s => ⟨f.withSign s f.maxCode, flNV⟩
  | _, .num s m e => roundTo f rm s m e false

/-- A value as an integer, rounded in mode `rm`. -/
def toIntV (rm : Nat) (v : FVal) : Int :=
  match v with
  | .num s m e =>
    let n : Nat := if 0 ≤ e then m * 2 ^ e.toNat else (roundMag rm s m (-e).toNat false).1
    if s then -(n : Int) else n
  | _ => 0

/-- R153: a value to an integer between `lo` and `hi`, saturating with NV; the result as a word. -/
def cvtIntV (rm : Nat) (lo hi : Int) (v : FVal) : Rnd :=
  let word (z : Int) : Nat := (BitVec.ofInt 32 z).toNat
  match v with
  | .nan _ => ⟨0, flNV⟩
  | .inf s => ⟨word (if s then lo else hi), flNV⟩
  | .num _ _ _ =>
    let z := toIntV rm v
    if z < lo then ⟨word lo, flNV⟩ else if hi < z then ⟨word hi, flNV⟩ else ⟨word z, 0⟩

/-! ## L6 and the log table (R36 to R39, R475) -/

/-- The four entries of a log table (R37). -/
abbrev LogTab := Vector (BitVec 16) 4

/-- The reset contents of a log table (R37). -/
def logTabReset : LogTab := #v[0x0000, 0x3070, 0x6A0A, 0xAE8A]

/-- |lin(s, q)| of R38 in units of 2^−24, for `q` from −30 to 30, given as `q` + 32. -/
def linUnits (t : LogTab) (q32 : Nat) : Nat :=
  (2 ^ 16 + (t[q32 % 4]'(Nat.mod_lt _ (by decide))).toNat) * 2 ^ (q32 / 4)

/-- The exponent q of an L6 code, plus 32 (R36). -/
def l6Q32 (c : Nat) : Nat := if c.testBit 4 then c % 32 else c % 32 + 32
/-- Whether an L6 code is zero or NaR (R36). -/
def l6Special (c : Nat) : Bool := c % 32 == 16
/-- Whether an L6 code is NaR. -/
def l6Nar (c : Nat) : Bool := c % 64 == 48
/-- The sign of an L6 code. -/
def l6Neg (c : Nat) : Bool := c.testBit 5

/-- The value of an L6 code as a number; NaR as a NaN (R38). Units of 2^−24: linUnits carries the
factor 2^(8−8), since floor(q/4) + 8 − 8 − 16 = floor((q+32)/4) − 24. -/
def l6Val (t : LogTab) (c : Nat) : FVal :=
  if l6Nar c then .nan false
  else if l6Special c then .num false 0 (-24)
  else .num (l6Neg c) (linUnits t (l6Q32 c)) (-24)

/-- The codes of q = −15 … 15 as q + 32, in rising order. -/
def l6Qs : List Nat := List.range' 17 31

/-- Lmax in units of 2^−24 with the smallest q that has it (R38, R475). -/
def l6Max (t : LogTab) : Nat × Nat :=
  l6Qs.foldl (fun best q => if best.1 < linUnits t q then (linUnits t q, q) else best) (0, 17)

/-- A better candidate of R475: nearer, else even code, else smaller magnitude, else smaller q.
A candidate is (distance, odd, magnitude, q + 32); the zero code is (d, 0, 0, 16). -/
def l6Better (a b : Nat × Nat × Nat × Nat) : Bool :=
  decide (a.1 < b.1) || (a.1 == b.1 && (decide (a.2.1 < b.2.1) || (a.2.1 == b.2.1 &&
    (decide (a.2.2.1 < b.2.2.1) || (a.2.2.1 == b.2.2.1 && decide (a.2.2.2 < b.2.2.2))))))

/-- Steps 2 and 3 of R475 for the magnitude x / d, the candidates in units of 2^−24. The answer is
code[4:0] of the candidate. R475 speaks of 60 nonzero codes, R36 gives 62; all of R36 are candidates. DEDUCED
(log 42). -/
def l6Nearest (t : LogTab) (x d : Nat) : Nat :=
  let dist (l : Nat) : Nat := if x ≤ l * d then l * d - x else x - l * d
  let best := l6Qs.foldl (fun b q =>
      let c := (dist (linUnits t q), q % 2, linUnits t q, q)
      if l6Better c b then c else b) (dist 0, 0, 0, 48)
  best.2.2.2 % 32

/-- An L6 code from its sign and code[4:0]; zero has one code (R36). -/
def l6Code (neg : Bool) (low : Nat) : Nat := if low = 16 then 16 else if neg then low + 32 else low

/-- R475, R53: a value to an L6 code, with the flags of VCVT. -/
def cvtL6 (t : LogTab) (v : FVal) : Rnd :=
  match v with
  | .nan s => ⟨0x30, flagIf s flNV⟩
  | .inf _ => ⟨0x30, flNV⟩
  | .num neg m e =>
    let s := (e + 24)
    let x := if 0 ≤ s then m * 2 ^ s.toNat else m
    let d := if 0 ≤ s then 1 else 2 ^ (-s).toNat
    let (lmax, qmax) := l6Max t
    if lmax * d < x then ⟨l6Code neg (qmax % 32), flOF ||| flNX⟩
    else
      let low := l6Nearest t x d
      let back := if low = 16 then 0 else linUnits t (l6Q32 low)
      ⟨l6Code neg low, flagIf (back * d != x) flNX ||| flagIf (low == 16 && m != 0) flUF⟩

/-! ## Roots and quotients -/

/-- The floor of a square root, by `fuel` bits from the top. -/
def isqrtAux (n : Nat) : Nat → Nat → Nat
  | 0, r => r
  | k + 1, r => let c := r + 2 ^ k; isqrtAux n k (if c * c ≤ n then c else r)
/-- The floor of the square root of `n`. -/
def isqrt (n : Nat) : Nat := isqrtAux n (Nat.log2 n / 2 + 1) 0

end Sys2Proof.Machine
end

