-- ==== Sys2Proof/Machine/SMap.lean ====
section
/-! DEFINITION. Sparse data by number, and memory as such data in one canonical form. -/

namespace Sys2Proof.Machine

/-- Data by number, in rising order of the numbers. -/
abbrev SMap (β : Type) := List (Nat × β)

/-- What is held at `k`. -/
def SMap.find {β : Type} : SMap β → Nat → Option β
  | [], _ => none
  | (j, v) :: m, k => if j = k then some v else SMap.find m k

/-- What is held at `k`, or the value `d` that an unlisted number stands for. -/
def SMap.get {β : Type} (m : SMap β) (k : Nat) (d : β) : β := (SMap.find m k).getD d

/-- `v` at `k`, in place of what was there. -/
def SMap.put {β : Type} : SMap β → Nat → β → SMap β
  | [], k, v => [(k, v)]
  | (j, w) :: m, k, v =>
    if k < j then (k, v) :: (j, w) :: m
    else if j = k then (k, v) :: m
    else (j, w) :: SMap.put m k v

/-- Nothing at `k`. -/
def SMap.del {β : Type} : SMap β → Nat → SMap β
  | [], _ => []
  | (j, w) :: m, k => if j = k then m else (j, w) :: SMap.del m k

/-- The entry at `k` changed by `f`, starting from `d` where nothing is listed. -/
def SMap.upd {β : Type} (m : SMap β) (k : Nat) (d : β) (f : β → β) : SMap β :=
  SMap.put m k (f (SMap.get m k d))

/-- Every value changed by `f`. -/
def SMap.mapVal {β : Type} (m : SMap β) (f : β → β) : SMap β := m.map fun p => (p.1, f p.2)

/-! ## Memory: listed bytes rise by address and none is 0, the value of an unlisted byte (log 1) -/

/-- A memory: the bytes that are not 0, by rising address. -/
abbrev Memory := List Host.Cell

/-- The byte at an address. DESIGN CHOICE (log 1). -/
def Memory.read : Memory → Nat → Byte
  | [], _ => 0
  | (j, v) :: m, a => if j = a then v else Memory.read m a

/-- The memory without an entry for an address. -/
def Memory.clear : Memory → Nat → Memory
  | [], _ => []
  | (j, v) :: m, a => if j = a then Memory.clear m a else (j, v) :: Memory.clear m a

/-- The memory with a listed byte added in its place. -/
def Memory.add : Memory → Nat → Byte → Memory
  | [], a, b => [(a, b)]
  | (j, v) :: m, a, b => if a < j then (a, b) :: (j, v) :: m else (j, v) :: Memory.add m a b

/-- A byte written at an address; writing 0 unlists it. -/
def Memory.write (m : Memory) (a : Nat) (b : Byte) : Memory :=
  if b = 0 then Memory.clear m a else Memory.add (Memory.clear m a) a b

/-- Whether a memory has the canonical form. -/
def Memory.wf : Memory → Bool
  | [] => true
  | [(_, v)] => v != 0
  | (a, v) :: (b, w) :: m => v != 0 && decide (a < b) && Memory.wf ((b, w) :: m)

/-- The `n` bytes from `a` up. -/
def Memory.readBytes (m : Memory) (a : Nat) : Nat → List Byte
  | 0 => []
  | n + 1 => Memory.read m a :: Memory.readBytes m (a + 1) n

/-- Bytes written from `a` up. -/
def Memory.writeBytes (m : Memory) (a : Nat) : List Byte → Memory
  | [] => m
  | b :: bs => Memory.writeBytes (Memory.write m a b) (a + 1) bs

/-- The little-endian number in the `n` bytes from `a` up (R8). -/
def Memory.readNat (m : Memory) (a : Nat) : Nat → Nat
  | 0 => 0
  | n + 1 => (Memory.read m a).toNat + 256 * Memory.readNat m (a + 1) n

end Sys2Proof.Machine
end

