-- ==== Sys2Proof/Machine/State.lean ====
section
/-! DEFINITION. The state of the SZB9-M as plain data: the issuing warp and the other resident warps, the
cores and clusters, grids, gangs and contexts, the front end, the coherence layer, the tables and the
registers of the management space (INVENTORY.md, State). Every field's default is its value at reset or,
for a record of a warp, grid, gang or context, its value when the record is made. -/

namespace Sys2Proof.Machine

/-! ## How a step can stop -/

/-- The named stops of the machine: there is none, since the spec gives every instruction and event an effect, and
bounds each undefined outcome to the values of a context (R3). -/
inductive Fault where
  deriving DecidableEq, Repr

/-- A refusal of the model. -/
inductive Refusal where
  /-- Raised by `exec` for an instruction that has no meaning yet. Safe. -/
  | notModelled (mnemonic : String)
  deriving DecidableEq, Repr

/-! ## The registers of a warp -/

/-- A vector register or pool entry: 32 lanes of 32 bits (R91). -/
abbrev Lanes := Vector Word 32

/-- A program counter: packet index and slot (R61). -/
structure Pc where
  packet : BitVec 30 := 0
  slot : Fin 3 := 0
  deriving DecidableEq, Repr

/-- The outstanding-operation counters (R427). -/
structure Counters where
  l : BitVec 6 := 0
  s : BitVec 6 := 0
  c : BitVec 6 := 0
  m : BitVec 6 := 0
  a : BitVec 6 := 0
  deriving DecidableEq, Repr

/-- The registers that a group reads as they stood before it issued (R68): the window, scalars,
predicates and special registers of R100, and the counters. -/
structure Regs where
  s : Vector Word 32 := Vector.replicate 32 0
  p : Vector Word 8 := Vector.replicate 8 0
  /-- written pool entries of the window; any other entry holds its uninitialised marker (R94) -/
  win : SMap Lanes := []
  exec : Word := 0xFFFFFFFF
  part : BitVec 3 := 0
  vbnd : BitVec 12 := 8
  vcount : BitVec 12 := 8
  fpmode : Word := 0x00000008
  /-- the sticky bits REPLAYED, RESUMED, SAT and EMPTY of WSTAT (R104) -/
  wstat : BitVec 4 := 0
  cfsig : Word := 0
  rsig : Word := 0
  ssig : Word := 0
  spanno : Word := 0
  wid : BitVec 5 := 0
  bidx : Word := 0
  bidy : Word := 0
  bidz : Word := 0
  gangrank : BitVec 2 := 0
  gridid : Word := 0
  coreid : BitVec 10 := 0
  chkrole : BitVec 2 := 0
  kbase : Word := 0
  trapPc : Word := 0
  trapMask : Word := 0
  trapCause : Word := 0
  trapInfo0 : Word := 0
  trapInfo1 : Word := 0
  cnt : Counters := {}
  /-- the latched high halves of CLK and DTB (R105) -/
  clkHi : Option Word := none
  dtbHi : Option Word := none
  deriving DecidableEq, Repr

/-- An entry of the reconvergence stack: a deferred path (D) or a reconvergence point (R) (R122). -/
structure ReconEntry where
  deferred : Bool
  pc : Pc
  mask : Word
  deriving DecidableEq, Repr

/-- Almond's nest for a warp slot (R134): the descriptor copy, the tuple of the next iteration, the
iterations not yet returned, and the queue of entries already written. -/
structure Nest where
  desc : List Word
  tuple : List Nat
  remain : Nat
  queue : List (Vector Word 4) := []
  deriving DecidableEq, Repr

/-- A latched trap (R391): its cause code and detail. -/
structure Latch where
  cause : Nat
  info0 : Word
  info1 : Word
  deriving DecidableEq, Repr

/-- What wakes a parked warp: the blocking points of R368, and the states before and after running. -/
inductive Park where
  /-- no warp is resident in this record -/
  | vacant
  | ready
  /-- BARRIER: object at a byte of a cluster's SRAM, and the parity waited for; `poll` holds PHNO as BWAIT
  found it, for a waiter past the 64 objects of its segment (R298) -/
  | barrier (obj : Nat) (parity : Bool) (offset : Word) (trapPc : Pc) (poll : Option Word)
  /-- MONITOR: the physical word, condition, operand and destination scalar (R292); `polled` past the 256
  records of its slice (R253) -/
  | monitor (phys : Nat) (cond : Nat) (operand : Word) (dest : Nat) (polled : Bool)
  | bsync
  | gsync (group : Nat)
  /-- FIFO: a pop waits for an entry in a physical segment of the warp's cluster (R212) -/
  | fifo (segment : Nat)
  /-- FAR: a load or atomic waits for these gangs to run, with its address, whether it writes, and its place in the
  program (R205); a WAITC or MWAITB waits for a far load, with none of them -/
  | far (gangs : List Nat) (ref : Option (Nat × Bool × Pc) := none)
  | batch (number : Word)
  | verdict
  /-- HELD: a held store waits for version-store room (R328) -/
  | held
  /-- FAULT: a recoverable page fault, with the tag of its page request and the detail of the trap that
  PRFAIL makes of it; `fetch` for that of a packet (R280, R416) -/
  | fault (tag : Nat) (i0 i1 : Word) (fetch : Bool := false)
  | yield
  /-- FABRIC: a far access waits while fabric injection is stopped (R385) -/
  | fabric
  /-- placed with a cooperative grid whose gangs have not all been placed (R365) -/
  | unstarted
  /-- after EXIT, waiting for the counters S, C, M and A (R127) -/
  | exiting
  | exited
  deriving DecidableEq, Repr

/-! ## Outstanding operations of the memory pipe -/

/-- A byte's place: physical memory, or the SRAM of a cluster at cluster × 8 MiB + offset. -/
inductive Loc where
  | phys (a : Nat)
  | sram (a : Nat)
  /-- a refused peer-scratch address, and the trap it latches (R204) -/
  | refused (cause va : Nat)
  /-- the scratch of a saved gang: gang handle and logical offset (R378); for a push, its FIFO segment by logical
  number -/
  | logged (gang : Nat) (off : Nat)
  | pushLog (gang : Nat) (segment : Nat)
  /-- a FIFO segment of a cluster (R211) -/
  | fifo (cluster segment : Nat)
  deriving DecidableEq, Repr

/-- Consecutive bytes at one place, with the virtual address they were reached by. -/
structure Piece where
  loc : Loc
  va : Nat
  len : Nat
  deriving DecidableEq, Repr

/-- What one lane of an access touches and the words it carries; a wide private access has one of these
for each of its words, numbered by `part` (R206). -/
structure LaneAcc where
  lane : Nat
  part : Nat := 0
  va : Nat
  pieces : List Piece
  data : List Word := []
  /-- the redirect word of an atomic with H = 2 (R287); how many of its three events have been performed, and the places
  of the other two (R260) -/
  redirect : Word := 0
  stage : Nat := 0
  after : List Piece := []
  /-- the bytes that have been performed, by number, of a lane that is torn (R259) -/
  seen : SMap Byte := []
  /-- it touches regions of matrix entries in flight, or its segment has changed its mode: its values are free (R173,
  R207) -/
  hazard : Bool := false
  /-- its peer has gone down: it is performed, and what it returns is free (R453) -/
  orphan : Bool := false
  deriving DecidableEq, Repr

/-- The kinds of outstanding operation. -/
inductive AccKind where
  /-- VLD of a size code to vector d, with its retention hint (R282) -/
  | load (size d h : Nat)
  /-- VST of a size code -/
  | store (size h : Nat)
  /-- SLD to a scalar, and SST (R118) -/
  | sload (d : Nat)
  | sstore
  /-- VATOM function, return mode and destination (R285) -/
  | atom (fn h d : Nat)
  /-- BINIT with its count, BEXPECT with its bytes, BARRIVE, BINVAL (R295) -/
  | binit (count : Nat)
  | barrive (peer : Bool)
  | bexpect (bytes : Nat)
  | binval
  /-- BTRY to a scalar for a parity -/
  | btry (d : Nat) (parity : Bool)
  /-- a scalar result on its way: BANKQ (R312) -/
  | scalar (d : Nat) (v : Word)
  /-- WBACK of lines, DISCARD of bytes (R310) -/
  | wback
  | discard
  /-- DEPOSIT: its records with their slots (R313) -/
  | deposit
  /-- TBLLOAD of a function table or the log table (R421) -/
  | tblload (tid : Nat) (log : Bool)
  /-- fences that are not yet satisfied (R315) -/
  | fence
  | fenceRel
  | fenceAcq
  deriving DecidableEq, Repr

/-- An outstanding operation of a warp, kept in program order. `lanes` are those not performed yet; `got`
holds the values read, by 4 × lane + part, and `due` the keys of those that are not in their destination yet. -/
structure Access where
  kind : AccKind
  acquire : Bool := false
  release : Bool := false
  /-- a VST.32, whose lanes push on a FIFO segment (R211); the global part of a checked VST.REL, committed last (R275) -/
  push : Bool := false
  last : Bool := false
  far : Bool := false
  /-- a held store that waits for room in the version store (R328, R330) -/
  waits : Bool := false
  /-- the lines of a store that have been sent to the die's pool and are not written yet (R262) -/
  sent : List Nat := []
  /-- a load whose values a checked run took from its replay log (R331) -/
  fromLog : Bool := false
  /-- where a checked primary's record of the values stands in its replay log -/
  logIdx : Option Nat := none
  /-- the matrix entries that had been issued before it (R173) -/
  stamp : Nat := 0
  /-- the first word of the group that issued it -/
  pc : Pc := {}
  lanes : List LaneAcc := []
  got : List (Nat × List Word) := []
  due : List Nat := []
  deriving DecidableEq, Repr

/-! ## The matrix queue -/

/-- Row spans that a matrix entry reads or writes (R172, R184): `rows` spans of `len` bytes, `pitch` apart,
from a global address or from a logical offset of the gang's scratch. -/
structure Region where
  global : Bool := false
  base : Nat
  pitch : Nat := 0
  len : Nat
  rows : Nat := 1
  deriving DecidableEq, Repr

/-- The operations of a matrix queue entry (R169). -/
inductive MOp where
  | mma (fn k : Nat) (z ta : Bool)
  | mscale
  | tzero
  | tload (cv : Nat)
  | tstore (cv : Nat)
  | taddst (cv : Nat)
  | tmove
  | mquant (fn nb n : Nat)
  | opfence
  deriving DecidableEq, Repr

/-- An entry of a core's matrix queue with its operands as bound at issue (R169, R172, R420). `dst` and
`src` are the first window entries of the tile written and of the tile read; a B slot is `bwords` words
from word `bword` of each slice. -/
structure MEntry where
  id : Nat
  uid : Nat
  ctx : Nat := 0
  gang : Nat := 0
  core : Nat := 0
  span : Word := 0
  batch : Word := 0
  op : MOp
  dst : Option Nat := none
  src : Nat := 0
  reads : List Region := []
  writes : List Region := []
  bword : Nat := 0
  bwords : Nat := 0
  log : LogTab := logTabReset
  /-- the bank of the log table that it is bound to, where it is bound to one (R420, R421) -/
  bank : Option Bool := none
  /-- the last OPFENCE of the warp before it (R171) -/
  fence : Nat := 0
  /-- where its store words stand among the folds of its span (R196) -/
  foldPos : Nat := 0
  /-- a page request it waits for (R197); its presentation and admission (R195) -/
  waiting : Option Nat := none
  presented : Option Nat := none
  admitted : Bool := false
  /-- the lines of its global region done, and the bytes of those read (R194, R229) -/
  pos : Nat := 0
  got : List (List Byte) := []
  /-- the pages of its global region and where they lie, from its start on (R197) -/
  pages : Option (SMap Nat) := none
  /-- it has completed, with the tile it wrote in a checked primary (R331); a hazard has touched it (R173). An entry whose
  grid was lost after its start holds here the tile that it stores (R407) -/
  done : Bool := false
  tile : List Word := []
  hazard : Bool := false
  deriving DecidableEq, Repr

/-- A scratch word as it stood before a store of the warp, while no OPFENCE has followed (R171): the
store's order, the word's SRAM byte and its old value. -/
structure StaleWord where
  stamp : Nat
  place : Nat
  old : Word
  deriving DecidableEq, Repr

/-! ## Checked execution -/

/-- A replay-log record (R331). -/
structure LogRec where
  kind : Nat
  words : List Word
  deriving DecidableEq, Repr

/-- The seal range of a warp: vector entries and tiles (R326). -/
structure Seal where
  first : Nat := 0
  count : Nat := 0
  tiles : BitVec 3 := 0
  deriving DecidableEq, Repr

/-- A checkpoint (R323). -/
structure Checkpoint where
  sealed : Seal := {}
  entries : SMap Lanes := []
  regs : Regs := {}
  pc : Pc := {}
  handler : Bool := false
  stack : List ReconEntry := []
  nest : Option Nest := none
  batch : Word := 0
  latch : Option Latch := none
  depositSeq : Word := 0
  hbase : BitVec 64 := 0
  deriving DecidableEq, Repr

/-- The release event of a closing instruction, performed last when its span commits (R275, R320). -/
inductive Closing where
  | none
  | bsync
  | gsync (group : Nat)
  | exit
  deriving DecidableEq, Repr

/-- The state of a warp's current span (R320 to R336). -/
structure Span where
  start : Checkpoint := {}
  escaped : Bool := false
  scratch : Bool := false
  groups : Nat := 0
  /-- where a shadow or tiebreak ends with its primary's span -/
  limit : Option Nat := none
  /-- the records written by a primary, or still to be consumed by a shadow, in order -/
  log : List LogRec := []
  /-- the matrix entries, with their tiles, that no wait had covered when the span started (R331, R332) -/
  flights : List MEntry := []
  /-- payload and header words of the log, for the room left (R332) -/
  used : Nat := 0
  gen : Nat := 0
  /-- the banks active when the span started (R420) -/
  bank : BitVec 9 := 0
  /-- its versions were committed early under the RELEASE policy (R330) -/
  released : Bool := false
  /-- set where a shadow stopped (R331), and where the span ends once the counters are 0 (R322) -/
  stopped : Bool := false
  ending : Bool := false
  /-- a shadow or tiebreak raised UNINIT_USE on an entry outside its checkpoint (R338) -/
  incomplete : Bool := false
  closing : Closing := .none
  /-- the closing store or arrival, performed last when the span commits (R275) -/
  last : Option Access := none
  /-- folds made into SSIG in the span -/
  folds : Nat := 0
  /-- deposit slots that the primary reserved in the span, which its other runs take in turn (R314) -/
  slots : List Nat := []
  /-- an unhandled trap that ended the span: cause and group count (R396) -/
  trap : Option (Nat × Nat) := none
  deriving DecidableEq, Repr

/-! ## Warps -/

/-- A resident warp. -/
structure Warp where
  uid : Nat := 0
  ctx : Nat := 0
  grid : Nat := 0
  gang : Nat := 0
  /-- warp slot of its core and first pool entry of its window (R91) -/
  slot : Nat := 0
  window : Nat := 0
  regs : Regs := {}
  pc : Pc := {}
  park : Park := .vacant
  /-- a wake that came while the warp was held, with a monitor's value (R375) -/
  pend : Bool := false
  wval : Word := 0
  held : Bool := false
  /-- parked at a barrier, its arrival waiting for its accesses (R131) -/
  arriving : Bool := false
  handler : Bool := false
  /-- HBASE as its last trap found it (R392) -/
  hbase : BitVec 64 := 0
  stack : List ReconEntry := []
  nest : Option Nest := none
  latch : Option Latch := none
  batch : Word := 0
  /-- matrix entries in flight, in order (R173); the last OPFENCE; words the array may read as they were -/
  flights : List MEntry := []
  opfence : Nat := 0
  stale : List StaleWord := []
  sealed : Seal := {}
  depositSeq : Word := 0
  out : List Access := []
  span : Span := {}
  boost : Bool := false
  boostCount : BitVec 9 := 0
  boostAt : Nat := 0
  age : Nat := 0
  /-- it could not issue when it last tried, and nothing has happened since (R366) -/
  stall : Bool := false
  replays : Nat := 0
  /-- byte address and size of the private area (R206) -/
  privBase : Nat := 0
  privSize : Nat := 0
  /-- a trap that the warp takes when it next runs: a woken wait that fails (R297, R311) or a failed page
  request (R416); cause, detail and the program counter of its group -/
  pendTrap : Option (Nat × Word × Word × Pc) := none
  /-- the packet that has been fetched and is not refetched: its place and words (R64) -/
  ibuf : Option (BitVec 30 × List Nat) := none
  /-- a shadow's or tiebreak's primary, by uid (R335) -/
  primary : Nat := 0
  deriving DecidableEq, Repr

/-! ## Cores, clusters, gangs, grids -/

/-- A core's own state; `pmc` and `pmcsel` are its performance counters (R441). -/
structure Core where
  pmc : SMap (BitVec 48) := []
  pmcsel : SMap Word := []
  clk : BitVec 64 := 0
  mq : List MEntry := []
  /-- the context that the B-store last belonged to (R215) -/
  bOwner : Option Nat := none
  achkctl : Word := 0x00020400
  achkcnt : BitVec 17 := 0
  achktot : Word := 0
  demerits : BitVec 8 := 0
  fenced : Bool := false
  replaycnt : Word := 0
  /-- a group on it reached the limit of replays (R405, R425) -/
  limitHit : Bool := false
  deriving DecidableEq, Repr

/-- The three modes of a cluster SRAM segment (R207, R423). -/
inductive SegMode where
  | cache
  | scratch
  | fifo
  deriving DecidableEq, Repr

/-- An entry of a segment-mode table (R423); FIFO entries are held beside it, the head first. -/
structure Segment where
  claimed : Bool := false
  mode : SegMode := .cache
  lseg : BitVec 5 := 0
  ctx : BitVec 12 := 0xFFF
  gang : Nat := 0
  head : BitVec 11 := 0
  fifo : List Lanes := []
  retired : Bool := false
  deriving DecidableEq, Repr

/-- A copy in the engine of a cluster (R300 to R304). -/
structure Copy where
  fn : Nat
  src : Nat
  dst : Nat
  len : Nat
  old : Nat := 0
  ben : Bool := false
  bar : Nat := 0
  imm : Nat := 0
  dlt : Bool := false
  h : Nat := 0
  peer : Nat := 0
  deriving DecidableEq, Repr

/-- What an engine-queue slot runs. -/
inductive Job where
  | copy (c : Copy)
  /-- a chain: next step's address, steps done, and the banks bound (R420) -/
  | chain (next : Nat) (steps : Nat) (banks : BitVec 9)
  deriving DecidableEq, Repr

/-- An engine-queue slot of a cluster (R303): its warp or its node, and for a stopped remainder its place. -/
structure EngineJob where
  job : Job
  warp : Option Nat := none
  ctx : Nat := 0
  grid : Nat := 0
  gang : Nat := 0
  core : Nat := 0
  role : Nat := 0
  span : Word := 0
  /-- its order among its warp's accesses; the bytes before `pos` have been performed, and so have the words at
  `ahead` (R267, R303) -/
  stamp : Nat := 0
  pos : Nat := 0
  ahead : List Nat := []
  /-- words whose source and old data have been read and that are not written yet (R267) -/
  got : List (Nat × List Byte) := []
  /-- the words of the next step of a chain that have been read, by number (R267, R307) -/
  step : SMap Word := []
  node : Option Nat := none
  /-- held by a page request (R304) -/
  waiting : Option Nat := none
  /-- CPYPEER sent and waiting for the far acknowledgment -/
  sent : Bool := false
  /-- stopped for good: its remaining destination bytes are undefined (R304, R407) -/
  stopped : Bool := false
  /-- a chain that has a FUNC step, and so is bound to its banks (R420, R421) -/
  binds : Bool := false
  /-- segments of SRAM whose mode changed while its copy was in flight: what it reads and writes there is undefined (R207) -/
  spoilt : List Nat := []
  /-- its gang is to be saved and it has waited for a gang that does not run: the byte at which it stops (R477) -/
  halt : Option Nat := none
  deriving DecidableEq, Repr

/-- A segment change in progress (R207, R311). -/
structure SegChange where
  segment : Nat
  mode : SegMode
  warp : Option Nat := none
  stamp : Nat := 0
  deriving DecidableEq, Repr

/-- A cluster's own state. -/
structure Cluster where
  segs : SMap Segment := []
  engine : List EngineJob := []
  changes : List SegChange := []
  /-- command-link permits toward the scheduler and toward the leaf (R361) -/
  permitsUp : BitVec 4 := 8
  permitsDown : BitVec 4 := 8
  /-- messages received whose permits have not been returned, by the scheduler and by the leaf -/
  owedUp : BitVec 4 := 0
  owedDown : BitVec 4 := 0
  parcnt : Word := 0
  deriving DecidableEq, Repr

/-- The phases of a gang's life (R363 to R377). -/
inductive GangPhase where
  | waiting
  | offered
  | running
  | saving
  | saved
  | restoring
  | retired
  deriving DecidableEq, Repr

/-- A gang. -/
structure Gang where
  grid : Nat := 0
  ctx : Nat := 0
  x : Nat := 0
  y : Nat := 0
  z : Nat := 0
  phase : GangPhase := .waiting
  cluster : Nat := 0
  cores : List Nat := []
  /-- physical segments by logical number, now and at the first placement with its cluster (R204) -/
  segs : List Nat := []
  firstCluster : Option Nat := none
  firstSegs : List Nat := []
  /-- the saved image: warps, SRAM bytes by logical offset, segment modes, copies, B-stores -/
  image : List Warp := []
  imageBytes : Memory := []
  imageSegs : List Segment := []
  imageJobs : List EngineJob := []
  imageB : SMap Word := []
  overflowed : Bool := false
  moved : Bool := false
  /-- its place among its grid's gangs; whether a SAVE has been sent for it, and has reached its leaf (R361, R371) -/
  number : Nat := 0
  told : Bool := false
  asked : Bool := false
  /-- whether PLACED has reached the scheduler (R365) -/
  placed : Bool := false
  /-- physical addresses of the headers of its save records (R374) -/
  headers : List Nat := []
  /-- where its save image lies in the context's save area, and its bytes -/
  imageOff : Nat := 0
  imageSize : Nat := 0
  deriving DecidableEq, Repr

/-- The payload of a LAUNCH node after merging with the image's metadata (R350). -/
structure Launch where
  image : Nat := 0
  pol : Bool := false
  lat : Bool := false
  coop : Bool := false
  native : Bool := true
  red : Nat := 0
  k : Nat := 0
  timed : Bool := false
  gx : Nat := 1
  gy : Nat := 1
  gz : Nat := 1
  vbnd : Nat := 64
  vcount : Nat := 64
  warps : Nat := 1
  gang : Nat := 1
  scratch : Nat := 0
  priv : Nat := 0
  pbase : Nat := 0
  args : List Word := []
  seed : Word := 0
  chkarea : Nat := 0
  logsz : Nat := 0
  stable : List Nat := []
  gtab : Nat := 0
  gcount : Nat := 0
  darea : Nat := 0
  cont : Nat := 0
  entry : Nat := 0
  npkt : Nat := 0
  deriving DecidableEq, Repr

/-- A grid. -/
structure Grid where
  ctx : Nat := 0
  gridid : Word := 0
  node : Nat := 0
  prio : Nat := 0
  launch : Launch := {}
  codeBase : Nat := 0
  codeLen : Nat := 0
  entry : Nat := 0
  /-- the group table copied at readiness: the members of each entry (R413) -/
  groups : List (List Nat) := []
  /-- stable ranges: base and length in bytes (R418) -/
  stable : List (Nat × Nat) := []
  /-- where each page of 4 KiB of the ranges lay at launch, by virtual page: pinned while the grid runs (R334, R417) -/
  pinned : SMap Nat := []
  gangs : List Nat := []
  retired : Nat := 0
  /-- arrivals at each group barrier, and warps arrived at each block's BSYNC, by number -/
  gsync : SMap Nat := []
  bsync : SMap Nat := []
  /-- warps that have exited, by linear block number (R131) -/
  exited : SMap Nat := []
  slotsUsed : Nat := 0
  /-- gangs in all, and its order of readiness among grids of its level (R360) -/
  total : Nat := 0
  order : Nat := 0
  /-- a cooperative grid whose warps have started (R365) -/
  began : Bool := false
  /-- the place of its finalised image (R88) -/
  image : Option Nat := none
  lost : Bool := false
  ended : Bool := false
  deriving DecidableEq, Repr

/-! ## Contexts -/

/-- The states of a context (R357, R369). -/
inductive CtxPhase where
  | none
  | running
  | saving
  | saved
  | frozen
  | tornDown
  deriving DecidableEq, Repr

/-- One of the record queues that the driver registers (R402, R416). -/
structure Queue where
  base : BitVec 64 := 0
  cfg : BitVec 64 := 0
  rd : Word := 0
  wr : Word := 0
  dropped : BitVec 16 := 0
  seq : Word := 0
  deriving DecidableEq, Repr

/-- A ring: its registers and the front end's copy of its descriptor (R343, R381). -/
structure Ring where
  addr : BitVec 64 := 0
  registered : Bool := false
  dev : Bool := false
  hostmem : Bool := false
  logn : Nat := 0
  base : Nat := 0
  rd : Word := 0
  doorbell : Word := 0
  ctl : Word := 0
  frozen : Bool := false
  wakePending : Bool := false
  /-- the next entry was published when the ring was frozen (R381) -/
  published : Bool := false
  /-- RESV as it stood past the ring's size: the entries before it are undefined (R344) -/
  overRun : Option Word := none
  deriving DecidableEq, Repr

/-- A page request that is open (R416). -/
structure PageReq where
  tag : Nat
  page : Nat
  deriving DecidableEq, Repr

/-- An entry of the arrival log (R378). -/
structure ArrivalEntry where
  kind : Nat
  gang : Nat
  off : Nat
  mask : Nat
  data : List Word
  deriving DecidableEq, Repr

/-- A translation that a TLB may hold: the first virtual and physical page of a page of any size, its size in pages of
4 KiB, and the accesses it allows (R417). -/
structure TlbEntry where
  vpage : Nat
  ppage : Nat
  pages : Nat := 1
  r : Bool := false
  w : Bool := false
  x : Bool := false
  deriving DecidableEq, Repr

/-- A context: its page of the management space, tables and switch state. -/
structure Ctx where
  ctl : BitVec 64 := 0
  phase : CtxPhase := .none
  ptroot : BitVec 64 := 0
  codewin : BitVec 64 := 0
  tblimg : BitVec 64 := 0
  nodeshare : Word := 0
  trapdesc : Vector Word 8 := Vector.replicate 8 0
  swdesc : BitVec 64 := 0
  fq : Queue := {}
  prq : Queue := {}
  invbase : BitVec 64 := 0
  invlen : BitVec 64 := 0
  invctl : Word := 0
  rings : SMap Ring := []
  /-- function-table words by table, bank and word; log tables by bank (R419) -/
  fn : SMap Word := []
  log0 : LogTab := logTabReset
  log1 : LogTab := logTabReset
  bank : BitVec 9 := 0
  gen : BitVec 16 := 0
  switchPending : Bool := false
  injectionStopped : Bool := false
  codeRuns : List (Nat × Nat) := []
  tlb : List TlbEntry := []
  /-- bytes of running code by virtual address as they stood before stores of the context (R64) -/
  codeOld : SMap Byte := []
  open_ : List PageReq := []
  nextGrid : Word := 0
  /-- NODEIDs that its nodes have had (R347) -/
  nodeids : List Word := []
  invalidating : Bool := false
  alog : List ArrivalEntry := []
  alogHead : Word := 0
  alogOvf : Bool := false
  /-- gangs saved or restored in the current switch (R388) -/
  saveDone : Nat := 0
  deriving DecidableEq, Repr

/-- What an event of the device brings with it: which item it concerns, and what the outside sends. -/
structure EvArgs where
  k : Nat := 0
  m : Nat := 0
  n : Nat := 0
  v : BitVec 64 := 0
  w : BitVec 64 := 0
  b : Bool := false
  bytes : List Byte := []
  deriving DecidableEq, Repr

/-- One entry of the agenda: a device event with its arguments, or another warp in the focus. -/
inductive Turn where
  | event (i : Instr) (a : EvArgs)
  | focus (k : Nat)
  deriving DecidableEq, Repr

/-- How the word just executed ended, for the group it stands in. -/
inductive Ended where
  | done
  /-- a trap: the group leaves no other effect -/
  | trapped (cause : Nat) (i0 i1 : Word)
  /-- the word cannot issue yet and issues again later -/
  | stalled
  /-- the word parks its warp before it takes effect -/
  | parked (p : Park)
  /-- the span of a checked run ends immediately before the group (R320, R321) -/
  | spanEnd
  /-- the span ends within a wait, which completes in the next: these entries are covered in this one (R332) -/
  | spanSplit (entries : List Nat)
  deriving DecidableEq, Repr

/-- The group being issued: its first word's place and the flags and status bits raised so far (R67). -/
structure Grp where
  pc : Pc := {}
  fpRaised : BitVec 5 := 0
  wsRaised : BitVec 4 := 0
  ended : Ended := .done
  word : Nat := 0
  /-- the next matrix entry's number, and the folds made into SSIG in the span, when the group began -/
  entry : Nat := 0
  folds : Nat := 0
  deriving DecidableEq, Repr

/-! ## The version store and the votes (R327 to R336) -/

/-- A pending version: a line's changed bytes, held for a run at a die pool (R327). -/
structure Version where
  die : Nat
  line : Nat
  /-- the virtual address of the line's first byte -/
  va : Nat
  ctx : Nat
  grid : Nat
  uid : Nat
  span : Word
  role : Nat
  bytes : SMap Byte := []
  /-- it holds bytes of the store that ends the span, and is committed after the others (R275) -/
  last : Bool := false
  /-- bytes that a copy counts on a barrier object once they are performed: gang, offset and number (R269) -/
  counted : List (Nat × Nat × Nat) := []
  deriving DecidableEq, Repr

/-- What a run sends to Hazel at its span's end (R322, R336). -/
structure SpanRec where
  uid : Nat := 0
  core : Nat := 0
  ssig : Word := 0
  rsig : Word := 0
  differs : Bool := false
  trap : Option (Nat × Nat) := none
  /-- UNINIT_USE on an entry outside the checkpoint, raised by a shadow or tiebreak (R338) -/
  incomplete : Bool := false
  closing : Closing := .none
  last : Option Access := none
  endState : Checkpoint := {}
  deriving DecidableEq, Repr

/-- A span that Hazel judges: its primary's record and start, its flags, and the runs so far (R335). -/
structure Vote where
  primary : SpanRec
  ctx : Nat := 0
  grid : Nat := 0
  span : Word := 0
  escaped : Bool := false
  scratch : Bool := false
  released : Bool := false
  start : Checkpoint := {}
  log : List LogRec := []
  flights : List MEntry := []
  gen : Nat := 0
  bank : BitVec 9 := 0
  /-- group count of the primary's run, and the deposit slots it reserved -/
  groups : Nat := 0
  slots : List Nat := []
  /-- the cores of the shadow and tiebreak, once placed, and their records -/
  shadowCore : Option Nat := none
  tieCore : Option Nat := none
  shadow : Option SpanRec := none
  tie : Option SpanRec := none
  /-- the run whose versions and closing event commit, once the verdict is given; lines remaining -/
  winner : Option Nat := none
  deriving DecidableEq, Repr

/-! ## The front end and the scheduler (R343 to R365) -/

/-- Where a node stands. -/
inductive NodePhase where
  | waiting
  | ready
  | running
  deriving DecidableEq, Repr

/-- A node of the pending-node table (R346, R347); `words` is its ring entry. -/
structure Node where
  ctx : Nat := 0
  ring : Nat := 0
  words : List Word := []
  unmet : Nat := 0
  inherited : Nat := 0
  phase : NodePhase := .waiting
  /-- order of readiness in its list (R360) -/
  order : Nat := 0
  /-- the status to complete with, once its work is over -/
  finish : Option Nat := none
  /-- released by a TIMED LAUNCH record (R384) -/
  released : Bool := false
  grid : Nat := 0
  /-- a member of a bundle: handed to the scheduler by it, and accepted by the scheduler (R354) -/
  handed : Bool := false
  accepted : Bool := false
  /-- a LAUNCH: its group table as it stood when the node became ready, each entry's members where they can be read (R413) -/
  groups : List (Option (List Nat)) := []
  /-- a bundle: its members that have completed, and the worst of their statuses -/
  ended : List Word := []
  worst : Nat := 0
  /-- key runs: of a parent's sort, or that a continuation was given (R359) -/
  nrun : Option Nat := none
  /-- event records of its transitive predecessors, by number, that may not have been performed (R356) -/
  past : List Nat := []
  deriving DecidableEq, Repr

/-- A decrement kept for a NODEID that is not in the table yet (R347). -/
structure Credit where
  ctx : Nat
  nodeid : Word
  status : Nat
  nrun : Option Nat := none
  /-- the completion of a bundle member whose bundle has not been consumed -/
  member : Bool := false
  past : List Nat := []
  deriving DecidableEq, Repr

/-- A fault record without its sequence number and time (R400). -/
structure FaultRec where
  kind : Nat
  scope : Nat
  ctx : Nat := 0xFFF
  grid : Word := 0
  node : Word := 0
  ukind : Nat := 0
  unit : Nat := 0
  detail : List Word := []
  deriving DecidableEq, Repr

/-- A record that an engine has written and that is not performed yet (R354, R356, R388, R402). Engine 0 is the front end,
1 Equinox, 2 the leaf controllers and 3 Hazel. It holds the words written first, by virtual and physical address, and for a
SIGNAL its value and the message that it sends in the end; or it is a fault record, for the context's queue or the host's. -/
structure EvRecord where
  id : Nat
  engine : Nat := 0
  ctx : Nat
  words : List (Nat × Nat × Word) := []
  fault : Option FaultRec := none
  host : Bool := false
  msix : Option Nat := none
  va : Nat := 0
  pa : Nat := 0
  add : Bool := false
  value : BitVec 64 := 0
  /-- the writes made: the words, the value, the old value -/
  stage : Nat := 0
  old : BitVec 64 := 0
  deriving DecidableEq, Repr

/-- The kinds of message on a cluster's command link (R361). -/
inductive LinkKind where
  | place
  | placed
  | refused
  | retired
  | save
  | restore
  | saved
  | fault
  deriving DecidableEq, Repr
/-- A message on a command link, oldest first in each direction: its gang, the save-image address of a SAVE or
RESTORE, the fault record index of a SAVED or FAULT; whether it has been sent, or waits for a permit; the permits that it
returns; and the windows, slots and segments that the gang of a SAVED or RETIRED has given back, which the scheduler counts as
taken until it receives it (R363). -/
structure LinkMsg where
  cluster : Nat
  kind : LinkKind
  gang : Nat
  image : Nat := 0
  record : Word := 0
  sent : Bool := false
  pret : BitVec 4 := 0
  places : List Warp := []
  segs : List Nat := []
  deriving DecidableEq, Repr

/-- A finalised image in the translation cache (R88): its source records, where it lies in the front end's
own memory, and what a launch takes from it. -/
structure CachedImage where
  place : Nat
  source : List Nat
  npkt : Nat
  entry : Nat
  size : Nat
  metas : List (Nat × Nat) := []
  deriving DecidableEq, Repr

/-- A timed record in Equinox (R383 to R388). -/
structure TimedRec where
  node : Nat
  target : Nat
  action : Nat
  time : BitVec 64
  grace : Nat
  order : Nat
  go : Bool := false
  acted : Bool := false
  late : Bool := false
  holdover : Bool := false
  lost : Bool := false
  straggler : Bool := false
  /-- the record whose PREEMPT or RESUME started the switch, which counts its gangs (R384) -/
  starts : Bool := false
  achieved : BitVec 64 := 0
  count : Nat := 0
  done : Option Nat := none
  deriving DecidableEq, Repr

/-- The clock states (R382). -/
inductive ClockState where
  | locked
  | holdover
  | lost
  deriving DecidableEq, Repr

/-! ## Token coherence (R226 to R257) -/

/-- The token state of a line at a holder (R228). -/
structure Tok where
  valid : Bool := false
  dirty : Bool := false
  owner : Bool := false
  tok : Nat := 0
  deriving DecidableEq, Repr

/-- What a cluster cache or L2 slice keeps with a line to choose its victims (R208, R216, R217): the retention
class, and its place in the order of use. -/
structure Retention where
  cls : BitVec 2 := 1
  used : Nat := 0
  deriving DecidableEq, Repr

/-- A coherence message in flight: the fields of its header that say something, the bytes of a DATAB, and the holder that
a pool forwards a cluster's answer to (R231, R236). `rd`, `rec_`, `ddie` and `toHome` are the model's: the header has no
field by which a PREQ or PACT carries what the entry of R239 holds. DESIGN CHOICE (log 35). -/
structure CohMsg where
  type : Nat
  line : Nat
  src : Nat
  dst : Nat
  req : Nat := 0
  tok : Nat := 0
  owner : Bool := false
  dirty : Bool := false
  ctx : Nat := 0xFFF
  /-- the read kind of a PREQ or PACT, its recovery mark, and a PACT's active entry die -/
  rd : Bool := false
  rec_ : Bool := false
  ddie : Nat := 0
  toHome : Bool := false
  data : List Byte := []
  fwd : Option Nat := none
  /-- the age of its head at a router output: 64 once it is urgent (R220, R433) -/
  age : BitVec 7 := 0
  deriving DecidableEq, Repr

/-- An outstanding request: of a cluster to its pool, or a transient one of a pool or home (R235, R238). -/
structure CohReq where
  holder : Nat
  req : Nat
  line : Nat
  /-- the cluster whose access it is, if one; whether a pool answers that cluster's cache; and whether a cluster's request
  has reached its pool -/
  cl : Option Nat := none
  relayed : Bool := false
  asked : Bool := false
  /-- the line as a DATAB brought it, for one access (R245) -/
  data : List Byte := []
  write : Bool := false
  bypass : Bool := false
  tries : Nat := 0
  persistent : Bool := false
  ctx : Nat := 0xFFF
  /-- the retention hint of the access (R217), and its order among the accesses -/
  hint : BitVec 2 := 1
  stamp : Nat := 0
  deriving DecidableEq, Repr

/-- What the host or a peer asks of the homes (R249, R451, R453): a write, and whether it is acknowledged; a read; an
atomic with its function, operand and swap value. -/
inductive IngressOp where
  | write (ack : Bool)
  | read
  | atomic (fn operand swap : Nat)
  deriving DecidableEq, Repr
/-- Such a request waiting at the homes: who makes it, the address and bytes that are left (of a read, as many of any
value), and the bytes read so far. -/
structure Ingress where
  agent : Nat
  op : IngressOp
  pa : Nat
  bytes : List Byte
  got : List Byte := []
  deriving DecidableEq, Repr

/-- An entry of a stack's persistent-request table (R239). -/
structure PReq where
  act : Bool := false
  rd : Bool := false
  ddie : Nat := 0
  rec_ : Bool := false
  line : Nat := 0
  /-- its tokens go to the home of that die, which asks for its own writes (R249, R257) -/
  toHome : Bool := false
  /-- the context of the access that caused it (R231) -/
  ctx : Nat := 0xFFF
  deriving DecidableEq, Repr

/-- What an arbiter has under way for a line: the requester, whether it has been served, whether its entry is
being cleared, and the PACKs that have arrived (R241). -/
structure Arbiter where
  line : Nat
  req : Nat
  clearing : Bool := false
  done : Bool := false
  acks : Nat := 0
  deriving DecidableEq, Repr

/-! ## The management space and the module (R443 to R459) -/

/-- A peer-table entry (R453); state 0 ABSENT, 1 UP, 2 DOWN. -/
structure Peer where
  mac : BitVec 48 := 0
  ports : BitVec 8 := 0
  state : BitVec 2 := 0
  deriving DecidableEq, Repr

/-- A location of a level: its die, its unit and LOC (R424). -/
structure ErrPlace where
  die : Nat
  level : Nat
  ukind : Nat
  unit : Nat
  loc : Nat
  deriving DecidableEq, Repr

/-- An error-log entry (R424), with its window start (R437) and the HSEC of its latest error (R425). -/
structure ErrEntry where
  die : Nat
  level : Nat
  ukind : Nat
  unit : Nat
  loc : BitVec 64
  ue : Bool := false
  lasting : Bool := false
  retired : Bool := false
  scrub : Bool := false
  wcnt : Nat := 0
  first : BitVec 64 := 0
  last : BitVec 64 := 0
  window : Nat := 0
  hsec : Nat := 0
  deriving DecidableEq, Repr

/-- An SRAM voltage domain: steps below nominal, the HSEC of its latest crossing since it was last lowered, and the level whose scrub
rate was raised for it (R439). -/
structure Domain where
  steps : Nat := 0
  crossed : Option Nat := none
  raised : Bool := false
  deriving DecidableEq, Repr

/-- The device-wide registers of R445, R446 and R448, each at its reset value. -/
structure Dev where
  fwState : BitVec 2 := 0
  fwReason : BitVec 8 := 0
  fwVersion : BitVec 16 := 0
  pwrlim : Word := 4800
  hostcap : Word := 0
  hperiod : Word := 3600
  hnonce : BitVec 64 := 0
  hq : Queue := {}
  hfq : Queue := {}
  b2win : BitVec 64 := 0
  ptpctl : Word := 0
  ptpofs : Word := 0
  clock : ClockState := .lost
  hsec : Word := 0
  vecperf : Word := 0
  vecfab : Word := 0
  ldrlen : Word := 0
  loader : Memory := []
  scrubctl : Vector Word 7 := #v[0x8000000A, 0x8000000A, 0x8000000A, 0x8000003C, 0x8000012C, 0x80000E10, 0x80000E10]
  winctl : Vector Word 7 :=
    #v[0x03000E10, 0x03000E10, 0x03000E10, 0x02015180, 0x02015180, 0x04015180, 0x04015180]
  toktime : Vector Word 4 := Vector.replicate 4 0x13E80400
  vsctx : SMap Word := []
  retx : SMap Word := []
  logovf : SMap Word := []
  /-- sync intervals in a row within and outside ±40 ns (R382) -/
  syncGood : Nat := 0
  syncBad : Nat := 0
  /-- the step to the master has been taken since LOST was entered (R382) -/
  stepped : Bool := false
  /-- the low word of a 64-bit register whose high word has not been written, by offset (R444) -/
  lowWord : SMap Word := []
  /-- core clock in MHz (R31), and whether the module has tripped off (R458) -/
  mhz : Nat := 2000
  off : Bool := false
  /-- health records asked for, with their causes, and the number of the last one (R455) -/
  healthAsk : List Nat := []
  healthSeq : BitVec 64 := 0
  askNonce : BitVec 64 := 0
  /-- retired locations by suspect-map entry (R438), and the HSEC and DTB at which a page was last quarantined (R411) -/
  nret : SMap Nat := []
  quarTimes : SMap Nat := []
  quarDtb : SMap (BitVec 64) := []
  /-- the address for which a page is in quarantine, and where the token field was that a line is recovered for (R406, R411) -/
  quarAt : SMap Nat := []
  lostAt : SMap ErrPlace := []
  /-- SCRUBCTL of a level whose rate the firmware has raised, as it was (R225) -/
  scrubSaved : SMap Word := []
  /-- retransmissions of one frame in a row by fabric port, and the ports whose link is down (R452) -/
  retxRow : SMap Nat := []
  portsDown : List Nat := []
  /-- the bytes of the running firmware image, where the driver loaded it (R448, R455) -/
  fwImage : List Byte := []
  /-- SRAM voltage domains: clusters 0 to 191, then the L2 of each die (R439) -/
  domains : SMap Domain := []
  /-- context numbers in the headers that each link sent lately, with the DTB at each sending (R410) -/
  blame : SMap (List (Nat × BitVec 64)) := []
  /-- data of the completions returned to the host and to peers: what the outside last read -/
  replies : List Byte := []
  /-- MSI-X vectors sent, oldest first (R449) -/
  msix : List Nat := []
  deriving DecidableEq, Repr

/-! ## The whole state -/

/-- The state of the machine. `warp` is the warp in the focus, whose groups issue; `others` are the
other resident warps. `snap` is the copy of its registers that the words of the current group read
(R68). The fields `fresh`, `agenda`, `ev`, `round`, `idle`,
`snap` and `grp` are the model's own (logs 2, 5). -/
structure State where
  warp : Warp := {}
  others : List Warp := []
  snap : Regs := {}
  grp : Grp := {}
  agenda : List Turn := []
  ev : EvArgs := {}
  fresh : Nat := 0
  /-- the place in a pass over the device's own pending steps, and the groups issued since the last (log 2) -/
  round : Nat := 0
  idle : Nat := 0
  /-- physical memory, and the SRAM bytes of the clusters at cluster × 8 MiB + offset -/
  mem : Memory := []
  sram : Memory := []
  /-- B-store words at ((core × 128 + slice) × 16,384 + word) -/
  bstore : SMap Word := []
  cores : SMap Core := []
  clusters : SMap Cluster := []
  ctxs : SMap Ctx := []
  grids : SMap Grid := []
  gangs : SMap Gang := []
  /-- the device time base in nanoseconds (R382) -/
  dtb : BitVec 64 := 0
  /-- physical pages out of use, with whether the scrubber has cleaned them (R411) -/
  quarantine : SMap Bool := []
  versions : List Version := []
  votes : List Vote := []
  nodes : SMap Node := []
  credits : List Credit := []
  /-- event records not performed yet, in the order of their nodes' completions, and the number of the next -/
  records : List EvRecord := []
  nextRecord : Nat := 1
  nextNode : Nat := 1
  /-- grids that have ended, by context and GRIDID (R347) -/
  endedGrids : List (Nat × Word) := []
  msgs : List LinkMsg := []
  /-- the cluster that last accepted a gang of each level, and the cluster reserved for a head gang (R363) -/
  lastCluster : SMap Nat := []
  reserved : SMap Nat := []
  readyCount : Nat := 0
  lastRing : Nat := 0
  images : List CachedImage := []
  nextImage : Nat := 0
  timed : List TimedRec := []
  toks : SMap Tok := []
  /-- the retention of the lines that clusters, pools and L3 slices have allocated, by line × 256 + holder (R216, R217,
  R222) -/
  retention : SMap Retention := []
  /-- the memory copies of lines whose newest data is not in memory (R228, R257) -/
  memCopy : SMap (List Byte) := []
  /-- requests from outside that have not been performed at their homes, oldest first (R249) -/
  ingress : List Ingress := []
  cohMsgs : List CohMsg := []
  cohReqs : List CohReq := []
  /-- entry `r` of stack `s` at 256 × s + r -/
  preqs : SMap PReq := []
  arbiters : List Arbiter := []
  /-- lines whose recovery has not been entered yet (R257) -/
  recoveries : List Nat := []
  peers : SMap Peer := []
  errors : List ErrEntry := []
  /-- what retirement took out of use, by level and place: pool core × 4,096 + entry, B-store core, SRAM
  cluster × 32 + segment, L2 and L3 line × 4 + die, memory physical page (R438) -/
  retiredUnits : List (Nat × Nat) := []
  l2pmc : SMap (BitVec 48) := []
  l2pmcsel : SMap Word := []
  dev : Dev := {}
  nextEntry : Nat := 1
  nextPresent : Nat := 1
  nextUid : Nat := 1
  nextGrid : Nat := 1
  nextGang : Nat := 1
  deriving DecidableEq, Repr

/-- The machine right after reset (R1, R457): every field at its default. DESIGN CHOICE (log 4). -/
def State.reset : State := {}

end Sys2Proof.Machine
end

