-- ==== Sys2Proof/Machine/Lookup.lean ====
section
/-! DEFINITION. The parts of the state by number and the named updates of them. -/

namespace Sys2Proof.Machine

/-! ## Updates -/

/-- The warp in the focus changed. -/
def State.onWarp (s : State) (f : Warp → Warp) : State := { s with warp := f s.warp }
/-- The live registers of the warp in the focus changed. -/
def State.onRegs (s : State) (f : Regs → Regs) : State :=
  { s with warp := { s.warp with regs := f s.warp.regs } }
/-- The counters changed. -/
def State.onCnt (s : State) (f : Counters → Counters) : State :=
  s.onRegs fun r => { r with cnt := f r.cnt }

/-- A warp of a core of which another group has issued or been replayed: none of its own has been, in a row (R433). -/
def Warp.unreplayed (core : BitVec 10) (w : Warp) : Warp := if w.regs.coreid = core then { w with replays := 0 } else w

/-! ## Free values (R2, R3) -/

/-- The next free word. -/
def State.freeWord (s : State) : Word := Config.freeWord s.fresh
/-- The state after `n` free values have been taken. -/
def State.tick (s : State) (n : Nat := 1) : State := { s with fresh := s.fresh + n }
/-- Whether a timed record waits for its T, or for its GO where it is not LATE (R383). -/
def TimedRec.awaits (r : TimedRec) : Bool := !r.acted && r.done.isNone && !r.late
/-- A count of the DTB, or the last that it may reach before it: in LOCKED, 50 ns after the T of a record that waits (R383). -/
def State.dtbLimit (s : State) (t : Nat) : Nat :=
  if s.dev.clock ≠ .locked then t
  else s.timed.foldl (fun t r => if r.awaits then min t (max s.dtb.toNat (r.time.toNat + 50)) else t) t

/-! ## Entries of the window (R54, R94) -/

/-- The uninitialised marker of a pool entry, in every lane (R54, R94). -/
def markerLanes (n : Nat) : Lanes := Vector.replicate 32 (0x7FB00000 ||| BitVec.ofNat 32 n)
/-- A pool entry of the window. -/
def Regs.entry (r : Regs) (n : Nat) : Lanes := SMap.get r.win n (markerLanes n)
/-- The words of a tile in the order of its entries and lanes. -/
def Regs.tileWords (r : Regs) (base : Nat) : List Word := (List.range 512).flatMap fun k => (r.entry (base + k)).toList

/-! ## The parts of the device by number -/

/-- A context by number. -/
def State.ctx (s : State) (c : Nat) : Ctx := SMap.get s.ctxs c {}
/-- A context changed. -/
def State.onCtx (s : State) (c : Nat) (f : Ctx → Ctx) : State := { s with ctxs := SMap.upd s.ctxs c {} f }
/-- A grid by number, and the grid of the warp. -/
def State.grid (s : State) (g : Nat) : Grid := SMap.get s.grids g {}
def State.onGrid (s : State) (g : Nat) (f : Grid → Grid) : State := { s with grids := SMap.upd s.grids g {} f }
/-- A gang by handle. -/
def State.gang (s : State) (g : Nat) : Gang := SMap.get s.gangs g {}
def State.onGang (s : State) (g : Nat) (f : Gang → Gang) : State := { s with gangs := SMap.upd s.gangs g {} f }
/-- A core and a cluster by number. -/
def State.core (s : State) (c : Nat) : Core := SMap.get s.cores c {}
def State.onCore (s : State) (c : Nat) (f : Core → Core) : State := { s with cores := SMap.upd s.cores c {} f }
def State.cluster (s : State) (c : Nat) : Cluster := SMap.get s.clusters c {}
def State.onCluster (s : State) (c : Nat) (f : Cluster → Cluster) : State :=
  { s with clusters := SMap.upd s.clusters c {} f }

/-- A segment of a cluster, and a segment changed. -/
def State.segment (s : State) (cl seg : Nat) : Segment := SMap.get (s.cluster cl).segs seg {}
def State.onSegment (s : State) (cl seg : Nat) (f : Segment → Segment) : State :=
  s.onCluster cl fun c => { c with segs := SMap.upd c.segs seg {} f }
/-- A node of the pending-node table by its handle. -/
def State.node (s : State) (n : Nat) : Node := SMap.get s.nodes n {}
def State.onNode (s : State) (n : Nat) (f : Node → Node) : State :=
  { s with nodes := match SMap.find s.nodes n with
      | some x => SMap.put s.nodes n (f x)
      | none => s.nodes }
/-- The device-wide registers changed. -/
def State.onDev (s : State) (f : Dev → Dev) : State := { s with dev := f s.dev }

/-- The active banks that the warp's words bind: of the context, or in a checked run those of the
generation its span keeps (R420). -/
def State.banks (s : State) : BitVec 9 :=
  if s.warp.regs.chkrole = 0 then (s.ctx s.warp.ctx).bank else s.warp.span.bank

/-! ## Every warp, resident or saved -/

/-- `f` over every resident warp and every warp of a saved image. -/
def State.mapWarps (s : State) (f : Warp → Warp) : State :=
  { s with warp := f s.warp, others := s.others.map f
           gangs := s.gangs.map fun g => (g.1, { g.2 with image := g.2.image.map f }) }
/-- The warps in any of these places. -/
def State.warps (s : State) : List Warp := s.warp :: s.others
def State.allWarps (s : State) : List Warp := s.warps ++ s.gangs.flatMap fun g => g.2.image
/-- A warp by its identifier. -/
def State.warpOf (s : State) (uid : Nat) : Option Warp := s.allWarps.find? fun w => w.uid == uid
/-- The warp with an identifier changed. -/
def State.onUid (s : State) (uid : Nat) (f : Warp → Warp) : State :=
  s.mapWarps fun w => if w.uid = uid ∧ w.park ≠ .vacant then f w else w

/-- Whether every event of an outstanding operation has been performed; a fence and a WBACK have none (R260). -/
def Access.over (a : Access) : Bool := a.lanes.isEmpty || a.kind == .wback

/-- A wake: a held warp only records it (R370, R375). -/
def Warp.wake (w : Warp) : Warp := if w.held then { w with pend := true } else { w with park := .ready }
/-- Whether a warp is parked at a blocking point (R368). -/
def Park.blocking : Park → Bool
  | .vacant | .ready | .exiting | .exited | .unstarted => false
  | _ => true
/-- A warp at a blocking point held for a switch (R370). -/
def Warp.holdParked (w : Warp) : Warp := if w.park.blocking then { w with held := true } else w
/-- A warp that parks while a switch is pending for its context, or its gang is being moved, is held; a shadow
or tiebreak runs to its span end (R370, R339). -/
def State.holdWarp (s : State) (w : Warp) : Warp :=
  if w.regs.chkrole.toNat < 2 ∧ ((s.ctx w.ctx).switchPending ∨ (s.gang w.gang).moved) then w.holdParked else w
/-- The warp in the focus held, if it has parked so. -/
def State.holdFocus (s : State) : State := { s with warp := s.holdWarp s.warp }
/-- The address that a latched trap reports, in two words: what else its detail says stands beside it (R297, R334, R426). -/
def Latch.address (l : Latch) : List Word :=
  [l.info0, if l.cause = 34 ∨ l.cause = 35 then 0 else if l.cause = 45 then l.info1 &&& 0xFFFFF else l.info1]
/-- A latched trap; a warp holds at most one (R391). A WAITC that the warp is parked at raises it (R431). -/
def Warp.latchTrap (w : Warp) (cause : Nat) (i0 i1 : Word) : Warp :=
  let w := { w with latch := w.latch.or (some ⟨cause, i0, i1⟩) }
  match w.park with
  | .far [] none | .held => w.wake
  | _ => w
/-- A warp as no more than the slot and window that it holds. -/
def Warp.placeOnly (w : Warp) : Warp :=
  { ctx := w.ctx, grid := w.grid, gang := w.gang, slot := w.slot, window := w.window, park := .unstarted
    regs := { vcount := w.regs.vcount, coreid := w.regs.coreid } }
/-- A trap that the warp takes when it next runs. -/
def Warp.wakeWithTrap (w : Warp) (cause : Nat) (i0 i1 : Word) (pc : Pc) : Warp :=
  { w.wake with pendTrap := some (cause, i0, i1, pc) }

/-- Die of a cluster, and cluster of a core (R20). -/
def dieOfCluster (cl : Nat) : Nat := cl / 48
def clusterOfCore (c : Nat) : Nat := c / 4
/-- The cluster and die of the warp in the focus. -/
def Warp.cluster (w : Warp) : Nat := clusterOfCore w.regs.coreid.toNat
def Warp.die (w : Warp) : Nat := dieOfCluster w.cluster

/-- An MSI-X message sent (R449). -/
def State.sendMsix (s : State) (v : Nat) : State := s.onDev fun d => { d with msix := d.msix ++ [v] }

end Sys2Proof.Machine
end

