-- ==== Sys2Proof/Machine/Translate.lean ====
section
/-! DEFINITION. Address windows (R202, R203), translation (R221, R415 to R417), peer scratch (R204) and
private memory (R206): where the bytes of an access are. -/

namespace Sys2Proof.Machine

/-! ## Windows (R202) -/

/-- The windows of R202 with the offset in them. -/
inductive Win where
  | glob
  | own (o : Nat)
  | peer (g o : Nat)
  | priv (p : Nat)
  | none
  deriving DecidableEq, Repr

def ownBase : Nat := 0x000F000000000000
def peerBase : Nat := 0x000F100000000000
def privBaseVa : Nat := 0x000F800000000000
/-- 8 MiB: the SRAM of a cluster; 256 KiB: one segment. -/
def sramSize : Nat := 2 ^ 23
def segSize : Nat := 2 ^ 18

/-- The window of one address. -/
def windowOf (va : Nat) : Win :=
  if va < ownBase then .glob
  else if va < ownBase + sramSize then .own (va - ownBase)
  else if peerBase ≤ va ∧ va < peerBase + 192 * sramSize then
    .peer ((va - peerBase) / sramSize) ((va - peerBase) % sramSize)
  else if privBaseVa ≤ va ∧ va < privBaseVa + 2 ^ 32 then .priv (va - privBaseVa)
  else .none

/-- The number of a window, to tell whether an access stays in one. -/
def Win.kind : Win → Nat
  | .glob => 0
  | .own _ => 1
  | .peer _ _ => 2
  | .priv _ => 3
  | .none => 4
/-- Whether `n` bytes from `va` lie in one window (R202). -/
def inOneWindow (va n : Nat) : Bool :=
  decide (va + n ≤ 2 ^ 64) && (windowOf va).kind != 4 && (windowOf va).kind == (windowOf (va + n - 1)).kind

/-! ## Page tables (R415) -/

/-- What a translation gives. -/
inductive Xlate where
  | phys (a : Nat)
  /-- a fault that cannot be recovered; `perm` where a present page lacks the permission (R280) -/
  | fail (perm : Bool)
  | recoverable
  deriving DecidableEq, Repr

/-- The accesses that a translation is for. -/
inductive Want where
  | read
  | write
  | fetch
  deriving DecidableEq, Repr

/-- Whether a physical address exists (R221), in HBM4, DDR-5, host or peer memory. -/
def physExists (a : Nat) : Bool :=
  decide (a < 2 ^ 42) || (decide (2 ^ 44 ≤ a) && decide (a < 2 ^ 45)) || (decide (2 ^ 51 ≤ a) && decide (a < 2 ^ 51 + 2 ^ 51))
/-- Host memory, peer memory, and every far range (R221). -/
def isHost (a : Nat) : Bool := decide (2 ^ 44 ≤ a) && decide (a < 2 ^ 45)
def isPeer (a : Nat) : Bool := decide (2 ^ 51 ≤ a) && decide (a < 2 ^ 52)
def isFar (a : Nat) : Bool := decide (2 ^ 40 ≤ a) && decide (a < 2 ^ 52)
/-- Where the finalised images of the translation cache are kept, beyond every physical address: image `n`
has 2³⁴ bytes (R88). -/
def imagePlace (n : Nat) : Nat := 2 ^ 53 + n * 2 ^ 34

/-- The permission bit of an entry for an access. -/
def permits (e : Nat) : Want → Bool
  | .read => e.testBit 1
  | .write => e.testBit 2
  | .fetch => e.testBit 3

/-- Entry `i` of the table at a physical address. -/
def pte (m : Memory) (table i : Nat) : Nat := wordOfBytes (m.readBytes (table + 8 * i) 8)

/-- The entries that a leaf's page is written as, at a level that allows its size (R415). -/
def runOf (level e : Nat) : Option Nat :=
  match level, fld e 10 2 with
  | 0, 0 => some 1
  | 0, 1 => some 16
  | 0, 2 => some 512
  | 1, 3 => some 256
  | _, _ => none
/-- The bytes that one entry of a level stands for. -/
def entryBytes (level : Nat) : Nat := 4096 * 1024 ^ level
/-- Whether a reserved bit of an entry is set, or it is a leaf where none of its size may stand (R415). -/
def entryBad (level e : Nat) : Bool := fld e 52 11 != 0 || fld e 5 5 != 0 || (e.testBit 4 && (runOf level e).isNone)
/-- The entries of a run that are not 0. -/
def runEntries (m : Memory) (table first run : Nat) : List Nat :=
  ((m.filterMap fun c =>
    if table + 8 * first ≤ c.1 ∧ c.1 < table + 8 * (first + run) then some ((c.1 - table) / 8) else none).eraseReps).map (pte m table)
/-- Where a valid leaf claims a run around entry `i` and the entries of the run disagree: those entries (R415). -/
def clashes (m : Memory) (level table i : Nat) : List Nat :=
  (if level = 0 then [16, 512] else if level = 1 then [256] else []).flatMap fun run =>
    let es := runEntries m table (i - i % run) run
    if es.any (fun e => e.testBit 0 && e.testBit 4 && runOf level e == some run) && !(es.length == run && es.all fun e => e == es.headD 0)
    then es else []

/-- What a valid leaf entry gives. Where PA is not aligned to the page, software has broken R415: by a free choice the
translation fails, or the page lies where PA says. DESIGN CHOICE (log 14). -/
def leafAt (q : SMap Bool) (level e va free : Nat) (want : Want) : Xlate :=
  let size := (runOf level e).getD 1 * entryBytes level
  let pa := fld e 12 40 * 4096
  let a := pa + va % size
  if pa % size ≠ 0 ∧ free % 2 = 1 then .fail false
  else if !physExists a || (SMap.find q (a / 4096)).isSome then .fail false
  else if permits e want then .phys a else .fail true
/-- What an address of a run gives whose entries disagree: undefined for the context (R3, R415), so by a free choice it
fails, or is in the page that one of the entries maps. DESIGN CHOICE (log 14). -/
def clashAt (q : SMap Bool) (level : Nat) (es : List Nat) (va free : Nat) (want : Want) : Xlate :=
  match es[free % (es.length + 1)]? with
  | some e =>
    if e.testBit 0 && e.testBit 4 && !entryBad level e then leafAt q level e va (free / (es.length + 1)) want else .fail false
  | none => .fail false

/-- The walk from a table at `level` (R415). Tables have 1,024 entries of 8 bytes (log 8); `free` chooses where the
translation is undefined. -/
def walk (m : Memory) (q : SMap Bool) (va free : Nat) (want : Want) : Nat → Nat → Xlate
  | level, table =>
    let i := fld va (12 + 10 * level) 10
    let e := pte m table i
    if entryBad level e then .fail false
    else match clashes m level table i with
      | c :: cs => clashAt q level (c :: cs) va free want
      | [] =>
        if !e.testBit 0 then (if e.testBit 63 then .recoverable else .fail false)
        else if e.testBit 4 then leafAt q level e va free want
        else if fld e 10 2 ≠ 0 then .fail false
        else match level with
          | 0 => .fail false
          | n + 1 => walk m q va free want n (fld e 12 40 * 4096)

/-- The translation of a global address by the tables of a context as memory now holds them. -/
def State.walkCtx (s : State) (c : Ctx) (va : Nat) (want : Want) : Xlate :=
  if c.ptroot.getLsbD 0 then walk s.mem s.quarantine va (Config.freeChoice (s.fresh + 1)) want 3 (fld c.ptroot.toNat 12 40 * 4096)
  else .fail false

/-- The address that a TLB's entry gives, for an address in its page (R417). -/
def TlbEntry.gives (e : TlbEntry) (va : Nat) : Option Nat :=
  if e.vpage ≤ va / 4096 ∧ va / 4096 < e.vpage + e.pages then some ((e.ppage + va / 4096 - e.vpage) * 4096 + va % 4096) else none
def TlbEntry.allows (e : TlbEntry) : Want → Bool
  | .read => e.r
  | .write => e.w
  | .fetch => e.x
/-- The translations that a TLB may still give (R417). -/
def Ctx.tlbFor (c : Ctx) (va : Nat) (want : Want) : List Nat :=
  c.tlb.filterMap fun e => if e.allows want then e.gives va else none

/-- Peer memory is reached only where the peer is UP (R453). -/
def State.reachable (s : State) : Xlate → Xlate
  | .phys a =>
    if isPeer a ∧ (SMap.get s.peers ((a - 2 ^ 51) / 2 ^ 42) {}).state ≠ 1 then .fail false else .phys a
  | x => x

/-- The offset of an address in the context's code window (R89). -/
def Ctx.codeOffset (c : Ctx) (va : Nat) : Option Nat :=
  let w := c.codewin.toNat
  if w ≠ 0 ∧ w ≤ va ∧ va < w + 2 ^ 36 then some (va - w) else none
/-- The translation of an offset in the code window by the image map: reads and fetches of a mapped run; a
store fails as one without permission (R89). -/
def Ctx.codeXlate (c : Ctx) (sizes : List (Nat × Nat)) (o : Nat) (want : Want) : Xlate :=
  if want = .write then .fail true
  else match c.codeRuns.find? fun r => decide (r.1 ≤ o) && decide (o < r.1 + (((sizes.find? fun q => q.1 == r.2).map (·.2)).getD 0 + 4095) / 4096 * 4096) with
    | some r => .phys (r.2 + (o - r.1))
    | none => .fail false

/-- The translation of an access: by the tables, or while old translations may still be held, by one of them or
by the tables, unpredictably (R417). DEDUCED (log 14). -/
def State.translate (s : State) (ctx va : Nat) (want : Want) : Xlate :=
  let c := s.ctx ctx
  match c.codeOffset va with
  | some o => c.codeXlate (s.images.map fun m => (m.place, m.size)) o want
  | none =>
    let new := s.walkCtx c va want
    let old := (c.tlbFor va want).filter fun a => decide (new ≠ .phys a)
    match old[Config.freeChoice s.fresh % (old.length + 1)]? with
    | some a => s.reachable (.phys a)
    | none => s.reachable new

/-- The virtual pages of 4 KiB that bytes lie in. -/
def pagesOf (va n : Nat) : List Nat := (List.range ((va + n - 1) / 4096 - va / 4096 + 1)).map (va / 4096 + ·)
/-- The pages of the stable ranges that a launch declares, with where they lie then (R334, R417). -/
def State.pinsOf (s : State) (ctx : Nat) (ranges : List (Nat × Nat)) : SMap Nat :=
  (ranges.flatMap fun q => if q.2 = 0 then [] else pagesOf q.1 q.2).foldl (fun m v =>
    match s.walkCtx (s.ctx ctx) (v * 4096) .read with
    | .phys a => SMap.put m v a
    | _ => m) []
/-- The running grid and the number of its stable range that hold bytes of physical memory, by whatever address they are
reached: the ranges lie where they lay at launch (R334, R417). -/
def State.stablePhys (s : State) (pa n : Nat) : Option (Nat × Nat) :=
  s.grids.findSome? fun g =>
    if g.2.ended ∨ g.2.lost then none
    else
      let page (q : Nat × Nat) (v : Nat) : Bool :=
        let base := v * 4096
        let lo := max q.1 base
        let hi := min (q.1 + q.2) (base + 4096)
        match SMap.find g.2.pinned v with
        | some a => decide (a + (lo - base) < pa + n) && decide (pa < a + (hi - base))
        | none => false
      (g.2.stable.findIdx? fun q => q.2 != 0 && (pagesOf q.1 q.2).any (page q)).map fun i => (g.1, i)
/-- The number of the stable range that a write of a context meets, by its address or by its place, the grid's own ranges
first (R334). -/
def State.stableOf (s : State) (ctx grid va n : Nat) (pa : Option Nat) : Option Nat :=
  let running := s.grids.filter fun g => g.2.ctx == ctx && !g.2.ended && !g.2.lost && g.1 != grid
  (((s.grid grid).stable :: running.map fun g => g.2.stable).findSome? fun rs =>
    rs.findIdx? fun q => decide (q.2 ≠ 0) && decide (va < q.1 + q.2) && decide (q.1 < va + n)).or
  (pa.bind fun a => (s.stablePhys a n).map (·.2))

/-- The entry that the tables lead to for an address, and the pages of 4 KiB that a TLB may keep of it: one page where
the entries of a run disagree (R415, R417). -/
def leafOf (m : Memory) (va : Nat) : Nat → Nat → Nat × Nat
  | level, table =>
    let i := fld va (12 + 10 * level) 10
    let e := pte m table i
    if ¬ (clashes m level table i).isEmpty then (e, 1)
    else if e.testBit 4 then (e, (runOf level e).getD 1 * 1024 ^ level)
    else match level with
      | 0 => (e, 1)
      | n + 1 => leafOf m va n (fld e 12 40 * 4096)
/-- A translation that an access has used, kept beside those that a TLB may hold already (R417). -/
def Ctx.noteTlb (c : Ctx) (m : Memory) (va phys : Nat) (want : Want) : Ctx :=
  match c.tlb.find? fun e => e.allows want && e.gives va == some phys with
  | some _ => c
  | none =>
    let (e, n) := leafOf m va 3 (fld c.ptroot.toNat 12 40 * 4096)
    let within := va / 4096 % n
    { c with tlb := { vpage := va / 4096 - within, ppage := phys / 4096 - within, pages := n
                      r := e.testBit 1 || want == .read, w := e.testBit 2 || want == .write, x := e.testBit 3 || want == .fetch } :: c.tlb }
/-- The same for an access of a context. -/
def State.noteXlate (s : State) (ctx va phys : Nat) (want : Want) : State := s.onCtx ctx fun c => c.noteTlb s.mem va phys want

/-! ## Scratch (R203, R204) -/

/-- The SRAM byte of an offset in a segment. -/
def sramAddr (cl seg off : Nat) : Nat := cl * sramSize + seg * segSize + off

/-- Where an own-scratch offset of a gang leads: its cluster and physical segment, if claimed. -/
def Gang.segOf (g : Gang) (o : Nat) : Option Nat := g.segs[o / segSize]?

/-- What a peer-scratch address leads to (R204). -/
inductive PeerTarget where
  | sram (a : Nat)
  | fifo (cl seg : Nat)
  /-- a gang that is not running: the offset in its scratch, and whether that is in a FIFO segment -/
  | saved (gang off : Nat) (fifo : Bool)
  | refused
  deriving DecidableEq, Repr

/-- The mode of a gang's logical segment, where the gang runs or as it was saved. -/
def State.logicalMode (s : State) (g : Gang) (j : Nat) : SegMode :=
  match g.imageSegs[j]? with
  | some x => x.mode
  | none => match g.segs[j]? with
    | some seg => (s.segment g.cluster seg).mode
    | none => .cache
/-- The gang of a context that first held a segment of a cluster, with its logical number of it. Where two of its gangs
held the pair first, the one with the lower handle is taken. DESIGN CHOICE (log 43). -/
def State.firstHolder (s : State) (ctx cl seg : Nat) : Option (Nat × Gang × Nat) :=
  s.gangs.findSome? fun p =>
    let g := p.2
    if g.ctx = ctx ∧ g.firstCluster = some cl ∧ g.phase ≠ .waiting ∧ g.phase ≠ .offered ∧ g.phase ≠ .retired then
      match g.firstSegs.findIdx? (fun x => x == seg) with
      | some j => some (p.1, g, j)
      | none => none
    else none

/-- The target of a peer-scratch address through the context's placement map (R204). -/
def State.peerTarget (s : State) (ctx cl o : Nat) : PeerTarget :=
  match s.firstHolder ctx cl (o / segSize) with
  | none => .refused
  | some (h, g, j) =>
    if g.phase = .running then
      match g.segs[j]? with
      | none => .refused
      | some seg =>
        match (s.segment g.cluster seg).mode with
        | .scratch => .sram (sramAddr g.cluster seg (o % segSize))
        | .fifo => .fifo g.cluster seg
        | .cache => .refused
    else .saved h (j * segSize + o % segSize) (s.logicalMode g j == .fifo)

/-! ## Private memory (R206) -/

/-- The 4-byte-word pieces of a private access: global address and length of each. -/
def privPieces (base p n lane : Nat) : List (Nat × Nat) :=
  if n ≤ 4 then [(base + p / 4 * 128 + lane * 4 + p % 4, n)]
  else (List.range (n / 4)).map fun k => (base + (p / 4 + k) * 128 + lane * 4, 4)

end Sys2Proof.Machine
end

