-- ==== Sys2Proof/Machine/Faults.lean ====
section
/-! DEFINITION. Fault records and their queues (R400 to R403, R426, R476), page requests (R416), losing a
grid (R407) and tearing down an address space (R408). -/

namespace Sys2Proof.Machine

/-! ## Queues (R402, R403) -/

/-- LOGN of a queue's configuration register. -/
def Queue.logn (q : Queue) : Nat := q.cfg.toNat % 32
/-- MSI-X vector of a queue (R445, R447). -/
def Queue.vector (q : Queue) : Nat := fld q.cfg.toNat 16 11
/-- Whether the driver has registered a queue. DEDUCED (log 25). -/
def Queue.registered (q : Queue) : Bool := q.base != 0 && decide (4 ≤ q.logn) && decide (q.logn ≤ 16)
def Queue.full (q : Queue) : Bool := (q.wr - q.rd).toNat == 2 ^ q.logn
/-- The address of the slot that the next record of `size` bytes takes. -/
def Queue.slot (q : Queue) (size : Nat) : Nat := q.base.toNat + size * (q.wr.toNat % 2 ^ q.logn)
/-- The queue after a record has been written, or dropped. DEDUCED (log 25). -/
def Queue.push (q : Queue) : Queue := { q with wr := q.wr + 1, seq := q.seq + 1 }
def Queue.drop (q : Queue) : Queue := { q with dropped := if q.dropped = 0xFFFF then q.dropped else q.dropped + 1 }

/-- Words as little-endian bytes. -/
def bytesOfWords (ws : List Word) : List Byte := ws.flatMap fun w => bytesOfNat 4 w.toNat

/-- A record put into a queue whose next slot lies at a physical address: the new memory and queue, and
the vector to send. -/
def queuePut (m : Memory) (q : Queue) (pa : Nat) (ws : List Word) : Memory × Queue × Option Nat :=
  (m.writeBytes pa (bytesOfWords ws), q.push, if q.rd = q.wr then some q.vector else none)

/-- The vector sent, if there is one. -/
def State.sendOpt (s : State) : Option Nat → State
  | some v => s.sendMsix v
  | none => s

/-- A page of a context's structure: an access for which no page request is made (R447). -/
def State.ctxPhys (s : State) (ctx va : Nat) (write : Bool) : Option Nat :=
  match s.translate ctx va (if write then .write else .read) with
  | .phys a => some a
  | _ => none

/-- `n` words of a context's structure, where every one can be read. -/
def State.ctxWords (s : State) (ctx va : Nat) : Nat → Option (List Word)
  | 0 => some []
  | n + 1 => match s.ctxPhys ctx va false, State.ctxWords s ctx (va + 4) n with
    | some a, some ws => some (BitVec.ofNat 32 (s.mem.readNat a 4) :: ws)
    | _, _ => none
/-! ## Fault records (R400, R401, R426) -/

/-- The sixteen words of a fault record (R400). -/
def FaultRec.words (r : FaultRec) (dtb : DWord) (seq : Word) : List Word :=
  let d (i : Nat) : Word := r.detail.getD i 0
  [BitVec.ofNat 32 (r.kind * 2 ^ 24 + r.scope * 2 ^ 20), BitVec.ofNat 32 r.ctx, r.grid, r.node,
   loHalf dtb, hiHalf dtb, BitVec.ofNat 32 (r.ukind * 2 ^ 28 + r.unit), seq,
   d 0, d 1, d 2, d 3, d 4, d 5, d 6, d 7]

/-- Whether a record also goes to the host fault queue (R402). -/
def FaultRec.toHost (r : FaultRec) : Bool := decide (3 ≤ r.scope) || r.kind == 13 || r.kind == 19 || r.ctx == 0xFFF

/-- The engine that writes a fault record (R356): the front end a node's failure, Equinox a straggler, Hazel those about
spans, and the leaf controllers the others. DEDUCED (log 25). -/
def FaultRec.engine (r : FaultRec) : Nat :=
  if r.kind = 14 then 0 else if r.kind = 13 then 1 else if 5 ≤ r.kind ∧ r.kind ≤ 11 then 3 else 2
/-- A fault record handed to its engine for one queue, to be performed there in its turn (R356); an EVFENCE after its node
waits for it. -/
def State.queueRecord (s : State) (r : FaultRec) (host : Bool) : State :=
  { s with
    records := s.records ++ [{ id := s.nextRecord, engine := r.engine, ctx := r.ctx, fault := some r, host := host }]
    nextRecord := s.nextRecord + 1
    nodes := s.nodes.map fun (q : Nat × Node) =>
      (q.1, if r.node ≠ 0 ∧ q.2.ctx = r.ctx ∧ q.2.words.getD 1 0 = r.node then { q.2 with past := q.2.past ++ [s.nextRecord] } else q.2) }
/-- A record written to its queues, those that the driver has registered (R402). -/
def State.report (s : State) (r : FaultRec) : State :=
  let s := if r.toHost && s.dev.hfq.registered then s.queueRecord r true else s
  if r.ctx ≠ 0xFFF ∧ (s.ctx r.ctx).fq.registered then s.queueRecord r false else s
/-- The number that the next record of a context's queue will have. -/
def State.nextSeq (s : State) (c : Nat) : Word :=
  (s.ctx c).fq.seq + BitVec.ofNat 32 (s.records.countP fun r => r.fault.isSome && !r.host && r.ctx == c)

/-! ## The command link (R361) -/

/-- The direction of a kind of message. -/
def LinkKind.isUp : LinkKind → Bool
  | .place | .save | .restore => false
  | _ => true
/-- The oldest message that waits in a direction of a cluster's link is sent, if its sender holds a permit: it
spends one, and returns with it those it owes. -/
def State.sendNext (s : State) (cl : Nat) (up : Bool) : State :=
  let c := s.cluster cl
  match s.msgs.findIdx? fun m => m.cluster == cl && m.kind.isUp == up && !m.sent with
  | none => s
  | some i =>
    if up then
      if c.permitsUp = 0 then s
      else { s with msgs := s.msgs.modify i fun m => { m with sent := true, pret := c.owedDown } }.onCluster cl fun c =>
        { c with permitsUp := c.permitsUp - 1, owedDown := 0 }
    else
      if c.permitsDown = 0 then s
      else { s with msgs := s.msgs.modify i fun m => { m with sent := true, pret := c.owedUp } }.onCluster cl fun c =>
        { c with permitsDown := c.permitsDown - 1, owedUp := 0 }
/-- Every message that waits is sent as far as the permits go. -/
def State.flushLink (s : State) (cl : Nat) (up : Bool) : State := (List.range 8).foldl (fun s _ => s.sendNext cl up) s
/-- A message put on its cluster's link. -/
def State.post (s : State) (m : LinkMsg) : State := { s with msgs := s.msgs ++ [m] }.flushLink m.cluster m.kind.isUp
/-- The messages for which `bad` holds taken back: the permits that they spent return to their senders, and those
that they carried are owed again. DEDUCED (log 33). -/
def State.unsend (s : State) (bad : LinkMsg → Bool) : State :=
  let back (up : Bool) (c : Cluster) (m : LinkMsg) : Cluster :=
    if up then { c with permitsUp := c.permitsUp + 1, owedDown := c.owedDown + m.pret }
    else { c with permitsDown := c.permitsDown + 1, owedUp := c.owedUp + m.pret }
  let gone := s.msgs.filter bad
  let s := { s with msgs := s.msgs.filter fun m => !bad m }
  gone.foldl (fun s m => if m.sent then (s.onCluster m.cluster fun c => back m.kind.isUp c m).flushLink m.cluster m.kind.isUp else s) s

/-! ## Losing a grid and tearing down a context (R407, R408) -/

/-- A warp's place with no warp in it. -/
def Warp.vacate (w : Warp) (gone : Warp → Bool) : Warp := if gone w then {} else w

/-- A freed segment keeps its mode and belongs to no gang (R364, R423). -/
def Segment.free (g : Segment) : Segment :=
  { g with claimed := false, ctx := 0xFFF, gang := 0, lseg := 0, fifo := [] }

/-- The segments of a gang freed. -/
def State.freeSegments (s : State) (h : Nat) : State :=
  let g := s.gang h
  g.segs.foldl (fun s k => s.onSegment g.cluster k Segment.free) s

/-- Whether an entry of a warp goes on when its grid is lost: one that has started to store to global memory and is not
held (R407). -/
def MEntry.outlives (e : MEntry) (w : Warp) : Bool :=
  e.pages.isSome && (match e.op with
    | .taddst _ => true
    | .tstore _ => w.regs.chkrole == 0
    | _ => false)
/-- What is left of an entry when warps are gone. -/
def State.leftOf (s : State) (gone : List Nat) (e : MEntry) : Option MEntry :=
  if !gone.contains e.uid then some e
  else match s.warpOf e.uid with
    | some w => if e.outlives w then some { e with tile := w.regs.tileWords e.src } else none
    | none => none
/-- A grid's work taken off the device: no further gang or group, its entries that have not started dropped, its copies and
chains stopped where they stand, its versions, monitors, log entries and runs gone, its windows, slots and
segments free, its node to complete with a status (R407). -/
def State.removeGrid (s : State) (g status : Nat) : State :=
  let gr := s.grid g
  if gr.lost ∨ gr.ended then s else
  let gone (w : Warp) : Bool := w.grid == g && w.park != .vacant
  let uids := (s.warps.filter gone).map fun w => w.uid
  let mine (h : Nat) : Bool := gr.gangs.contains h
  let s := gr.gangs.foldl (fun s h => (s.freeSegments h).onGang h fun x =>
    { x with phase := .retired, cores := [], segs := [], image := [], imageJobs := [] }) s
  let s := { s with
    endedGrids := s.endedGrids ++ [(gr.ctx, gr.gridid)]
    warp := s.warp.vacate gone
    others := s.others.filter fun w => !gone w
    cores := s.cores.mapVal fun c => { c with mq := c.mq.filterMap fun e => s.leftOf uids e }
    clusters := s.clusters.mapVal fun c => { c with
      engine := c.engine.map fun (j : EngineJob) => if mine j.gang ∧ j.node = none then { j with stopped := true, warp := none } else j
      changes := c.changes.filter fun k => !(k.warp.any fun u => uids.contains u) }
    versions := s.versions.filter fun v => v.grid != g
    votes := s.votes.filter fun v => v.grid != g }
  let s := s.unsend fun m => mine m.gang && !m.kind.isUp
  let s := s.onCtx gr.ctx fun c => { c with alog := c.alog.filter fun e => !mine e.gang }
  let s := s.onGrid g fun x => { x with lost := true, gsync := [], bsync := [] }
  s.onNode gr.node fun n => { n with finish := n.finish.or (some status) }

/-- An address space taken down, without its record: every grid lost, every ring frozen, every pending
node completed with CONTEXT_TORN_DOWN, every timed record with NOT_APPLICABLE (R408). -/
def State.removeCtx (s : State) (c : Nat) : State :=
  let grids := s.grids.filterMap fun g => if g.2.ctx = c then some g.1 else none
  let s := grids.foldl (fun s g => s.removeGrid g 11) s
  let owned (t : TimedRec) : Bool := t.target == c || (s.node t.node).ctx == c
  let s := { s with
    nodes := s.nodes.map fun (q : Nat × Node) => (q.1, if q.2.ctx = c ∧ ¬ s.timed.any (fun t => t.node == q.1) then { q.2 with finish := q.2.finish.or (some 11) } else q.2)
    timed := s.timed.map fun (t : TimedRec) => (if owned t ∧ t.done = none then { t with done := some 13 } else t)
    clusters := s.clusters.mapVal fun k => { k with
      engine := k.engine.map fun (j : EngineJob) => (if j.ctx = c then { j with stopped := true, warp := none } else j) }
    versions := s.versions.filter fun v => v.ctx != c
    credits := s.credits.filter fun x => x.ctx != c }
  s.onCtx c fun x => { x with
    phase := .tornDown
    alog := []
    open_ := []
    switchPending := false
    injectionStopped := false
    rings := x.rings.mapVal fun r => { r with frozen := true } }

/-- The record of a context taken down because a structure of it cannot be reached (R447). -/
def tornDownRec (c cause : Nat) (scope : Nat := 3) : FaultRec :=
  { kind := 22, scope := scope, ctx := c, detail := [BitVec.ofNat 32 cause] }

/-- Tearing down an address space that no other record of SCOPE 3 reports (R401, R408). -/
def State.tearDown (s : State) (c cause : Nat) (scope : Nat := 3) : State :=
  if (s.ctx c).phase = .tornDown then s else (s.removeCtx c).report (tornDownRec c cause scope)

/-- A record about a grid, with its context, GRIDID and node. -/
def State.gridRec (s : State) (g kind scope : Nat) (detail : List Word) : FaultRec :=
  let gr := s.grid g
  { kind := kind, scope := scope, ctx := gr.ctx, grid := gr.gridid
    node := ((s.node gr.node).words.getD 1 0), detail := detail }

/-- The linear block number of a block of a grid (R412). -/
def Grid.linear (g : Grid) (x y z rank : Nat) : Nat :=
  ((z * g.launch.gy + y) * g.launch.gx + x) * g.launch.gang + rank
def State.linearBlock (s : State) (w : Warp) : Nat :=
  (s.grid w.grid).linear w.regs.bidx.toNat w.regs.bidy.toNat w.regs.bidz.toNat w.regs.gangrank.toNat
/-- Words 13 and 14 of a record about a warp: WID and GANGRANK, and the linear block (R426). -/
def State.warpWords (s : State) (w : Warp) : List Word :=
  [w.regs.wid.setWidth 32 ||| (w.regs.gangrank.setWidth 32) <<< 5, BitVec.ofNat 32 (s.linearBlock w)]

/-- A grid lost with its fault record (R399, R407); the leaf reports it over the command link (R361). -/
def State.loseGridWith (s : State) (g : Nat) (r : FaultRec) : State := (s.removeGrid g 10).report r
/-- Losing the grid of the warp in the focus for a trap: kind 1 TRAP_UNHANDLED or 2 DOUBLE_TRAP with the
five trap registers (R399, R426). -/
def loseGrid (grid : Nat) (kind : Nat) (trap : List Word) (s : State) : State :=
  let t := s.loseGridWith grid (s.gridRec grid kind 2 (trap ++ s.warpWords s.warp))
  t.post { cluster := s.warp.cluster, kind := .fault, gang := s.warp.gang, record := s.nextSeq s.warp.ctx }

/-! ## Page requests (R416) -/

/-- A page request put into the context's page-request ring. Flags: 1 write, 2 fetch, 4 copy or chain. -/
def writePageRequest (ctx va flags tag : Nat) (s : State) : State :=
  let q := (s.ctx ctx).prq
  if !q.registered then s
  else if q.full then s.onCtx ctx fun x => { x with prq := q.drop }
  else match s.ctxPhys ctx (q.slot 32) true with
    | none => s.tearDown ctx 3
    | some pa =>
      let va' := BitVec.ofNat 64 (va / 4096 * 4096)
      let (m, q', v) := queuePut s.mem q pa
        [loHalf va', hiHalf va', BitVec.ofNat 32 flags, BitVec.ofNat 32 tag, 0, 0, 0, 0]
      ({ s with mem := m }.onCtx ctx fun x => { x with prq := q' }).sendOpt v

end Sys2Proof.Machine
end

