-- ==== Sys2Proof/Machine/Ops.lean ====
section
/-! DEFINITION. The named operations over a warp's registers and the program counter, taking a trap and
returning from one. Words of a group read their sources from `State.snap`, the registers as they stood
before the group issued, and write the live registers (R68). -/

namespace Sys2Proof.Machine

/-- What a meaning answers. -/
abbrev Out := Host.Outcome State Fault Refusal

/-! ## The program counter (R61, R62) -/

/-- The slot after a program counter, in sequential flow. -/
def Pc.next (p : Pc) : Pc :=
  match p.slot with
  | 0 => { p with slot := 1 }
  | 1 => { p with slot := 2 }
  | 2 => { packet := p.packet + 1, slot := 0 }
/-- The 32-bit form of a program counter (R61). -/
def Pc.word (p : Pc) : Word := p.packet ++ BitVec.ofNat 2 p.slot.val
/-- Whether a 32-bit word has the form of a program counter, and which. -/
def Pc.ofWord (w : Word) : Option Pc :=
  if h : w.toNat % 4 < 3 then some { packet := w.extractLsb' 2 30, slot := ⟨w.toNat % 4, h⟩ } else none

/-- Past the word just executed. -/
def State.advance (s : State) : State := s.onWarp fun w => { w with pc := w.pc.next }
/-- A meaning that completes at the next slot. -/
def State.ok (s : State) : Out := .next s.advance
/-- A transfer to slot 0 of a packet (R62). -/
def State.goto (s : State) (p : BitVec 30) : State := s.onWarp fun w => { w with pc := { packet := p, slot := 0 } }
/-- The word cannot issue yet: the state as it was, with the reason. -/
def State.stall (s : State) : Out := .next { s with grp := { s.grp with ended := .stalled } }
/-- The warp parks at issue: the word has not taken effect (R376). -/
def State.parkAtIssue (s : State) (p : Park) : Out :=
  .next { s with warp := { s.warp with park := p }, grp := { s.grp with ended := .parked p } }

/-! ## Scalars and predicates (R97, R98) -/

/-- S[a] as it stood before the group. -/
def State.srcS (s : State) (a : BitVec 5) : Word := s.snap.s[a.toNat]'a.isLt
/-- The pair S[2a], S[2a+1] as it stood before the group (R8). -/
def State.srcPair (s : State) (a : BitVec 4) : DWord :=
  pair (s.snap.s[2 * a.toNat]'(by omega)) (s.snap.s[2 * a.toNat + 1]'(by omega))
/-- P[a] as it stood before the group. -/
def State.srcP (s : State) (a : BitVec 3) : Word := s.snap.p[a.toNat]'a.isLt

/-- S[d] written. -/
def Regs.setS (r : Regs) (d : BitVec 5) (v : Word) : Regs := { r with s := r.s.set d.toNat v d.isLt }
def State.setS (s : State) (d : BitVec 5) (v : Word) : State := s.onRegs fun r => r.setS d v
/-- S[n] written for a register number held as a number. -/
def Regs.setSn (r : Regs) (n : Nat) (v : Word) : Regs :=
  if h : n < 32 then { r with s := r.s.set n v h } else r
/-- The pair S[2d], S[2d+1] written. -/
def State.setPair (s : State) (d : BitVec 4) (v : DWord) : State :=
  s.onRegs fun r => { r with s := (r.s.set (2 * d.toNat) (loHalf v) (by omega)).set (2 * d.toNat + 1) (hiHalf v) (by omega) }
/-- P[d] written whole. -/
def State.setP (s : State) (d : BitVec 3) (v : Word) : State :=
  s.onRegs fun r => { r with p := r.p.set d.toNat v d.isLt }

/-! ## The window (R91 to R94) -/

/-- The lanes numbered 0 to 31 in ascending order. -/
def allLanes : List (Fin 32) := List.finRange 32

/-- A pool entry written in every lane. -/
def Regs.setEntry (r : Regs) (n : Nat) (v : Lanes) : Regs := { r with win := SMap.put r.win n v }

/-- Lanes of `new` where the mask has a one, of `old` elsewhere. -/
def blend (mask : Word) (new old : Lanes) : Lanes :=
  Vector.ofFn fun l => if mask.getLsbD l.val then new[l] else old[l]

/-- V[a] as it stood before the group. -/
def State.srcV (s : State) (a : Nat) : Lanes := s.snap.entry a
/-- EXEC as it stood before the group. -/
def State.exec (s : State) : Word := s.snap.exec
/-- V[d] written in the active lanes; the others keep their bits (R94, R138). -/
def State.setV (s : State) (d : Nat) (v : Lanes) : State :=
  s.onRegs fun r => r.setEntry d (blend s.snap.exec v (r.entry d))
/-- V[d] written in every lane. -/
def State.setVAll (s : State) (d : Nat) (v : Lanes) : State := s.onRegs fun r => r.setEntry d v

/-! ## Signatures (R109, R324, R340) -/

/-- `fold(sig, x, t)` of R324. -/
def foldSig (sig x t : Word) : Word := rotl32 sig 5 ^^^ x ^^^ t
/-- EXEC written; in a checked block the write is a divergence event folded into RSIG (R324). -/
def State.writeExec (s : State) (v : Word) : State :=
  s.onRegs fun r => { r with exec := v, rsig := if r.chkrole = 0 then r.rsig else foldSig r.rsig v 0x102A }

/-! ## Taking a trap and returning from one (R389 to R399, R128, R129) -/

/-- The cause codes of R397. -/
abbrev causeIllegal := 1
abbrev causeVregBound := 2
abbrev causeBranchRange := 3
abbrev causeReconvOverflow := 4
abbrev causeReconvUnderflow := 5
abbrev causeReconvMissing := 6
abbrev causeSoftware := 7
abbrev causeBreakpoint := 8
abbrev causeNotInHandler := 9
abbrev causeIllegalConvergence := 10
abbrev causeGroupId := 11
abbrev causeGroupNotMember := 12
abbrev causeMisaligned := 13
abbrev causePrivateScalar := 14
abbrev causeLoopBusy := 15
abbrev causeLoopIdle := 16
abbrev causeLoopEmpty := 17
abbrev causeLoopDescriptor := 18
abbrev causeVbndValue := 19
abbrev causeMatrixBusy := 20
abbrev causeUninitUse := 21
abbrev causeFpException := 22
abbrev causeTileRange := 23
abbrev causeMatrixOperand := 24
abbrev causeMatrixFault := 25
abbrev causeBatchNumber := 26
abbrev causeAddressWindow := 27
abbrev causeScratchRange := 28
abbrev causeStackLimit := 29
abbrev causePeerScratch := 30
abbrev causeFifoAccess := 31
abbrev causePageFault := 32
abbrev causeMonitorTarget := 33
abbrev causeBarrierCount := 34
abbrev causeBarrierInvalid := 35
abbrev causeBarrierClobbered := 36
abbrev causeCopyOperand := 37
abbrev causeCopyFault := 38
abbrev causeChainDescriptor := 39
abbrev causeHostAtomicRetry := 40
abbrev causeHostAtomicUnsupported := 41
abbrev causeDepositFull := 42
abbrev causeDepositNone := 43
abbrev causeCheckedForbidden := 44
abbrev causeStableViolation := 45
abbrev causeSignatureMismatch := 46
abbrev causeArrivalLogOverflow := 47

/-- HBASE, HENTRY and ENABLE of a context's trap descriptor (R392). -/
def Ctx.hbase (c : Ctx) : DWord := pair c.trapdesc[0] c.trapdesc[1]
def Ctx.hentry (c : Ctx) : BitVec 30 := c.trapdesc[2].setWidth 30
def Ctx.trapEnable (c : Ctx) : DWord := pair c.trapdesc[4] c.trapdesc[5]

/-- The trap registers written at trap entry (R393). -/
def Regs.setTrap (r : Regs) (pc : Pc) (cause : Nat) (i0 i1 : Word) : Regs :=
  { r with trapPc := pc.word, trapMask := r.exec, trapCause := BitVec.ofNat 32 cause,
           trapInfo0 := i0, trapInfo1 := i1 }

/-- The five trap registers as a fault record carries them (R399). -/
def Regs.trapWords (r : Regs) : List Word := [r.trapPc, r.trapMask, r.trapCause, r.trapInfo0, r.trapInfo1]

/-- Trap entry (R393): the trap registers, then containment for a double or unhandled trap, else the
handler. In a checked block an unhandled or double trap ends the span and waits for the vote (R396), and
a shadow or tiebreak that raises UNINIT_USE on an entry outside its checkpoint stops (R338).
DEDUCED (log 18). -/
def enterTrap (pc : Pc) (cause : Nat) (i0 i1 : Word) (s : State) : State :=
  let c := s.ctx s.warp.ctx
  let s1 := s.onRegs fun r => r.setTrap pc cause i0 i1
  let unhandled := decide (c.hbase = 0) || !c.trapEnable.getLsbD cause
  if 2 ≤ s.warp.regs.chkrole.toNat ∧ cause = causeUninitUse ∧ (SMap.find s.warp.span.start.entries i1.toNat).isNone then
    s1.onWarp fun w => { w with span := { w.span with incomplete := true, stopped := true, ending := true } }
  else if s.warp.handler || unhandled then
    if s.warp.regs.chkrole = 0 then
      loseGrid s.warp.grid (if s.warp.handler then 2 else 1) s1.warp.regs.trapWords s1
    else s1.onWarp fun w => { w with span := { w.span with trap := some (cause, w.span.groups), ending := true } }
  else
    ((s1.onWarp fun w => { w with handler := true, hbase := c.hbase }).writeExec 0xFFFFFFFF).goto c.hentry

/-- A trapping word: trap entry with TRAPPC the group's first word, and the mark by which the group
takes no other effect (R11, R389). -/
def takeTrap (cause : Nat) (i0 i1 : Word) (s : State) : Out :=
  let s1 := enterTrap s.grp.pc cause i0 i1 s
  .next { s1 with grp := { s1.grp with ended := .trapped cause i0 i1 } }

/-- A trap with the word's group completed first, TRAPPC naming the following slot (R128). -/
def takeTrapAfter (cause : Nat) (i0 : Word) (s : State) : Out :=
  .next (enterTrap s.warp.pc.next cause i0 0 s)

/-- Return from a trap (R129, R395). -/
def returnTrap (s : State) : Out :=
  if s.warp.handler then
    match Pc.ofWord s.snap.trapPc with
    | none => takeTrap causeBranchRange (s.snap.trapPc >>> 2) 0 s
    | some pc =>
      if (s.grid s.warp.grid).codeLen ≤ pc.packet.toNat then
        takeTrap causeBranchRange (s.snap.trapPc >>> 2) 0 s
      else
        .next ((s.writeExec s.snap.trapMask).onWarp fun w => { w with handler := false, pc := pc })
  else takeTrap causeNotInHandler 0 0 s

/-! ## The bound on vector names (R72) -/

/-- The lowest register of the runs (first, count) that is not below the bound. -/
def lowestBad (vbnd : Nat) : List (Nat × Nat) → Option Nat
  | [] => none
  | (n, k) :: rest =>
    let r := lowestBad vbnd rest
    if n + k ≤ vbnd then r else
      let b := max n vbnd
      match r with
      | none => some b
      | some c => some (min b c)

/-- A word that uses vector names: VREG_BOUND, or its meaning. -/
def State.vnames (s : State) (names : List (Nat × Nat)) (k : Out) : Out :=
  match lowestBad s.snap.vbnd.toNat names with
  | some n => takeTrap causeVregBound 0 (BitVec.ofNat 32 n) s
  | none => k

/-! ## Relative targets (R63) -/

/-- The packet at a signed packet offset from the packet of the word, if it exists. -/
def State.target (s : State) (off : Int) : Int := (s.warp.pc.packet.toNat : Int) + off
def inCode (t : Int) : Bool := decide (0 ≤ t) && decide (t < 2 ^ 30)
/-- A taken transfer, with its range check. -/
def State.transfer (s : State) (off : Int) (f : State → State := id) : Out :=
  let t := s.target off
  if inCode t then .next ((f s).goto (BitVec.ofInt 30 t))
  else takeTrap causeBranchRange (BitVec.ofInt 32 t) 0 s

end Sys2Proof.Machine
end

