-- ==== Sys2Proof/Machine/Flags.lean ====
section
/-! DEFINITION. Flags: FPMODE and its traps (R48, R52, R54), the sticky bits of WSTAT (R104), and what
GETSR and SETSR make of them. -/

namespace Sys2Proof.Machine

/-! ## FPMODE (R48) -/

/-- The rounding mode and flush setting that a word reads. -/
def Regs.fpEnv (r : Regs) : FpEnv := ⟨(r.fpmode.extractLsb' 0 2).toNat, r.fpmode.getLsbD 2⟩
/-- FPMODE.UNINIT. -/
def Regs.uninit (r : Regs) : Bool := r.fpmode.getLsbD 3
/-- The trap enables, in the bit order of the flags. -/
def Regs.fpEnables (r : Regs) : BitVec 5 := r.fpmode.extractLsb' 9 5

/-- Sticky flags raised, in FPMODE and in the group's record of them (R52, R67). -/
def State.raiseFp (s : State) (f : BitVec 5) : State :=
  let s := s.onRegs fun r => { r with fpmode := r.fpmode ||| ((f.setWidth 32) <<< 4) }
  { s with grp := { s.grp with fpRaised := s.grp.fpRaised ||| f } }

/-! ## WSTAT (R104) -/

abbrev wsEMPTY : BitVec 4 := 1
abbrev wsSAT : BitVec 4 := 2
abbrev wsRESUMED : BitVec 4 := 4
abbrev wsREPLAYED : BitVec 4 := 8

/-- Sticky bits of WSTAT raised. -/
def State.raiseWs (s : State) (f : BitVec 4) : State :=
  let s := s.onRegs fun r => { r with wstat := r.wstat ||| f }
  { s with grp := { s.grp with wsRaised := s.grp.wsRaised ||| f } }

/-! ## The traps of floating-point words (R52, R54, R162) -/

/-- Whether a lane word is an uninitialised marker. -/
def isMarker (w : Word) : Bool := w.extractLsb' 12 20 == 0x7FB00#20

/-- The entry named by the lowest active lane's first marker, sources in operand order. -/
def firstMarker (exec : Word) (srcs : List Lanes) : Option Word :=
  allLanes.findSome? fun l =>
    if exec.getLsbD l.val then
      srcs.findSome? fun v => if isMarker v[l] then some (v[l] &&& 0xFFF) else none
    else none

/-- The flags that the active lanes raise. -/
def orFlags (exec : Word) (f : Fin 32 → BitVec 5) : BitVec 5 :=
  allLanes.foldl (fun a l => if exec.getLsbD l.val then a ||| f l else a) 0

/-- A floating-point word: UNINIT_USE, then FP_EXCEPTION, else its effect with the flags raised. -/
def State.fpGuard (s : State) (markers : List Lanes) (raised : BitVec 5) (k : State → State) : Out :=
  match if s.snap.uninit then firstMarker s.snap.exec markers else none with
  | some e => takeTrap causeUninitUse 0 e s
  | none =>
    if raised &&& s.snap.fpEnables ≠ 0 then takeTrap causeFpException (raised.setWidth 32) 0 s
    else ((k s).raiseFp raised).ok

end Sys2Proof.Machine
end

