-- ==== Sys2Proof/Machine/Tokens.lean ====
section
/-! DEFINITION. The tokens of lines at their holders and the messages that carry them (R207, R208, R216, R217, R222, R226 to
R236, R245, R248). -/

namespace Sys2Proof.Machine

/-! ## Places of a line (R216, R222) -/

/-- Base die, L3 slice and L2 slice of the line x << 7 (R216, R222). -/
def homeDie (x : Nat) : Nat := x % 4 ^^^ fld x 11 2
def homeSlice (x : Nat) : Nat := fld x 2 5 ^^^ fld x 13 5
def poolSlice (x : Nat) : Nat := fld x 0 6 ^^^ fld x 6 6 ^^^ fld x 12 6
/-- Whether a physical address has a line with tokens (R221, R226). -/
def cacheable (a : Nat) : Bool := decide (a < 2 ^ 42)

/-! ## Holders (R226 to R228) -/

/-- The holders of a die: its pool and the home beside it. -/
def poolOf (d : Nat) : Nat := 192 + d
def homeOf (d : Nat) : Nat := 196 + d
/-- The home of a line. -/
def homeHolder (x : Nat) : Nat := homeOf (homeDie x)
/-- The die of a holder. -/
def dieOfHolder (h : Nat) : Nat := if h < 192 then dieOfCluster h else (h - 192) % 4
def isCluster (h : Nat) : Bool := decide (h < 192)
/-- Whether a line of physical memory has tokens. -/
def tokenLine (x : Nat) : Bool := decide (x < 2 ^ 35)

/-- The state of a line at a holder at device reset: the home has all 256 tokens (R228). -/
def tokReset (h x : Nat) : Tok := if h = homeHolder x then ⟨true, false, true, 256⟩ else {}
def State.tok (s : State) (h x : Nat) : Tok := SMap.get s.toks (256 * x + h) (tokReset h x)
/-- The state of a line at a holder written: with no token the holder has no line, and D stands only with O (R228,
R229). -/
def State.setTok (s : State) (h x : Nat) (t : Tok) : State :=
  let k := 256 * x + h
  let t : Tok := if t.tok = 0 then {} else { t with dirty := t.dirty && t.owner }
  { s with
    toks := if t = tokReset h x then SMap.del s.toks k else SMap.put s.toks k t
    retention := if t.tok = 0 then SMap.del s.retention k else s.retention }
/-- Whether a holder may deliver the line to a read, and whether it may perform a write on it (R229). -/
def State.mayRead (s : State) (h x : Nat) : Bool := (s.tok h x).tok != 0 && (s.tok h x).valid
def State.mayWrite (s : State) (h x : Nat) : Bool := (s.tok h x).tok == 256 && (s.tok h x).valid
/-- The lines that bytes of physical memory lie in. -/
def linesOf (a n : Nat) : List Nat := (List.range ((a + n - 1) / 128 - a / 128 + 1)).map (a / 128 + ·)

/-- Whether a cluster has a segment in CACHE mode (R227). -/
def State.caching (s : State) (cl : Nat) : Bool := (List.range 32).any fun k => (s.segment cl k).mode == .cache
/-- The clusters of a die that hold lines. -/
def State.cachingOf (s : State) (d : Nat) : List Nat := ((List.range 48).map fun i => 48 * d + i).filter s.caching
/-- Whether an armed monitor of a die watches a line (R253). -/
def State.armed (s : State) (d x : Nat) : Bool :=
  s.allWarps.any fun w => match w.park with
    | .monitor p _ _ _ polled => !polled && w.die == d && p / 128 == x
    | _ => false

/-! ## Performance counters (R441, R442) -/

/-- Events added to a counter: the counter, its select register, and whether an MSI-X message is sent. -/
def pmcAdd (pmc : BitVec 48) (sel : Word) (n : Nat) : BitVec 48 × Word × Bool :=
  let wraps := decide (2 ^ 48 ≤ pmc.toNat + n)
  (pmc + BitVec.ofNat 48 n, if wraps then sel ||| 0x20000000 else sel, wraps && sel.getLsbD 28)
/-- Whether a select register counts an event of a context. -/
def pmcCounts (sel : Word) (event ctx : Nat) : Bool :=
  sel.getLsbD 31 && sel.toNat % 256 == event && (!sel.getLsbD 30 || fld sel.toNat 16 12 == ctx)
/-- Counter `k` of a core counts events. -/
def State.corePmc (s : State) (core k n : Nat) : State :=
  let c := s.core core
  let (v, sel, irq) := pmcAdd (SMap.get c.pmc k 0) (SMap.get c.pmcsel k 0) n
  let s := s.onCore core fun c => { c with pmc := SMap.put c.pmc k v, pmcsel := SMap.put c.pmcsel k sel }
  if irq then s.sendMsix (s.dev.vecperf.toNat % 2048) else s
/-- Counter `k` of an L2 slice counts events. -/
def State.slicePmc (s : State) (m k n : Nat) : State :=
  let i := 8 * m + k
  let (v, sel, irq) := pmcAdd (SMap.get s.l2pmc i 0) (SMap.get s.l2pmcsel i 0) n
  let s := { s with l2pmc := SMap.put s.l2pmc i v, l2pmcsel := SMap.put s.l2pmcsel i sel }
  if irq then s.sendMsix (s.dev.vecperf.toNat % 2048) else s
/-- An event of a context on a core, counted by each of its counters that selects it. DESIGN CHOICE (log 40). -/
def State.countCore (s : State) (core event ctx : Nat) : State :=
  ((s.core core).pmcsel.filter fun q => pmcCounts q.2 event ctx).foldl (fun s q => s.corePmc core q.1 1) s
/-- Events of a context at the L2 slice of a line on a die. DESIGN CHOICE (log 40). -/
def State.countSlice (s : State) (die x event ctx n : Nat) : State :=
  let m := 64 * die + poolSlice x
  (s.l2pmcsel.filter fun q => q.1 / 8 == m && pmcCounts q.2 event ctx).foldl (fun s q => s.slicePmc m (q.1 % 8) n) s

/-! ## Messages (R231 to R234) -/

/-- The links that a message from die to die crosses; which of two ways is not fixed (R15). -/
def linkPath (choice a b : Nat) : List Nat :=
  match a, b with
  | 0, 1 | 1, 0 => [0]
  | 0, 2 | 2, 0 => [1]
  | 1, 3 | 3, 1 => [2]
  | 2, 3 | 3, 2 => [3]
  | 0, 3 | 3, 0 => if choice % 2 = 0 then [0, 2] else [1, 3]
  | 1, 2 | 2, 1 => if choice % 2 = 0 then [0, 1] else [2, 3]
  | _, _ => []
/-- A context kept in the replay window of a link: the headers of the last 4 µs (R410). -/
def noteBlame (now : BitVec 64) (c : Nat) (l : List (Nat × BitVec 64)) : List (Nat × BitVec 64) :=
  (c, now) :: l.filter fun q => q.1 != c && (now - q.2).toNat ≤ 4000
def State.noteLinks (s : State) (ctx : Nat) (links : List Nat) : State :=
  if ctx = 0xFFF then s
  else links.foldl (fun s k => s.onDev fun d => { d with blame := SMap.upd d.blame k [] (noteBlame s.dtb ctx) }) s
/-- The die that a message comes from: a PACT or PDEACT names the arbiter's stack (R231). -/
def CohMsg.srcDie (m : CohMsg) : Nat := if m.type = 7 ∨ m.type = 9 then m.src else dieOfHolder m.src
/-- A message sent. -/
def State.sendTok (s : State) (m : CohMsg) : State :=
  let links := linkPath (Config.freeChoice s.fresh) m.srcDie (dieOfHolder m.dst)
  ({ s with cohMsgs := s.cohMsgs ++ [m] }.tick).noteLinks m.ctx links

/-- Whether a message carries data, and its class (R231, R232). -/
def cohData (type : Nat) : Bool := type == 3 || type == 5 || type == 11
def cohClass (type : Nat) : Nat := if type < 3 then 0 else if type < 6 then 1 else if type < 11 then 2 else 3
/-- CRC-16 with the polynomial 0x1021, from the highest bit down. DEDUCED (log 35). -/
def crc16 (x : Nat) : Nat → Nat
  | 0 => 0xFFFF
  | n + 1 =>
    let c := crc16 (x / 2) n
    let y := 2 * c % 65536
    if (c / 32768 + x) % 2 = 1 then y ^^^ 0x1021 else y
/-- The header of a message (R231). -/
def CohMsg.header (m : CohMsg) : BitVec 128 :=
  let b (n : Bool) : Nat := if n then 1 else 0
  let low := m.type * 2 ^ 108 + cohClass m.type * 2 ^ 106 + m.tok * 2 ^ 97 + b m.owner * 2 ^ 96 + b (cohData m.type) * 2 ^ 95 +
    b m.dirty * 2 ^ 94 + m.req * 2 ^ 86 + m.src * 2 ^ 78 + m.dst * 2 ^ 70 + m.ctx * 2 ^ 58 + m.line * 2 ^ 7
  BitVec.ofNat 128 (crc16 low 112 * 2 ^ 112 + low)
/-- Whether a header as it arrived cannot be used (R231). -/
def headerBad (h : BitVec 128) : Bool :=
  let x := h.toNat
  let type := fld x 108 4
  fld x 112 16 != crc16 (x % 2 ^ 112) 112 || decide (12 < type) || fld x 106 2 != cohClass type || decide (256 < fld x 97 9)
    || (x.testBit 96 && !x.testBit 95)

/-- Tokens and data sent from one holder to another: with the owner token the data goes too (R229). -/
def tokMsg (x src dst req n : Nat) (owner dirty data : Bool) (ctx : Nat) : CohMsg :=
  { type := if data || owner then 3 else 4, line := x, src := src, dst := dst, req := req, tok := n, owner := owner, dirty := dirty && owner, ctx := ctx }

/-- A line that a pool keeps: an armed monitor needs it, or it holds pending versions (R217, R253). -/
def State.pinnedLine (s : State) (h x : Nat) : Bool :=
  !isCluster h && decide (h < 196) && (s.armed (dieOfHolder h) x || s.versions.any fun v => v.die == dieOfHolder h && v.line == x)
/-- A holder that gives up a line sends its tokens to the home, a cluster to its pool (R245, R248); a home writes
the line's data and tokens to memory, and its data is then clean. -/
def State.evictTok (s : State) (h x : Nat) : State :=
  let t := s.tok h x
  let dest := if isCluster h then poolOf (dieOfHolder h) else homeHolder x
  if t.tok = 0 then s
  else if h = dest then
    { s.setTok h x { t with dirty := false } with
      retention := SMap.del s.retention (256 * x + h)
      memCopy := if t.dirty then SMap.del s.memCopy x else s.memCopy }
  else if s.pinnedLine h x then s
  else (s.setTok h x {}).sendTok
    { type := if t.owner then 11 else 12, line := x, src := h, dst := dest, req := h, tok := t.tok, owner := t.owner, dirty := t.dirty }

/-- Lines written back to their memory: clean at their owners and in the messages that carry the owner token
(R310). -/
def State.cleanLines (s : State) (lines : List Nat) : State :=
  let keys := (s.toks.filter fun q => q.2.dirty && lines.contains (q.1 / 256)).map (·.1)
  let s := keys.foldl (fun s k => s.setTok (k % 256) (k / 256) { s.tok (k % 256) (k / 256) with dirty := false }) s
  { s with
    cohMsgs := s.cohMsgs.map fun (m : CohMsg) => (if lines.contains m.line then { m with dirty := false } else m)
    memCopy := s.memCopy.filter fun q => !lines.contains q.1 }

/-! ## Sets, ways and victims (R208, R216, R217, R222) -/

/-- The lines that a cluster holds. -/
def State.clusterLines (s : State) (cl : Nat) : List Nat :=
  s.toks.filterMap fun q => if q.1 % 256 = cl then some (q.1 / 256) else none
/-- The ways of a cluster's cache: one for each segment in CACHE mode that has not been taken out of use (R438). -/
def State.cachingWays (s : State) (cl : Nat) : Nat :=
  (List.range 32).countP fun k => (s.segment cl k).mode == .cache && ((s.segment cl k).claimed || !(s.segment cl k).retired)
/-- The slice that a line lies in at a holder, and its set in the slice. -/
def sliceAt (h x : Nat) : Nat := if isCluster h then x % 2048 else if h < 196 then poolSlice x else homeSlice x
def setAt (h x : Nat) : Nat := if isCluster h then 0 else if h < 196 then Config.l2Set x % 1024 else Config.l3Set x % 4096
/-- The ways of a line's set at a holder: a retired location of L2 or L3 has taken its way out of use (R216, R222, R438). -/
def State.waysOf (s : State) (h x : Nat) : Nat :=
  if isCluster h then s.cachingWays h
  else
    let gone := s.retiredUnits.countP fun u => u.1 == (if h < 196 then 3 else 4) && u.2 % 4 == dieOfHolder h
      && sliceAt h (u.2 / 4) == sliceAt h x && setAt h (u.2 / 4) == setAt h x
    (if h < 196 then 24 else 16) - gone
/-- The lines that share the set of a line at a holder; where the whole slice has fewer than a set's ways, the set
cannot be full. -/
def State.sharers (s : State) (h x : Nat) : List Nat :=
  let near := s.retention.filterMap fun q =>
    if q.1 % 256 = h ∧ q.1 / 256 ≠ x ∧ sliceAt h (q.1 / 256) = sliceAt h x then some (q.1 / 256) else none
  if near.length < s.waysOf h x then near else near.filter fun y => setAt h y == setAt h x
/-- Whether of two lines of a holder the first gives way: the lower class, which an L3 slice does not keep, then the
less recently used (R208, R217, R222). -/
def State.yields (s : State) (h x y : Nat) : Bool :=
  let r (z : Nat) : Retention := SMap.get s.retention (256 * z + h) {}
  let cls (z : Nat) : Nat := if 196 ≤ h then 0 else (r z).cls.toNat
  decide (cls x < cls y) || (cls x == cls y && decide ((r x).used < (r y).used))
/-- Room made for a line that a holder has allocated: the victim of its set gives way, or where every other line of
the set must stay, the line itself (R208, R217). -/
def State.giveWay (s : State) (h x : Nat) : State :=
  let ys := s.sharers h x
  if ys.length < s.waysOf h x then s
  else match ys.filter fun y => !s.pinnedLine h y with
    | y :: rest => s.evictTok h (rest.foldl (fun a b => if s.yields h b a then b else a) y)
    | [] => s.evictTok h x
/-- The same, for as many lines as the set has too many: more than one where ways have been taken out of use. -/
def State.makeWay (s : State) (h x : Nat) : State :=
  (List.range ((s.sharers h x).length + 1 - s.waysOf h x)).foldl (fun s _ => s.giveWay h x) s
/-- A use of a line with a retention hint: it is allocated with that class, or its class becomes the hint; hint 3
allocates nothing and leaves the class (R217). -/
def State.useLine (s : State) (h x : Nat) (hint : BitVec 2) : State :=
  let k := 256 * x + h
  let old := SMap.find s.retention k
  if (s.tok h x).tok = 0 ∨ (hint = 3 ∧ old.isNone) then s
  else
    let r : Retention := { cls := if hint = 3 then (old.getD {}).cls else hint, used := s.fresh }
    let t := { s with retention := SMap.put s.retention k r }.tick
    if old.isSome then t else t.makeWay h x
/-- A line that a holder has used without allocating it goes back to its home (R217). -/
def State.leaveLine (s : State) (h x : Nat) : State :=
  if isCluster h ∨ (SMap.find s.retention (256 * x + h)).isSome ∨ s.cohReqs.any (fun q => q.holder == h && q.line == x) then s
  else s.evictTok h x
/-- A line written by the holder of all its tokens: its data differs from the memory copy, which is kept (R228, R257). -/
def State.dirtyLine (s : State) (h x : Nat) : State :=
  let copy := if (SMap.find s.memCopy x).isSome then s.memCopy else SMap.put s.memCopy x (s.mem.readBytes (128 * x) 128)
  { s with memCopy := copy }.setTok h x { s.tok h x with dirty := true }

/-! ## Closing a way (R207) -/

/-- A segment that leaves CACHE mode gives back the lines of its way: all of the cluster's where it was the last,
else any of them, at most one of a set, as the way that a line lies in is not kept (R207, log 30). -/
def State.closeWay (s : State) (cl : Nat) : State :=
  let lines := s.clusterLines cl
  if (s.cachingWays cl) ≤ 1 then lines.foldl (fun s x => s.evictTok cl x) s
  else
    let chosen := lines.filter fun x => Config.freeChoice (s.fresh + x % 2048) % s.cachingWays cl
      == ((lines.filter fun y => y % 2048 == x % 2048).idxOf x)
    (chosen.foldl (fun s x => s.evictTok cl x) s).tick 2048

end Sys2Proof.Machine
end

