-- ==== Sys2Proof/Machine/Perform.lean ====
section
/-! DEFINITION. Performing reads, writes and atomic updates: the bytes of memory, scratch and FIFOs, the
held versions of checked runs, monitors, barrier objects and the arrival log (R204, R211, R253, R261,
R276, R285, R293 to R298, R327 to R330, R378 to R380). -/

namespace Sys2Proof.Machine

/-! ## Who performs an access -/

/-- The agent of an access: its context and grid, the warp that a failure is latched against, its die,
and for a checked run its role and span. -/
structure Agent where
  ctx : Nat
  grid : Nat := 0
  uid : Nat := 0
  die : Nat := 0
  role : Nat := 0
  span : Word := 0
  /-- the order of its access among the warp's matrix entries (R171) -/
  stamp : Nat := 0
  /-- its write ends its span, and is committed after the others (R275) -/
  last : Bool := false
  deriving DecidableEq, Repr

/-- An agent whose access escapes, so that a checked primary's is not held (R337). -/
def Agent.unheld (ag : Agent) : Agent := { ag with role := 0 }
/-- The warp in the focus as an agent. -/
def Warp.agent (w : Warp) : Agent :=
  { ctx := w.ctx, grid := w.grid, uid := w.uid, die := w.die, role := w.regs.chkrole.toNat, span := w.regs.spanno }

/-- A trap latched against the agent's warp (R391). -/
def State.latch (s : State) (ag : Agent) (cause : Nat) (i0 i1 : Word) : State :=
  s.onUid ag.uid fun w => w.latchTrap cause i0 i1

/-- Address detail of traps: [31:0], [51:32] and [63:32]. -/
def adr0 (va : Nat) : Word := BitVec.ofNat 32 va
def adr1 (va : Nat) : Word := BitVec.ofNat 32 (fld va 32 20)
def adr1w (va : Nat) : Word := BitVec.ofNat 32 (va / 2 ^ 32)

/-! ## Held versions (R276, R327 to R330) -/

/-- The newest byte that the agent's own run holds for a physical address. -/
def State.ownByte (s : State) (ag : Agent) (a : Nat) : Option Byte :=
  s.versions.reverse.findSome? fun v =>
    if v.uid = ag.uid ∧ v.line = a / 128 then SMap.find v.bytes (a % 128) else none

/-- Bytes of physical memory as the agent reads them: committed bytes, with a checked run's own pending
bytes over them (R276); `kept` holds lines that were read before (R245). -/
def State.readPhys (s : State) (ag : Agent) (a n : Nat) (kept : List (Nat × List Byte) := []) : List Byte :=
  if ag.role = 0 ∧ kept.isEmpty then s.mem.readBytes a n
  else (List.range n).map fun k =>
    let b := match kept.lookup ((a + k) / 128) with
      | some bs => bs.getD ((a + k) % 128) 0
      | none => s.mem.read (a + k)
    if ag.role = 0 then b else (s.ownByte ag (a + k)).getD b

/-- A byte joined to the run's version of its line for its span (R327). -/
def State.holdByte (s : State) (ag : Agent) (va a : Nat) (b : Byte) : State :=
  let own (v : Version) : Bool := v.uid == ag.uid && v.line == a / 128 && v.span == ag.span
  if s.versions.any own then
    { s with versions := s.versions.map fun v =>
        if own v then { v with bytes := SMap.put v.bytes (a % 128) b, last := v.last || ag.last } else v }
  else
    let v : Version :=
      { die := ag.die, line := a / 128, va := va - a % 128, ctx := ag.ctx, grid := ag.grid, uid := ag.uid, span := ag.span
        role := ag.role, bytes := [(a % 128, b)], last := ag.last }
    { s with versions := s.versions ++ [v] }.countSlice ag.die (a / 128) 38 ag.ctx 1
def State.holdBytes (s : State) (ag : Agent) (va a : Nat) : List Byte → State
  | [] => s
  | b :: bs => State.holdBytes (s.holdByte ag va a b) ag (va + 1) (a + 1) bs

/-- QUOTA and POLICY of a context on a die (R330). -/
def State.vsctx (s : State) (die ctx : Nat) : Nat := (SMap.get s.dev.vsctx (4096 * die + ctx) 0x00010000).toNat
/-- The lines of a list that need a new version of the agent. -/
def State.newLines (s : State) (ag : Agent) (ls : List Nat) : List Nat :=
  ls.eraseDups.filter fun l => !s.versions.any fun v => v.uid == ag.uid && v.line == l && v.span == ag.span
/-- Whether lines stay within the context's quota and the die's lines (R330). -/
def State.withinQuota (s : State) (ag : Agent) (ls : List Nat) : Bool :=
  let new := s.newLines ag ls
  let onDie := s.versions.filter fun v => v.die == ag.die
  decide (((onDie.countP fun v => v.ctx == ag.ctx) + new.length) ≤ fld (s.vsctx ag.die ag.ctx) 0 19)
    && decide (onDie.length + new.length ≤ 393216)
/-- Whether the version store has room for the lines: at most three pending versions of a line on a die
(R327, R328), and within the quotas (R330). -/
def State.roomFor (s : State) (ag : Agent) (ls : List Nat) : Bool :=
  (s.newLines ag ls).all (fun l => decide ((s.versions.countP fun v => v.die == ag.die && v.line == l) < 3))
    && s.withinQuota ag ls

/-! ## Physical writes -/

/-- The conditions of MWAIT (R292). -/
def condHolds (c : Nat) (a b : Word) : Bool :=
  match c with
  | 0 => a == b
  | 1 => a != b
  | 2 => a.slt b
  | 3 => !a.slt b
  | 4 => a.ult b
  | _ => !a.ult b

/-- A monitor's evaluation of a value (R254): a wake writes S[D] and lowers A; a held warp keeps the value
for its restore (R375), and a checked primary records it (R331). -/
def Warp.evaluate (w : Warp) (v : Word) : Warp :=
  match w.park with
  | .monitor _ c x d _ =>
    if condHolds c v x then
      if w.held then (if w.pend then w else { w with pend := true, wval := v })
      else
        let r := w.regs.setSn d v
        let w := { w with park := .ready, regs := { r with cnt := { r.cnt with a := r.cnt.a - 1 } } }
        if r.chkrole = 1 then { w with span := { w.span with log := w.span.log ++ [⟨3, [v]⟩], used := w.span.used + 8 } }
        else w
    else w
  | _ => w

/-- The records of a die's pool on some lines evaluated (R253). -/
def State.evalLines (s : State) (die : Nat) (lines : List Nat) : State :=
  let here (w : Warp) : Option Nat := match w.park with
    | .monitor p _ _ _ polled => if polled = false ∧ w.die = die ∧ lines.contains (p / 128) then some p else none
    | _ => none
  let t := s.mapWarps fun w => match here w with
    | some p => w.evaluate (BitVec.ofNat 32 (s.mem.readNat p 4))
    | none => w
  s.allWarps.foldl (fun t w => match here w with
    | some p => t.countSlice die (p / 128) 37 w.ctx 1
    | none => t) t
/-- The records of a die's pool evaluated after a write on lines that it performed, as the holder of all their
tokens (R253). -/
def State.evalMonitors (s : State) (die : Option Nat) (a n : Nat) : State :=
  match die with
  | some d => s.evalLines d ((linesOf a n).filter (s.mayWrite (poolOf d)))
  | none => s

/-- The addresses of the packets of a context's running code that bytes of physical memory lie in, by whatever address a
store reaches them (R64). -/
def State.codeAt (s : State) (ctx pa n : Nat) : List Nat :=
  (s.grids.flatMap fun g =>
    let lo := g.2.codeBase
    let hi := lo + 12 * g.2.codeLen
    if g.2.ctx ≠ ctx ∨ g.2.ended ∨ g.2.lost then []
    else (List.range ((hi + 4095) / 4096 - lo / 4096)).flatMap fun i =>
      let page := (lo / 4096 + i) * 4096
      match s.walkCtx (s.ctx ctx) page .fetch with
      | .phys a => if a < pa + n ∧ pa < a + 4096 then
          (List.range n).filterMap fun k =>
            let va := page + (pa + k - a)
            if a ≤ pa + k ∧ pa + k < a + 4096 ∧ lo ≤ va ∧ va < hi then some (va - (va - lo) % 12) else none
        else []
      | _ => []).eraseDups
/-- The packets of running code that a store of their context changes, each kept whole as it was: the old packet (R64). -/
def State.noteCode (s : State) (ctx pa n : Nat) : State :=
  let c := s.ctx ctx
  let old := ((s.codeAt ctx pa n).filter fun p => (SMap.find c.codeOld p).isNone).flatMap fun p =>
    (List.range 12).filterMap fun k => match s.walkCtx c (p + k) .fetch with
      | .phys a => some (p + k, s.mem.read a)
      | _ => none
  if old.isEmpty then s
  else s.onCtx ctx fun c => { c with codeOld := old.foldl (fun m q => SMap.put m q.1 q.2) c.codeOld }
/-- The old packets of a context that belong to no running grid dropped: a grid that starts later fetches what memory
holds (R64). -/
def State.pruneCode (s : State) (ctx : Nat) : State :=
  let runs (va : Nat) : Bool := s.grids.any fun g => g.2.ctx == ctx && !g.2.ended && !g.2.lost
    && decide (g.2.codeBase ≤ va) && decide (va < g.2.codeBase + 12 * g.2.codeLen)
  s.onCtx ctx fun c => { c with codeOld := c.codeOld.filter fun q => runs q.1 }

/-- Bytes written to physical memory by an agent of a die, or by another device; a write into a stable range of a running
grid is not performed (R334). -/
def State.writePhys (s : State) (ctx : Nat) (die : Option Nat) (a : Nat) (bs : List Byte) : State :=
  if (s.stablePhys a bs.length).isSome then s
  else
  let s := s.noteCode ctx a bs.length
  ({ s with mem := s.mem.writeBytes a bs }).evalMonitors die a bs.length

/-- Words 8 to 15 of a record about a span (R426): its number, the cores of its runs, the winning role, the
warp, and its flags. -/
def State.spanWords (s : State) (w : Warp) (span : Word) (cores : List (Option Nat)) (winner : Nat) (esc scr rel : Bool) : List Word :=
  let core (i : Nat) : Word := match cores.getD i none with
    | some c => BitVec.ofNat 32 c
    | none => 0xFFFFFFFF
  [span, core 0, core 1, core 2, BitVec.ofNat 32 winner] ++ s.warpWords w ++
    [BitVec.ofNat 32 ((if esc then 1 else 0) + (if scr then 2 else 0) + (if rel then 4 else 0))]

/-! ## Scratch and barrier objects (R293 to R298) -/

/-- Word `i` of the object at an SRAM byte, and the word written. -/
def State.objWord (s : State) (a i : Nat) : Word := BitVec.ofNat 32 (s.sram.readNat (a + 4 * i) 4)
def State.setObj (s : State) (a i : Nat) (v : Word) : State :=
  { s with sram := s.sram.writeBytes (a + 4 * i) (bytesOfNat 4 v.toNat) }
/-- VAL, PH, EXPECT and REMAIN. -/
def State.objVal (s : State) (a : Nat) : Bool := (s.objWord a 0).getLsbD 31
def State.objPh (s : State) (a : Nat) : Bool := (s.objWord a 0).getLsbD 30
def State.objExpect (s : State) (a : Nat) : Word := s.objWord a 0 &&& 0xFFFF
def State.objRemain (s : State) (a : Nat) : Word := s.objWord a 1 &&& 0xFFFF

/-- The tracked waiters on objects that the bytes [a, a + n) touch raise BARRIER_CLOBBERED (R297). -/
def State.clobber (s : State) (a n : Nat) : State :=
  s.mapWarps fun w => match w.park with
    | .barrier obj _ off pc none =>
      if obj < a + n ∧ a < obj + 16 then w.wakeWithTrap causeBarrierClobbered off 0 pc else w
    | _ => w

/-- Bytes written to SRAM by anything other than a BAR function or an arrival. -/
def State.writeSram (s : State) (a : Nat) (bs : List Byte) : State :=
  let s := s.clobber a bs.length
  { s with sram := s.sram.writeBytes a bs }

/-- A phase completed where nothing is due any more (R294): PH inverted, REMAIN reloaded, PHNO raised,
and every waiter whose parity differs woken. -/
def State.completePhase (s : State) (a : Nat) : State :=
  if s.objRemain a = 0 ∧ s.objWord a 2 = 0 then
    let s := ((s.setObj a 0 (s.objWord a 0 ^^^ 0x40000000)).setObj a 1 (s.objExpect a)).setObj a 3 (s.objWord a 3 + 1)
    let ph := s.objPh a
    s.mapWarps fun w => match w.park with
      | .barrier obj par _ _ none => if obj = a ∧ ph ≠ par then w.wake else w
      | _ => w
  else s

/-- One arrival on an object, or the cause by which it fails (R295, R296). -/
def State.arrive (s : State) (a : Nat) : State × Option Nat :=
  if !s.objVal a then (s, some causeBarrierInvalid)
  else if s.objRemain a = 0 then (s, some causeBarrierCount)
  else ((s.setObj a 1 (s.objRemain a - 1)).completePhase a, none)
/-- BEXPECT's bytes added to PENDB. -/
def State.expectBytes (s : State) (a : Nat) (n : Word) : State × Option Nat :=
  if !s.objVal a then (s, some causeBarrierInvalid)
  else if 2 ^ 31 - 1 < (s.objWord a 2).toInt + n.toNat then (s, some causeBarrierCount)
  else ((s.setObj a 2 (s.objWord a 2 + n)).completePhase a, none)
/-- Counted bytes subtracted from PENDB; past −2³¹ they clobber the object and clear VAL (R297). -/
def State.countBytes (s : State) (a n : Nat) : State × Option Nat :=
  if !s.objVal a then (s, some causeBarrierInvalid)
  else if (s.objWord a 2).toInt - n < -(2 ^ 31) then
    let s := s.clobber a 16
    ((s.setObj a 2 (s.objWord a 2 - BitVec.ofNat 32 n)).setObj a 0 (s.objWord a 0 &&& 0x7FFFFFFF), none)
  else ((s.setObj a 2 (s.objWord a 2 - BitVec.ofNat 32 n)).completePhase a, none)

/-- Bytes counted on an object, a failure latched against the agent (R295 to R297). -/
def State.countOn (s : State) (ag : Agent) (a off n : Nat) : State :=
  match s.countBytes a n with
  | (t, none) => t
  | (t, some c) => t.latch ag c (BitVec.ofNat 32 off) 6

/-! ## FIFO segments (R211, R212) -/

/-- Entries a FIFO segment can hold. -/
def fifoDepth : Nat := 2048
/-- One entry pushed, and the warps of the cluster that wait for one woken. -/
def State.pushEntry (s : State) (cl seg : Nat) (e : Lanes) : State :=
  (s.onSegment cl seg fun g => { g with fifo := g.fifo ++ [e] }).mapWarps fun w =>
    if w.park = .fifo seg ∧ w.cluster = cl then w.wake else w
/-- Whether a FIFO segment holds all the entries that it can. -/
def State.fifoFull (s : State) (cl seg : Nat) : Bool := decide (fifoDepth ≤ (s.segment cl seg).fifo.length)

/-! ## The arrival log (R378 to R380) -/

/-- The words of a context's switch descriptor, where it has one that can be read and in which no reserved field is set; a
malformed one serves as one that cannot be reached (R4, R374). DEDUCED (log 24). -/
def State.switchWords (s : State) (ctx : Nat) : Option (List Word) :=
  let va := (s.ctx ctx).swdesc.toNat
  if va = 0 then none
  else match s.ctxWords ctx va 16 with
    | some ws => if (ws.getD 5 0).toNat < 2 ^ 16 ∧ (ws.getD 7 0).toNat < 2 ∧ (ws.drop 8).all (· == 0) then some ws else none
    | none => none
/-- The arrival-log area of a context, and its save area: address and size in bytes (R374). -/
def State.alogArea (s : State) (ctx : Nat) : Option (Nat × Nat) :=
  (s.switchWords ctx).map fun ws => ((pair (ws.getD 3 0) (ws.getD 4 0)).toNat, 4096 * (ws.getD 5 0).toNat)
def State.saveArea (s : State) (ctx : Nat) : Option (Nat × Nat) :=
  (s.switchWords ctx).map fun ws => ((pair (ws.getD 0 0) (ws.getD 1 0)).toNat, 4096 * (ws.getD 2 0).toNat)

/-- The 32-byte units of an entry. -/
def ArrivalEntry.units (e : ArrivalEntry) : List (List Word) :=
  let d (i : Nat) : Word := e.data.getD i 0
  let head : Word := BitVec.ofNat 32 (e.kind * 2 ^ 28 + (if e.kind = 3 then 5 else 1) * 2 ^ 20)
  [head, BitVec.ofNat 32 e.gang, BitVec.ofNat 32 e.off, BitVec.ofNat 32 e.mask, d 0, d 1, d 2, d 3] ::
    (if e.kind = 3 then (List.range 4).map fun k => 0 :: (List.range 7).map fun i => d (4 + 7 * k + i) else [])

/-- Bytes of a context's structures written where their address translates. -/
def State.putCtxBytes (s : State) (ctx va : Nat) (bs : List Byte) : State :=
  match s.ctxPhys ctx va true with
  | some pa => s.writePhys ctx none pa bs
  | none => s
/-- The physical places of bytes of a context's structures, where all can be written. -/
def State.placeBytes (s : State) (ctx : Nat) : List (Nat × List Byte) → Option (List (Nat × List Byte))
  | [] => some []
  | q :: qs => match s.ctxPhys ctx q.1 true, State.placeBytes s ctx qs with
    | some a, some ps => some ((a, q.2) :: ps)
    | _, _ => none
/-- Bytes of a context's structures written, all of them; where one cannot be reached, the context is torn down with cause 3
(R447). -/
def State.writeOrTearDown (s : State) (ctx : Nat) (ws : List (Nat × List Byte)) : State :=
  match s.placeBytes ctx ws with
  | some ps => ps.foldl (fun s q => s.writePhys ctx none q.1 q.2) s
  | none => s.tearDown ctx 3
/-- Words 6 and 7 of the switch descriptor: the bytes in the arrival log, and OVF (R374). -/
def Ctx.alogHeadBytes (c : Ctx) : List (Nat × List Byte) :=
  [(c.swdesc.toNat + 24, bytesOfNat 4 c.alogHead.toNat), (c.swdesc.toNat + 28, bytesOfNat 4 (if c.alogOvf then 1 else 0))]
/-- An entry put in a context's log, unit by unit, and counted in its descriptor; one that does not fit sets OVF and
latches ARRIVAL_LOG_OVERFLOW against the agent (R380). Where the descriptor or the log cannot be reached, the context is torn
down (R447). -/
def State.appendLog (s : State) (ag : Agent) (va : Nat) (e : ArrivalEntry) : State :=
  let c := s.ctx ag.ctx
  match s.alogArea ag.ctx with
  | none => s.tearDown ag.ctx 3
  | some (base, size) =>
    let head := c.alogHead.toNat
    if c.alogOvf ∨ size < head + 32 * e.units.length then
      let full := { c with alogOvf := true }
      (((s.onCtx ag.ctx fun _ => full).onGang e.gang fun g => { g with overflowed := true }).latch
        ag causeArrivalLogOverflow (adr0 va) (adr1 va)).writeOrTearDown ag.ctx full.alogHeadBytes
    else
      let more := { c with alog := c.alog ++ [e], alogHead := c.alogHead + BitVec.ofNat 32 (32 * e.units.length) }
      (s.onCtx ag.ctx fun _ => more).writeOrTearDown ag.ctx
        ((e.units.zipIdx.map fun q => (base + head + 32 * q.2, bytesOfWords q.1)) ++ more.alogHeadBytes)

/-- A context's log without an entry that has been performed; an empty log starts again from 0 (R374, R380). -/
def State.dropEntry (s : State) (ctx : Nat) (e : ArrivalEntry) : State :=
  let s := s.onCtx ctx fun c => { c with alog := c.alog.erase e }
  if (s.ctx ctx).alog.isEmpty then
    let c := { s.ctx ctx with alogHead := 0, alogOvf := false }
    (s.onCtx ctx fun _ => c).writeOrTearDown ctx c.alogHeadBytes
  else s
/-- A logged push for a segment that holds a gang's FIFO again (R378). -/
def ArrivalEntry.pushesTo (e : ArrivalEntry) (g : Segment) : Bool := e.kind == 3 && e.gang == g.gang && e.off / segSize == g.lseg.toNat
/-- The head entry of a FIFO taken. A push that the gang's restore found no room for waits in the log, and enters then
(R211, R378). DESIGN CHOICE (log 24). -/
def State.popEntry (s : State) (cl seg : Nat) : State :=
  let s := s.onSegment cl seg fun g => { g with fifo := g.fifo.tail, head := g.head + 1 }
  let g := s.segment cl seg
  match (s.ctx g.ctx.toNat).alog.find? fun e => g.claimed && e.pushesTo g with
  | some e => (s.pushEntry cl seg (Vector.ofFn fun i => e.data.getD i.val 0)).dropEntry g.ctx.toNat e
  | none => s

/-! ## Commits (R269, R274, R329) -/

/-- A version committed: its masked bytes written as one write by its pool, then counted where a copy counts them. -/
def State.commitVersion (s : State) (v : Version) : State :=
  let s := (v.bytes.filter fun b => (s.stablePhys (v.line * 128 + b.1) 1).isNone).foldl (fun s b =>
    { s with mem := s.mem.write (v.line * 128 + b.1) b.2 }) (s.noteCode v.ctx (v.line * 128) 128)
  let s := ({ s with versions := s.versions.erase v }).evalMonitors (some v.die) (v.line * 128) 128
  let ag : Agent := { ctx := v.ctx, grid := v.grid, uid := v.uid, die := v.die }
  v.counted.foldl (fun s q =>
    let g := s.gang q.1
    if g.phase = .running then s.countOn ag (sramAddr g.cluster ((g.segOf q.2.1).getD 0) (q.2.1 % segSize)) q.2.1 q.2.2
    else s.appendLog ag (ownBase + q.2.1) { kind := 2, gang := q.1, off := q.2.1, mask := q.2.2, data := [] }) s

/-! ## One piece of an access -/

/-- The words of SRAM bytes as they stand before a store of a warp, or before a CPY or CPYPAR of it, kept until an OPFENCE:
R171 speaks of stores, and of a copy only that the OPFENCE covers it. DESIGN CHOICE (log 28). -/
def State.noteStale (s : State) (ag : Agent) (a n : Nat) : State :=
  let words := (List.range ((a + n + 3) / 4 - a / 4)).map fun i =>
    let p := (a / 4 + i) * 4
    { stamp := ag.stamp, place := p, old := BitVec.ofNat 32 (s.sram.readNat p 4) : StaleWord }
  s.onUid ag.uid fun w => { w with stale := w.stale ++ words }

/-- What a peer-scratch address leads to, for an access that pushes on a FIFO segment or one that does not (R204). -/
def State.peerLoc (s : State) (ctx : Nat) (push : Bool) (va cl o : Nat) : Loc :=
  match s.peerTarget ctx cl o with
  | .sram a => .sram a
  | .saved h off fifo => if fifo && push then .pushLog h (off / segSize) else .logged h off
  | .fifo k seg => if push then .fifo k seg else .refused causeFifoAccess va
  | .refused => .refused causePeerScratch va
/-- Where a piece is now: the gang of peer scratch may have been saved or restored since issue (R204). -/
def State.locNow (s : State) (ctx : Nat) (push : Bool) (p : Piece) : Loc :=
  match windowOf p.va with
  | .peer cl o => s.peerLoc ctx push p.va cl o
  | _ => p.loc

/-- The bytes of a piece as the agent reads them; what is refused gives 0 (R204). -/
def State.readPiece (s : State) (ag : Agent) (p : Piece) (kept : List (Nat × List Byte) := []) : List Byte :=
  match s.locNow ag.ctx false p with
  | .phys a => s.readPhys ag a p.len kept
  | .sram a => s.sram.readBytes a p.len
  | _ => List.replicate p.len 0

/-- Bytes written to a piece. A checked run holds its global writes; a shadow or tiebreak writes no
scratch (R327, R333); a write of the primary outside the version store marks its span (R336). -/
def State.writePiece (s : State) (ag : Agent) (p : Piece) (bs : List Byte) : State :=
  let mark (peer : Bool) (s : State) : State :=
    if ag.role = 1 then s.onUid ag.uid fun w => { w with span := { w.span with scratch := true, escaped := w.span.escaped || peer } }
    else s
  let peer := decide (peerBase ≤ p.va)
  match s.locNow ag.ctx false p with
  | .phys a =>
    if ag.role = 0 then s.writePhys ag.ctx (some ag.die) a bs else s.holdBytes ag p.va a bs
  | .sram a => if 2 ≤ ag.role then s else mark peer ((s.noteStale ag a bs.length).writeSram a bs)
  | .logged g off =>
    if 2 ≤ ag.role then s
    else mark true (s.appendLog ag p.va
      { kind := 0, gang := g, off := off, mask := 2 ^ bs.length - 1
        data := (List.range 4).map fun i => BitVec.ofNat 32 (wordOfBytes ((bs.drop (4 * i)).take 4)) })
  | .refused c va => if 2 ≤ ag.role then s else s.latch ag c (adr0 va) (adr1 va)
  | .fifo _ _ | .pushLog _ _ => s

/-- Bytes shared out over the pieces they go to. -/
def State.writePieces (s : State) (ag : Agent) : List Piece → List Byte → State
  | [], _ => s
  | p :: ps, bs => State.writePieces (s.writePiece ag p (bs.take p.len)) ag ps (bs.drop p.len)

/-- An arrival by peer address on the object at a cluster's offset (R204, R287, R295): failures are
latched with the function number or the address. -/
def State.peerArrive (s : State) (ag : Agent) (cl off : Nat) : State :=
  let va := peerBase + cl * sramSize + off
  match s.peerTarget ag.ctx cl off with
  | .sram a => match s.arrive a with
    | (t, none) => t
    | (t, some c) => t.latch ag c (BitVec.ofNat 32 off) 1
  | .fifo _ _ => s.latch ag causeFifoAccess (adr0 va) (adr1 va)
  | .saved g o _ => s.appendLog ag va { kind := 1, gang := g, off := o, mask := 0, data := [] }
  | .refused => s.latch ag causePeerScratch (adr0 va) (adr1 va)

end Sys2Proof.Machine
end

