-- ==== Sys2Proof/Machine/Requests.lean ====
section
/-! DEFINITION. How the tokens of a line are obtained: transient and persistent requests, what a holder does with the
tokens that reach it, the recovery of a line, and what an access needs before it is performed (R217, R218, R229, R235,
R239 to R257). -/

namespace Sys2Proof.Machine

/-! ## Persistent entries (R239 to R243) -/

def State.preq (s : State) (d r : Nat) : Option PReq := SMap.find s.preqs (256 * d + r)
/-- The active entry of a stack's table for a line, with its requester. -/
def State.activeEntry (s : State) (d x : Nat) : Option (Nat × PReq) :=
  s.preqs.findSome? fun q => if q.1 / 256 = d ∧ q.2.act ∧ q.2.line = x then some (q.1 % 256, q.2) else none
/-- The holder that the tokens of an entry go to. -/
def PReq.target (e : PReq) : Nat := if e.toHome then homeOf e.ddie else poolOf e.ddie
/-- Everything a holder has of a line sent to the target of the active entry (R243); a recovery takes data with
the owner token only where it is dirty, as the home has the memory copy (R257). -/
def State.forwardTok (s : State) (h x r : Nat) (e : PReq) : State :=
  let t := s.tok h x
  if t.tok = 0 ∨ h = e.target ∨ (h = r ∧ isCluster h) then s
  else (s.setTok h x {}).sendTok (tokMsg x h e.target r t.tok t.owner t.dirty t.owner e.ctx)

/-- A transient request sent to the home, the other pools and, from a pool, the clusters of its die (R235). -/
def State.broadcast (s : State) (q : CohReq) : State :=
  let type := if q.bypass then 2 else if q.write then 1 else 0
  let d := dieOfHolder q.holder
  let dest := (homeHolder q.line :: (List.range 4).map poolOf ++ (if q.holder < 196 then s.cachingOf d else [])).filter (· != q.holder)
  let s := if 192 ≤ q.holder ∧ q.holder < 196 ∧ ¬ q.bypass then s.countSlice d q.line 35 q.ctx 1 else s
  dest.foldl (fun s h => s.sendTok { type := type, line := q.line, src := q.holder, dst := h, req := q.req, ctx := q.ctx }) s
/-- A request kept as outstanding, and one that is also sent (R235). -/
def State.keepReq (s : State) (q : CohReq) : State := { s with cohReqs := s.cohReqs ++ [q] }
def State.request (s : State) (q : CohReq) : State := (s.keepReq q).broadcast q
/-- A pool whose last token a monitor needs asks for another at once, for the monitor logic of its stack (R233, R253). -/
def State.reacquire (s : State) (h x : Nat) : State :=
  if h < 192 ∨ 196 ≤ h ∨ (s.tok h x).tok ≠ 0 ∨ ¬ s.armed (h - 192) x ∨ s.cohReqs.any (fun q => q.holder == h && q.req == h && q.line == x && !q.write)
  then s
  else
    let ctx := ((s.allWarps.find? fun w => match w.park with
      | .monitor p _ _ _ polled => !polled && w.die == h - 192 && p / 128 == x
      | _ => false).map fun (w : Warp) => w.ctx).getD 0xFFF
    s.request { holder := h, req := h, line := x, ctx := ctx }

/-- The next entry that an arbiter activates: a recovery first, else in rotation from `i` (R242, R257). -/
def State.nextEntryFor (s : State) (x i : Nat) : Option Nat :=
  let d := homeDie x
  let order := (List.range 196).map fun k => (i + k) % 196
  let waiting (p : PReq → Bool) : Option Nat := order.find? fun r => match s.preq d r with
    | some e => !e.act && e.line == x && p e
    | none => false
  (waiting fun e => e.rec_).or (waiting fun _ => true)
/-- A waiting entry activated, if no other is active for the line: PACT to all four tables (R241). -/
def State.activate (s : State) (x i : Nat) : State :=
  if s.arbiters.any fun a => a.line == x then s
  else match s.nextEntryFor x i with
    | none => s
    | some r =>
      let d := homeDie x
      let e := (s.preq d r).getD {}
      (List.range 4).foldl (fun s k => s.sendTok
        { type := 7, line := x, src := d, dst := poolOf k, req := r, rd := e.rd, rec_ := e.rec_, ddie := e.ddie, toHome := e.toHome, ctx := e.ctx })
        { s with arbiters := s.arbiters ++ [{ line := x, req := r }] }
/-- An arbiter whose requester has been served and whose PACTs are acknowledged sends PDEACT (R241). -/
def State.deactivate (s : State) (x : Nat) : State :=
  match s.arbiters.find? fun a => a.line == x && a.done && !a.clearing && a.acks == 4 with
  | none => s
  | some a =>
    let ctx := ((s.preq (homeDie x) a.req).getD {}).ctx
    (List.range 4).foldl (fun s k => s.sendTok { type := 9, line := x, src := homeDie x, dst := poolOf k, req := a.req, ctx := ctx })
      { s with arbiters := s.arbiters.map fun (b : Arbiter) => (if b.line = x then { b with clearing := true, acks := 0 } else b) }

/-! ## Recovery (R257) -/

/-- Whether a requester identifier has a persistent request in the device (R240). -/
def State.persistentInUse (s : State) (r : Nat) : Bool :=
  (List.range 4).any (fun k => (s.preq k r).isSome) || s.cohReqs.any (fun p => p.req == r && p.persistent)
    || s.cohMsgs.any fun m => (m.type == 6 || m.type == 8) && m.req == r
/-- The recoveries that can be entered: each raises a persistent write with REC = 1 for its home's stack, whose
entry must be free (R240). -/
def State.enterRecoveries (s : State) : State :=
  s.recoveries.foldl (fun s x =>
    let d := homeDie x
    if s.persistentInUse (192 + d) then s
    else
      { s with
        preqs := SMap.put s.preqs (256 * d + 192 + d) { rec_ := true, ddie := d, line := x, toHome := true }
        recoveries := s.recoveries.erase x }.activate x 0) s
/-- A line's token count has become unknown: its home recovers it. An entry active for it gives way, and its requester's
request is transient again. -/
def State.recover (s : State) (x : Nat) : State :=
  if s.recoveries.contains x ∨ (s.preq (homeDie x) (192 + homeDie x)).any (fun e => e.rec_ && e.line == x) then s
  else
    let active := s.arbiters.filterMap fun a => if a.line = x then some a.req else none
    let s := { s with
      recoveries := s.recoveries ++ [x]
      cohReqs := s.cohReqs.map fun (q : CohReq) => (if q.line = x ∧ active.contains q.req then { q with persistent := false, tries := 0 } else q)
      arbiters := s.arbiters.map fun (a : Arbiter) => (if a.line = x then { a with done := true } else a) }
    s.enterRecoveries.deactivate x

/-! ## Requests that are served -/

/-- The end of a request: a persistent one reports to its arbiter with PDONE (R241). -/
def State.endReq (s : State) (q : CohReq) : State :=
  let s := { s with cohReqs := s.cohReqs.erase q }
  if q.persistent then s.sendTok { type := 8, line := q.line, src := q.holder, dst := poolOf (homeDie q.line), req := q.req, ctx := q.ctx } else s
/-- The requests of a kind ended. -/
def State.endReqs (s : State) (p : CohReq → Bool) : State := (s.cohReqs.filter p).foldl State.endReq s
/-- The bytes of a line as memory now gives them, for a DATAB. -/
def State.lineBytes (s : State) (x : Nat) : List Byte := s.mem.readBytes (128 * x) 128
/-- Data without tokens sent to a holder. -/
def State.sendData (s : State) (x src dst req ctx : Nat) (bs : List Byte) : State :=
  s.sendTok { type := 5, line := x, src := src, dst := dst, req := req, ctx := ctx, data := bs }

/-- What a pool answers to a cluster's read (R246), if it can. -/
def State.grantRead (s : State) (h cl x ctx : Nat) : Option State :=
  let t := s.tok h x
  let give (n : Nat) (owner : Bool) : State :=
    (s.setTok h x { t with tok := t.tok - n, owner := t.owner && !owner }).sendTok (tokMsg x h cl cl n owner t.dirty true ctx)
  if t.tok = 0 ∨ !t.valid then none
  else if t.tok = 256 ∧ ¬ s.armed (dieOfHolder h) x then some (give 256 true)
  else if 2 ≤ t.tok then some (give 1 false)
  else if s.armed (dieOfHolder h) x then some (s.sendData x h cl cl ctx (s.lineBytes x))
  else some (give 1 t.owner)

/-- The requests of a pool or home that end with the tokens it now holds (R229, R246): a cluster's read is answered, and
the monitor logic reads again (R253). The others end when their access is performed. DEDUCED (log 35). -/
def State.serveReqs (s : State) (h x : Nat) : State :=
  (s.cohReqs.filter fun q => q.holder == h && q.line == x && !q.write && !q.bypass).foldl (fun s q =>
    let blocked := match s.activeEntry (dieOfHolder h) x with
      | some (r, e) => r != q.req || !e.rd
      | none => false
    if q.relayed then
      if blocked then s
      else match (s.useLine h x q.hint).grantRead h q.req x q.ctx with
        | some u => (u.endReq q).reacquire h x
        | none => s
    else if q.req = h ∧ s.mayRead h x then ((s.useLine h x q.hint).endReq q).evalLines (dieOfHolder h) [x]
    else s) s

/-- Tokens that arrive at a pool or home, then what they serve or where they must go on to (R243, R247). A count past
256 is a tag error (R228). What is left of a line that is not allocated goes to its home (R217), as do the tokens of a
quarantined page, where they end (R257). -/
def State.takeTok (s : State) (h : Nat) (m : CohMsg) : State :=
  let x := m.line
  let active := s.activeEntry (dieOfHolder h) x
  if (SMap.find s.quarantine (128 * x / 4096)).isSome ∧ active.isNone then
    if 196 ≤ h then s else s.sendTok { m with type := if cohData m.type then 11 else 12, src := h, dst := homeHolder x }
  else if 196 ≤ h ∧ (SMap.find s.quarantine (128 * x / 4096)).isSome then s
  else
    let t := s.tok h x
    if 256 < t.tok + m.tok then s.recover x
    else
      let asking := s.cohReqs.filter fun q => q.holder == h && q.line == x
      let hint : BitVec 2 := match asking.find? fun q => q.hint != 3 with
        | some q => q.hint
        | none => if asking.isEmpty then 1 else 3
      let kept := (SMap.find s.retention (256 * x + h)).isSome
      let s := s.setTok h x
        { valid := t.valid || cohData m.type
          dirty := if m.owner then m.dirty else t.dirty
          owner := t.owner || m.owner
          tok := t.tok + m.tok }
      let s := if kept then s else s.useLine h x hint
      let s := s.serveReqs h x
      match s.activeEntry (dieOfHolder h) x with
      | some (r, e) => (s.forwardTok h x r e).reacquire h x
      | none => s.leaveLine h x

/-- Tokens that arrive at a cluster: kept for the reads that asked, sent on to its pool otherwise or with hint 3 (R217,
R245), or while the line is recovered (R257). DEDUCED (log 35). -/
def State.clusterTok (s : State) (cl : Nat) (m : CohMsg) : State :=
  let x := m.line
  let back (s : State) : State := s.sendTok { m with type := if m.type = 3 then 11 else 12, src := cl, dst := poolOf (dieOfHolder cl) }
  let asked (q : CohReq) : Bool := q.holder == cl && q.line == x && q.data.isEmpty
  let lost := (SMap.find s.quarantine (128 * x / 4096)).isSome || (s.activeEntry (dieOfCluster cl) x).any fun e => e.2.rec_
  match s.cohReqs.find? asked with
  | some q =>
    let s := { s with cohReqs := s.cohReqs.filter fun q => !asked q }
    if s.caching cl && !lost then (s.setTok cl x ⟨true, m.dirty, m.owner, m.tok⟩).useLine cl x q.hint else back s
  | none => back s

/-! ## Asking for a line (R217, R218, R229, R235, R249, R250, R262) -/

/-- Who reads or writes lines: the cluster, its die, the requester identifier, whether it acts at the pool or at the
homes only, the context, the retention hint and the order of the access. -/
structure TokUser where
  cl : Option Nat := none
  die : Nat := 0
  req : Nat := 0
  pool : Bool := false
  home : Bool := false
  ctx : Nat := 0xFFF
  hint : BitVec 2 := 1
  stamp : Nat := 0
  deriving DecidableEq, Repr

/-- The accesses of a cluster, and those that its engine or a tile update makes at the pool; what Hazel commits on a die
and its monitor logic reads; and the writes that a home performs (R233, R249, R250). -/
def clusterUser (cl ctx : Nat) (hint : BitVec 2) : TokUser := { cl := some cl, die := dieOfCluster cl, req := cl, ctx := ctx, hint := hint }
def poolUser (cl ctx : Nat) (hint : BitVec 2) : TokUser := { clusterUser cl ctx hint with pool := true }
def stackUser (die ctx : Nat) : TokUser := { die := die, req := poolOf die, pool := true, ctx := ctx }
def homeUser (x : Nat) : TokUser := { die := homeDie x, req := poolOf (homeDie x), home := true }

/-- The holder at which a read is made (R208, R217, R235). -/
def TokUser.reader (u : TokUser) (s : State) (x : Nat) : Nat :=
  match u.cl with
  | some cl => if u.pool || u.hint == 3 || !s.caching cl then poolOf u.die else cl
  | none => if u.home then homeHolder x else poolOf u.die
/-- The holder that performs a write (R217, R249, R250): the cluster that holds the line in M, a home for a store with
hint 3 that its pool misses, else the pool. -/
def TokUser.writer (u : TokUser) (s : State) (x : Nat) : Nat :=
  match u.cl with
  | some cl =>
    if u.pool then poolOf u.die
    else if s.mayWrite cl x then cl
    else if u.hint = 3 ∧ (s.tok (poolOf u.die) x).tok = 0 then homeHolder x
    else poolOf u.die
  | none => if u.home then homeHolder x else poolOf u.die
/-- Whether a store of the reader's cluster to the line has been sent and is not performed, so that its load is held
(R262). -/
def State.storeSent (s : State) (u : TokUser) (x : Nat) : Bool :=
  !u.pool && s.allWarps.any fun w => u.cl == some w.cluster && w.park != .vacant && w.out.any fun a => a.sent.contains x

/-- The miss registers in use at a slice of a pool: reads of one line share one (R218). -/
def State.missRegisters (s : State) (h slice : Nat) : Nat :=
  ((s.cohReqs.filter fun q => q.holder == h && poolSlice q.line == slice && !q.write && !q.bypass).map (·.line)).eraseDups.length
/-- Whether a slice's filter of 64 pending writes has no place for a line (R218). -/
def State.filterFull (s : State) (h x : Nat) : Bool :=
  let lines := ((s.cohReqs.filter fun q => q.holder == h && poolSlice q.line == poolSlice x && q.write).map (·.line)).eraseDups
  decide (192 ≤ h) && decide (h < 196) && decide (64 ≤ lines.length) && !lines.contains x
/-- A read that a pool or home misses (R218): it joins a read of the line under way, takes one of a slice's 128 miss
registers, waits for a pending write of the line, or bypasses. -/
def State.missRead (s : State) (q : CohReq) : State :=
  let here (p : CohReq) : Bool := p.holder == q.holder && p.line == q.line
  if s.cohReqs.any fun p => here p && !p.write && !p.bypass then s.keepReq q
  else if 196 ≤ q.holder ∨ s.missRegisters q.holder (poolSlice q.line) < 128 then s.request q
  else if s.cohReqs.any fun p => here p && p.write then s.keepReq q
  else s.request { q with bypass := true }

/-- What a read of a line finds: it must wait, it may read now, or it has the bytes that were brought for it. -/
inductive LineRead where
  | wait
  | now
  | kept (bytes : List Byte)
  deriving DecidableEq, Repr

/-- A line asked for by a read that could be performed now (R229, R235, R245, R262). Where it may, the line is used and
the reader's request ends; else its request is begun. -/
def State.askRead (s : State) (u : TokUser) (x : Nat) : State × LineRead :=
  if !tokenLine x then (s, .now)
  else if s.storeSent u x then (s, .wait)
  else
    let h := u.reader s x
    let mine (q : CohReq) : Bool :=
      q.holder == h && q.req == u.req && q.line == x && !q.write && !q.relayed && (q.data.isEmpty || q.stamp == u.stamp)
    if s.mayRead h x then ((((s.endReqs mine).useLine h x u.hint).leaveLine h x), .now)
    else match s.cohReqs.find? mine with
      | some q => if q.data.isEmpty then (s, .wait) else ({ s with cohReqs := s.cohReqs.erase q }, .kept q.data)
      | none =>
        let q : CohReq := { holder := h, req := u.req, line := x, cl := u.cl, ctx := u.ctx, hint := u.hint, stamp := u.stamp }
        (if isCluster h then s.keepReq q else s.missRead q, .wait)
/-- A line asked for by a write that could be performed now (R217, R229, R235, R249, R250). Where it may, the line is
dirty, and the writer's requests end, at whichever holder they were begun; else its request is begun, if the slice's filter has room. -/
def State.askWrite (s : State) (u : TokUser) (x : Nat) : State × Bool :=
  if !tokenLine x then (s, true)
  else
    let h := u.writer s x
    let req := if 196 ≤ h then poolOf (homeDie x) else u.req
    let mine (q : CohReq) : Bool := q.holder == h && q.req == req && q.line == x && q.write
    let served (q : CohReq) : Bool := mine q || (u.cl.isSome && q.cl == u.cl && q.line == x && q.write)
    if s.mayWrite h x then ((((s.endReqs served).dirtyLine h x).useLine h x u.hint).leaveLine h x, true)
    else if s.cohReqs.any mine || s.filterFull h x then (s, false)
    else (s.request { holder := h, req := req, line := x, write := true, cl := u.cl, ctx := u.ctx, hint := u.hint }, false)

/-- Lines asked for by a read: those that were found, and the bytes of those that were brought for it (R245). -/
def State.askEach (s : State) (u : TokUser) (lines : List Nat) : State × List Nat × List (Nat × List Byte) :=
  lines.foldl (fun (x : State × List Nat × List (Nat × List Byte)) l =>
    match x.1.askRead u l with
    | (t, .now) => (t, x.2.1 ++ [l], x.2.2)
    | (t, .kept bs) => (t, x.2.1 ++ [l], x.2.2 ++ [(l, bs)])
    | (t, .wait) => (t, x.2)) (s, [], [])
/-- Lines asked for by a read, all of them: the bytes of those that were brought for it, or that it must wait. -/
def State.askReads (s : State) (u : TokUser) (lines : List Nat) : State × Option (List (Nat × List Byte)) :=
  let r := s.askEach u lines
  (r.1, if r.2.1.length = lines.length then some r.2.2 else none)
/-- Lines asked for by writes that may be performed each by itself: those that may be written now. -/
def State.grantWrites (s : State) (u : TokUser) (lines : List Nat) : State × List Nat :=
  lines.foldl (fun (x : State × List Nat) l => match x.1.askWrite u l with
    | (t, true) => (t, x.2 ++ [l])
    | (t, false) => (t, x.2)) (s, [])
/-- Lines asked for by a write, all of them: each is marked only where every one may be written. -/
def State.askWrites (s : State) (u : TokUser) (lines : List Nat) : State × Bool :=
  let can (l : Nat) : Bool := !tokenLine l || s.mayWrite (u.writer s l) l
  if lines.all can then (lines.foldl (fun s l => (s.askWrite u l).1) s, true)
  else (lines.foldl (fun s l => if can l then s else (s.askWrite u l).1) s, false)

/-- Lines asked for by writes that the homes perform for an engine of the machine, all of them (R249, R251). -/
def State.askHomes (s : State) (ctx : Nat) (lines : List Nat) : State × Bool :=
  let can (l : Nat) : Bool := !tokenLine l || s.mayWrite (homeHolder l) l
  let ask (s : State) (l : Nat) : State := (s.askWrite { homeUser l with ctx := ctx } l).1
  if lines.all can then (lines.foldl ask s, true) else (lines.foldl (fun s l => if can l then s else ask s l) s, false)

/-- What a read has asked for and no longer needs: the bytes that have come for it are dropped, and those still to come are
for none (R245). -/
def State.forget (s : State) (stamp : Nat) : State :=
  { s with cohReqs := (s.cohReqs.filter fun q => q.stamp != stamp || q.data.isEmpty).map fun (q : CohReq) =>
      (if q.stamp = stamp then { q with stamp := 0 } else q) }
/-- The order numbers of the reads that a warp makes at issue, and for its monitor: those of no access. -/
def Warp.readStamp (w : Warp) : Nat := 2 ^ 64 + 2 * w.uid
def Warp.monitorStamp (w : Warp) : Nat := 2 ^ 64 + 2 * w.uid + 1

/-- A state with the requests that another has begun from it, and what they did to the lines: what a group that must wait
for a line leaves behind. -/
def State.withRequests (s t : State) : State :=
  { s with fresh := t.fresh, toks := t.toks, retention := t.retention, memCopy := t.memCopy, cohMsgs := t.cohMsgs, cohReqs := t.cohReqs
           preqs := t.preqs, arbiters := t.arbiters, recoveries := t.recoveries
           l2pmc := t.l2pmc, l2pmcsel := t.l2pmcsel, dev := { s.dev with blame := t.dev.blame, msix := t.dev.msix } }

/-! ## Commits (R255, R329, R330) -/

/-- A version committed where its pool holds the line, for its stack's Hazel; else its request is begun. -/
def State.tryCommit (s : State) (v : Version) : State :=
  match s.askWrite (stackUser v.die v.ctx) v.line with
  | (t, true) => t.commitVersion v
  | (t, false) => t
/-- The RELEASE policy (R330): the versions of the context's oldest unverified primary span on the die are
committed as if verified, as their tokens come and the lines of the store that ends the span after the others (R275); the
span is marked released, and a RELEASED_SPAN record is written. -/
def State.releaseOldest (s : State) (ag : Agent) : State :=
  let verified (v : Version) : Bool := s.votes.any fun x => x.primary.uid == v.uid && x.span == v.span && x.winner.isSome
  match s.versions.find? fun v => v.die == ag.die && v.ctx == ag.ctx && v.role == 1 && !verified v with
  | none => s
  | some v =>
    let w := (s.warpOf v.uid).getD {}
    let current := decide (w.regs.spanno = v.span)
    let done := s.votes.any (fun x => x.primary.uid == v.uid && x.span == v.span && x.released) || (current && w.span.released)
    let mine (s : State) : List Version := s.versions.filter fun x => x.uid == v.uid && x.span == v.span
    let here (last : Bool) (s : State) : State :=
      ((mine s).filter fun x => x.die == ag.die && x.last == last).foldl State.tryCommit s
    let s := here false s
    let s := if (mine s).any fun x => !x.last then s else here true s
    if done then s
    else
      let s := { s with votes := s.votes.map fun (x : Vote) => (if x.primary.uid = v.uid ∧ x.span = v.span then { x with released := true } else x) }
      let s := s.onUid v.uid fun w => if w.regs.spanno = v.span then { w with span := { w.span with released := true } } else w
      s.report (s.gridRec v.grid 6 1 (s.spanWords w v.span [some w.regs.coreid.toNat] 0 w.span.escaped w.span.scratch true))
/-- Whether the version store takes lines of a held run; under RELEASE the oldest span gives way where the lines would pass
the context's quota or the die's limit, and not where only other runs' versions of a line are in the way (R328, R330). -/
def State.makeRoomFor (s : State) (ag : Agent) (lines : List Nat) : State × Bool :=
  if ag.role = 0 ∨ lines.isEmpty ∨ s.roomFor ag lines then (s, true)
  else
    let t := if (s.vsctx ag.die ag.ctx).testBit 31 && !s.withinQuota ag lines then s.releaseOldest ag else s
    (t, t.roomFor ag lines)

end Sys2Proof.Machine
end

