-- ==== Sys2Proof/Machine/Hazard.lean ====
section
/-! DEFINITION. The regions of matrix entries in flight: reading and writing them, and the hazard of an
access that touches them (R93, R171 to R173, R184). -/

namespace Sys2Proof.Machine

/-! ## Free values in a region -/

/-- `n` free bytes, and `n` free words, from the next index on. -/
def State.freeBytes (s : State) (n : Nat) : List Byte := (List.range n).map fun i => Config.freeByte (s.fresh + i)
def State.freeWords (s : State) (n : Nat) : List Word := (List.range n).map fun i => Config.freeWord (s.fresh + i)

/-! ## Tiles (R93) -/

/-- Element (i, j) of the tile whose first entry is `base`. -/
def Regs.tileAt (r : Regs) (base i j : Nat) : Word := (r.entry (base + 4 * i + j / 32)).get ⟨j % 32, Nat.mod_lt _ (by decide)⟩
/-- Every element of a tile written. -/
def Regs.setTile (r : Regs) (base : Nat) (f : Nat → Nat → Word) : Regs :=
  (List.range 512).foldl (fun r k =>
    r.setEntry (base + k) (Vector.ofFn fun l => f (k / 4) (32 * (k % 4) + l.val))) r

/-! ## Scratch by logical offset -/

/-- The SRAM byte of a logical scratch offset of a gang, and the offset of an SRAM byte. -/
def Gang.place (g : Gang) (o : Nat) : Nat := sramAddr g.cluster ((g.segOf o).getD 0) (o % segSize)
def Gang.offsetOf (g : Gang) (a : Nat) : Option Nat :=
  if a / sramSize = g.cluster then
    (g.segs.findIdx? fun x => x == a % sramSize / segSize).map fun j => j * segSize + a % segSize
  else none

/-- Up to `unit` bytes cut at the next boundary of `unit` bytes: address and length of each part. -/
def cutParts (unit va n : Nat) : List (Nat × Nat) :=
  let first := min n (unit - va % unit)
  if n ≤ first then [(va, n)] else [(va, first), (va + first, n - first)]
/-- Bytes cut at page boundaries. -/
def pageParts (va n : Nat) : List (Nat × Nat) := cutParts 4096 va n
/-- Bytes from `va` up cut into the lines that they lie in, each with its number. -/
def lineParts (va n : Nat) : List (Nat × Nat × Nat) :=
  (List.range ((va + n - 1) / 128 - va / 128 + 1)).map fun i =>
    let lo := max va ((va / 128 + i) * 128)
    (i, lo, min (va + n) ((va / 128 + i + 1) * 128) - lo)
/-- The spans of a region, cut at page boundaries. -/
def Region.spans (r : Region) : List (Nat × Nat) := (List.range r.rows).map fun i => (r.base + i * r.pitch, r.len)
def Region.parts (r : Region) : List (Nat × Nat) := r.spans.flatMap fun p => pageParts p.1 p.2
/-- Whether bytes overlap a region, by address or offset. -/
def Region.hits (r : Region) (a n : Nat) : Bool :=
  r.spans.any fun p => decide (p.1 < a + n) && decide (a < p.1 + p.2)

/-- The warp of an entry as the agent of its accesses; one whose grid is lost has none (R407). -/
def State.entryAgent (s : State) (e : MEntry) : Agent :=
  match s.warpOf e.uid with
  | some w => { w.agent with stamp := e.id }
  | none => { ctx := e.ctx, grid := (s.gang e.gang).grid, uid := e.uid, die := dieOfCluster (clusterOfCore e.core), stamp := e.id }
/-- The registers that an entry stores a tile from. -/
def State.entryRegs (s : State) (e : MEntry) : Regs :=
  match s.warpOf e.uid with
  | some w => w.regs
  | none => ({} : Regs).setTile e.src fun i j => e.tile.getD (128 * i + j) 0
/-- Where an address of an entry's global region lies: by the pages of its start, or before it by translation (R197). -/
def State.entryXlate (s : State) (e : MEntry) (va : Nat) (want : Want) : Option Nat :=
  match e.pages with
  | some m => (SMap.find m (va / 4096)).map fun p => p * 4096 + va % 4096
  | none => match s.translate e.ctx va want with
    | .phys a => some a
    | _ => none

/-- Bytes written by an agent to a region of an entry, `f i k` the byte `k` of span `i`: global spans page by page, but
for pages that do not translate, and scratch spans segment by segment (R199). -/
def State.writeRegionAs (s : State) (ag : Agent) (e : MEntry) (r : Region) (f : Nat → Nat → Byte) : State :=
  (List.range r.rows).foldl (fun s i =>
    let a := r.base + i * r.pitch
    (cutParts (if r.global then 4096 else segSize) a r.len).foldl (fun s p =>
      let bs := (List.range p.2).map fun k => f i (p.1 - a + k)
      if r.global then
        match s.entryXlate e p.1 .write with
        | some pa => s.writePiece ag ⟨.phys pa, p.1, p.2⟩ bs
        | none => s
      else s.writeSram ((s.gang e.gang).place p.1) bs) s) s
/-- Bytes written by an entry. -/
def State.writeRegion (s : State) (e : MEntry) (r : Region) (f : Nat → Nat → Byte) : State :=
  s.writeRegionAs (s.entryAgent e) e r f

/-! ## Hazards (R173) -/

/-- A region whose entry also reads it, as a TADDST's, without the pages that do not translate for a read: no byte of
those changes (R197). -/
def State.readable (s : State) (e : MEntry) (r : Region) : List Region :=
  if r.global ∧ e.reads.contains r then
    r.parts.filterMap fun p => (s.entryXlate e p.1 .read).map fun _ => { r with base := p.1, pitch := 0, len := p.2, rows := 1 }
  else [r]
/-- The written regions of an entry filled with free values. -/
def State.scramble (s : State) (e : MEntry) : State :=
  let n := 16384 * 4
  let s := match e.dst with
    | some d =>
      let f (i j : Nat) : Word := Config.freeWord (s.fresh + 128 * i + j)
      (s.onUid e.uid fun w =>
        let r := w.regs.setTile d f
        { w with regs := r, flights := w.flights.map fun (x : MEntry) => (if x.id = e.id ∧ x.tile ≠ [] then { x with tile := r.tileWords d } else x) }).tick n
    | none => s
  (e.writes.flatMap (s.readable e)).foldl (fun s r =>
    (s.writeRegion e r fun i k => Config.freeByte (s.fresh + r.len * i + k)).tick (r.len * r.rows)) s

/-- Whether bytes of physical memory are bytes of a global region, by whatever address they are reached. -/
def State.regionHits (s : State) (e : MEntry) (r : Region) (a n : Nat) : Bool :=
  r.parts.any fun q => match s.entryXlate e q.1 (if e.reads.contains r then .read else .write) with
    | some b => decide (b < a + n) && decide (a < b + q.2)
    | none => false
/-- Whether a piece of an access touches an entry's regions. -/
def State.pieceHits (s : State) (e : MEntry) (p : Piece) : Bool :=
  (e.reads ++ e.writes).any fun r =>
    match p.loc with
    | .phys a => r.global && (r.hits p.va p.len || s.regionHits e r a p.len)
    | .sram a => !r.global && (match (s.gang e.gang).offsetOf a with
        | some o => r.hits o p.len
        | none => false)
    | _ => false
/-- The entries of a warp that have been put in a queue: a shadow or tiebreak puts none there (R333). -/
def Warp.queued (w : Warp) : List MEntry := if 2 ≤ w.regs.chkrole.toNat then [] else w.flights
/-- The entries in flight for which `hit` holds are touched: an entry that has completed has its written
regions undefined at once, another when it completes. DEDUCED (log 28). -/
def State.markHazard (s : State) (hit : MEntry → Bool) : State :=
  let es := (s.allWarps.flatMap Warp.queued).filter hit
  let s := s.mapWarps fun w => { w with flights := w.flights.map fun (e : MEntry) => (if hit e then { e with hazard := true } else e) }
  es.foldl (fun s e => if e.done then s.scramble e else s) s
/-- The links that an access from a die crosses on its way to a place: that to the host is on die 0, and so are the fabric
ports, of which any of a peer's may be taken (R14, R15, R453). -/
def State.linksTo (s : State) (die : Nat) : Loc → List Nat
  | .sram a => linkPath (Config.freeChoice s.fresh) die (dieOfCluster (a / sramSize))
  | .fifo cl _ => linkPath (Config.freeChoice s.fresh) die (dieOfCluster cl)
  | .phys a =>
    if isHost a then linkPath (Config.freeChoice s.fresh) die 0
    else if isPeer a then
      let ports := (List.range 8).filter (SMap.get s.peers ((a - 2 ^ 51) / 2 ^ 42) {}).ports.getLsbD
      linkPath (Config.freeChoice s.fresh) die 0 ++ (ports[Config.freeChoice (s.fresh + 1) % max 1 ports.length]?.map (4 + ·)).toList
    else []
  | _ => []
/-- The headers of an access that crosses links, kept for their replay windows (R410). -/
def State.noteHeaders (s : State) (ag : Agent) (ps : List Piece) : State :=
  let links := (ps.flatMap fun p => s.linksTo ag.die p.loc).eraseDups
  if links.isEmpty then s else (s.tick 2).noteLinks ag.ctx links
/-- An access of an agent sends its headers, and touches matrix regions: the state after, and whether it did. The accesses of the
entry's own warp count where they were issued after it. DEDUCED (log 28). -/
def State.touch (s : State) (ag : Agent) (ps : List Piece) : State × Bool :=
  let s := s.noteHeaders ag ps
  let hit (e : MEntry) : Bool := e.ctx == ag.ctx && (e.uid != ag.uid || decide (e.id < ag.stamp)) && ps.any (s.pieceHits e)
  if (s.allWarps.any fun w => w.queued.any hit) then (s.markHazard hit, true) else (s, false)

/-! ## What the array reads from scratch (R171) -/

/-- The word of SRAM that an entry reads: as it stands, or as it stood before a store of the warp that no
OPFENCE separates from the entry, unpredictably. DEDUCED (log 28). -/
def State.arrayWord (s : State) (e : MEntry) (w : Warp) (place : Nat) : Word :=
  let now := BitVec.ofNat 32 (s.sram.readNat place 4)
  let old := w.stale.filterMap fun x =>
    if x.place = place ∧ x.stamp ≤ e.id ∧ e.fence < x.stamp then some x.old else none
  let all := now :: old
  all.getD (Config.freeChoice (s.fresh + place) % all.length) now
/-- Byte `o` of the gang's scratch as the entry reads it. -/
def State.arrayByte (s : State) (e : MEntry) (w : Warp) (o : Nat) : Byte :=
  let a := (s.gang e.gang).place o
  (s.arrayWord e w (a / 4 * 4)).extractLsb' (8 * (a % 4)) 8

end Sys2Proof.Machine
end

