-- ==== Sys2Proof/Machine/Operands.lean ====
section
/-! DEFINITION. Operand forms: lane by lane, pairs, halves, partitions, immediates and the fields of the
encodings as numbers (R69 to R71, R140, R141). -/

namespace Sys2Proof.Machine

/-! ## Lanes -/

/-- A lane-wise function of one, two or three vectors. -/
def map1 (f : Word → Word) (a : Lanes) : Lanes := Vector.ofFn fun l => f a[l]
def map2 (f : Word → Word → Word) (a b : Lanes) : Lanes := Vector.ofFn fun l => f a[l] b[l]
def map3 (f : Word → Word → Word → Word) (a b d : Lanes) : Lanes := Vector.ofFn fun l => f a[l] b[l] d[l]

/-- The lane-wise pair of two vectors (R141). -/
def pairAt (lo hi : Lanes) (l : Fin 32) : DWord := pair lo[l] hi[l]

/-! ## Halves of a lane word -/

/-- Half `i` of a lane word as a number. -/
def half (w : Word) (i : Nat) : Nat := (w.extractLsb' (16 * i) 16).toNat
/-- A lane word from its halves. -/
def halves (lo hi : Nat) : Word := BitVec.ofNat 32 (lo % 65536 + 65536 * (hi % 65536))

/-- Half `i` as a floating-point value: FTZ16 applies, and the upper half of a marker is a signalling
NaN whatever its bits say (R50, R54). -/
def halfVal (f : Fmt) (env : FpEnv) (w : Word) (i : Nat) : FVal :=
  if i = 1 ∧ isMarker w then .nan true else ftzSrc f env.ftz (unpack f (half w i))
/-- Half `i` as its code after FTZ16. -/
def halfCode (f : Fmt) (env : FpEnv) (w : Word) (i : Nat) : Nat :=
  match ftzSrc f env.ftz (unpack f (half w i)) with
  | .num s 0 _ => f.withSign s 0
  | _ => half w i

/-! ## Partitions (R102, R140) -/

/-- The partition width. -/
def Regs.width (r : Regs) : Nat :=
  match r.part with
  | 1 => 2
  | 2 => 4
  | 3 => 8
  | 4 => 16
  | _ => 32
/-- The base lane of a lane's partition. -/
def baseLane (w l : Nat) : Nat := l - l % w
/-- The active lanes of the partition that starts at `b`. -/
def activeIn (exec : Word) (w b : Nat) : List (Fin 32) :=
  allLanes.filter fun l => decide (b ≤ l.val) && decide (l.val < b + w) && exec.getLsbD l.val
/-- Whether some partition has no active lane. -/
def someEmpty (exec : Word) (w : Nat) : Bool :=
  allLanes.any fun l => decide (l.val % w = 0) && (activeIn exec w l.val).isEmpty

/-- Lane `n` of a vector, for a lane number held as a number. -/
def laneAt (v : Lanes) (n : Nat) : Word := v[n % 32]'(Nat.mod_lt _ (by decide))

end Sys2Proof.Machine
end

