-- ==== Sys2Proof/Machine/Scalar.lean ====
section
/-! DEFINITION. Scalar arithmetic (R113 to R117). Each word acts once for the warp, ignores EXEC, never
traps and sets no flag. -/

namespace Sys2Proof.Machine

/-- A two-source scalar function (R113). -/
def salu2 (f : Word → Word → Word) (d a b : BitVec 5) (s : State) : Out :=
  (s.setS d (f (s.srcS a) (s.srcS b))).ok
/-- A one-source scalar function, or one with an immediate (R113 to R117). -/
def salu1 (f : Word → Word) (d a : BitVec 5) (s : State) : Out := (s.setS d (f (s.srcS a))).ok

/-- A truth value as a word. -/
def boolWord (c : Bool) : Word := if c then 1 else 0
/-- The high 32 bits of a product of two integers. -/
def mulHigh (x y : Int) : Word := BitVec.ofInt 32 (x * y / 2 ^ 32)
/-- Signed and unsigned minimum and maximum. -/
def minI (x y : Word) : Word := if x.slt y then x else y
def maxI (x y : Word) : Word := if x.slt y then y else x
def minN (x y : Word) : Word := if x < y then x else y
def maxN (x y : Word) : Word := if x < y then y else x
/-- The shift amount in the low five bits of an operand. -/
def sh5 (b : Word) : Nat := b.toNat % 32

/-- SADD (R113). -/
def execSadd (d a b : BitVec 5) (s : State) : Out := salu2 (fun x y => x + y) d a b s
/-- SSUB (R113). -/
def execSsub (d a b : BitVec 5) (s : State) : Out := salu2 (fun x y => x - y) d a b s
/-- SMUL (R113). -/
def execSmul (d a b : BitVec 5) (s : State) : Out := salu2 (fun x y => x * y) d a b s
/-- SMULHI.I32 (R113). -/
def execSmulhiI32 (d a b : BitVec 5) (s : State) : Out := salu2 (fun x y => mulHigh x.toInt y.toInt) d a b s
/-- SMULHI.N32 (R113). -/
def execSmulhiN32 (d a b : BitVec 5) (s : State) : Out := salu2 (fun x y => mulHigh x.toNat y.toNat) d a b s
/-- SAND (R113). -/
def execSand (d a b : BitVec 5) (s : State) : Out := salu2 (fun x y => x &&& y) d a b s
/-- SOR (R113). -/
def execSor (d a b : BitVec 5) (s : State) : Out := salu2 (fun x y => x ||| y) d a b s
/-- SXOR (R113). -/
def execSxor (d a b : BitVec 5) (s : State) : Out := salu2 (fun x y => x ^^^ y) d a b s
/-- SSHL: bits [31:5] of the amount are ignored (R113). -/
def execSshl (d a b : BitVec 5) (s : State) : Out := salu2 (fun x y => x <<< sh5 y) d a b s
/-- SSHR.N32 (R113). -/
def execSshrN32 (d a b : BitVec 5) (s : State) : Out := salu2 (fun x y => x >>> sh5 y) d a b s
/-- SSHR.I32 (R113). -/
def execSshrI32 (d a b : BitVec 5) (s : State) : Out := salu2 (fun x y => x.sshiftRight (sh5 y)) d a b s
/-- SMIN.I32 (R113). -/
def execSminI32 (d a b : BitVec 5) (s : State) : Out := salu2 (fun x y => minI x y) d a b s
/-- SMAX.I32 (R113). -/
def execSmaxI32 (d a b : BitVec 5) (s : State) : Out := salu2 (fun x y => maxI x y) d a b s
/-- SMIN.N32 (R113). -/
def execSminN32 (d a b : BitVec 5) (s : State) : Out := salu2 (fun x y => minN x y) d a b s
/-- SMAX.N32 (R113). -/
def execSmaxN32 (d a b : BitVec 5) (s : State) : Out := salu2 (fun x y => maxN x y) d a b s
/-- SSLT.I32 (R113). -/
def execSsltI32 (d a b : BitVec 5) (s : State) : Out := salu2 (fun x y => boolWord (x.slt y)) d a b s
/-- SSLT.N32 (R113). -/
def execSsltN32 (d a b : BitVec 5) (s : State) : Out := salu2 (fun x y => boolWord (decide (x < y))) d a b s
/-- SSEQ (R113). -/
def execSseq (d a b : BitVec 5) (s : State) : Out := salu2 (fun x y => boolWord (decide (x = y))) d a b s
/-- SCLZ (R113). -/
def execSclz (d a : BitVec 5) (s : State) : Out := salu1 (fun x => BitVec.ofNat 32 (clz x.toNat 32)) d a s
/-- SPOPC (R113). -/
def execSpopc (d a : BitVec 5) (s : State) : Out := salu1 (fun x => BitVec.ofNat 32 (popc x.toNat 32)) d a s
/-- SMOV (R113). -/
def execSmov (d a : BitVec 5) (s : State) : Out := salu1 (fun x => x) d a s
/-- SADD64 on even pairs, the arguments being half the register numbers (R113). -/
def execSadd64 (d a b : BitVec 4) (s : State) : Out := (s.setPair d (s.srcPair a + s.srcPair b)).ok
/-- SSUB64 on even pairs, the arguments being half the register numbers (R113). -/
def execSsub64 (d a b : BitVec 4) (s : State) : Out := (s.setPair d (s.srcPair a - s.srcPair b)).ok
/-- SADDI (R114). -/
def execSaddi (d a : BitVec 5) (i : BitVec 15) (s : State) : Out := salu1 (fun x => x + i.signExtend 32) d a s
/-- SANDI (R114). -/
def execSandi (d a : BitVec 5) (i : BitVec 15) (s : State) : Out := salu1 (fun x => x &&& i.signExtend 32) d a s
/-- SORI (R114). -/
def execSori (d a : BitVec 5) (i : BitVec 15) (s : State) : Out := salu1 (fun x => x ||| i.signExtend 32) d a s
/-- SXORI (R114). -/
def execSxori (d a : BitVec 5) (i : BitVec 15) (s : State) : Out := salu1 (fun x => x ^^^ i.signExtend 32) d a s
/-- SSHI.SHL (R115). -/
def execSshiShl (d a n : BitVec 5) (s : State) : Out := salu1 (fun x => x <<< n.toNat) d a s
/-- SSHI.SHR.N32 (R115). -/
def execSshiShrN32 (d a n : BitVec 5) (s : State) : Out := salu1 (fun x => x >>> n.toNat) d a s
/-- SSHI.SHR.I32 (R115). -/
def execSshiShrI32 (d a n : BitVec 5) (s : State) : Out := salu1 (fun x => x.sshiftRight n.toNat) d a s
/-- SSHI.ROTL (R115). -/
def execSshiRotl (d a n : BitVec 5) (s : State) : Out := salu1 (fun x => rotl32 x n.toNat) d a s
/-- SLUI (R116). -/
def execSlui (d : BitVec 5) (i : BitVec 20) (s : State) : Out := (s.setS d (i ++ (0 : BitVec 12))).ok
/-- The conditions of SCMPI (R117). -/
def scmpCond (k : BitVec 3) (x v : Word) : Bool :=
  match k with
  | 0 => decide (x = v)
  | 1 => decide (x ≠ v)
  | 2 => x.slt v
  | 3 => !x.slt v
  | 4 => decide (x < v)
  | 5 => !decide (x < v)
  | 6 => v.slt x
  | 7 => !v.slt x
/-- SCMPI (R117). -/
def execScmpi (d a : BitVec 5) (k : BitVec 3) (i : BitVec 12) (s : State) : Out :=
  salu1 (fun x => boolWord (scmpCond k x (i.signExtend 32))) d a s

end Sys2Proof.Machine
end

