-- ==== Sys2Proof/Machine/Control.lean ====
section
/-! DEFINITION. Uniform branches, calls, divergence and reconvergence, traps by word and the
control-flow signature (R74, R120 to R129, R340, R341). -/

namespace Sys2Proof.Machine

/-- NOP changes nothing but the program counter (R74). -/
def execNop (s : State) : Out := s.ok

/-! ## Uniform branches (R120): a uniform branch never changes EXEC -/

/-- A branch taken under a condition; one that is not taken never traps (R63). -/
def branchIf (c : Bool) (o : BitVec 17) (s : State) : Out := if c then s.transfer o.toInt else s.ok

/-- BRA (R120). -/
def execBra (o : BitVec 17) (s : State) : Out := branchIf true o s
/-- BZ (R120). -/
def execBz (r : BitVec 5) (o : BitVec 17) (s : State) : Out := branchIf (decide (s.srcS r = 0)) o s
/-- BNZ (R120). -/
def execBnz (r : BitVec 5) (o : BitVec 17) (s : State) : Out := branchIf (decide (s.srcS r ≠ 0)) o s
/-- BANY (R120). -/
def execBany (p : BitVec 3) (o : BitVec 17) (s : State) : Out := branchIf (decide (s.srcP p &&& s.exec ≠ 0)) o s
/-- BALL (R120). -/
def execBall (p : BitVec 3) (o : BitVec 17) (s : State) : Out := branchIf (decide (s.srcP p &&& s.exec = s.exec)) o s
/-- BNONE (R120). -/
def execBnone (p : BitVec 3) (o : BitVec 17) (s : State) : Out := branchIf (decide (s.srcP p &&& s.exec = 0)) o s

/-! ## Calls and returns (R121) -/

/-- CALL: the link is the next packet (R61, R121). -/
def execCall (o : BitVec 25) (s : State) : Out :=
  let p := s.warp.pc.packet.toNat
  if inCode (s.target o.toInt) && decide (p + 1 = 2 ^ 30) then takeTrap causeBranchRange (BitVec.ofNat 32 (p + 1)) 0 s
  else s.transfer o.toInt fun t => t.setS 30 (BitVec.ofNat 32 (p + 1))
/-- RET (R121). -/
def execRet (s : State) : Out :=
  let link := s.srcS 30
  if link.toNat < 2 ^ 30 then .next (s.goto (link.setWidth 30)) else takeTrap causeBranchRange link 0 s

/-! ## Divergence and reconvergence (R122 to R125) -/

/-- The depth of the reconvergence stack as trap detail (R137). -/
def State.depth (s : State) : Word := BitVec.ofNat 32 s.warp.stack.length
/-- An entry pushed on the reconvergence stack. -/
def State.push (s : State) (e : ReconEntry) : State := s.onWarp fun w => { w with stack := e :: w.stack }

/-- PUSHR (R123). -/
def execPushr (o : BitVec 17) (s : State) : Out :=
  let t := s.target o.toInt
  if !inCode t then takeTrap causeBranchRange (BitVec.ofInt 32 t) 0 s
  else if 32 ≤ s.warp.stack.length then takeTrap causeReconvOverflow s.depth 0 s
  else (s.push ⟨false, { packet := BitVec.ofInt 30 t, slot := 0 }, s.exec⟩).ok

/-- BDIV (R124). -/
def execBdiv (p : BitVec 3) (o : BitVec 17) (s : State) : Out :=
  let t := s.exec &&& s.srcP p
  let f := s.exec &&& ~~~(s.srcP p)
  if s.warp.stack.isEmpty then takeTrap causeReconvMissing 0 0 s
  else if t = 0 then s.ok
  else if f = 0 then s.transfer o.toInt
  else if 32 ≤ s.warp.stack.length then takeTrap causeReconvOverflow s.depth 0 s
  else s.transfer o.toInt fun u => (u.push ⟨true, s.warp.pc.next, f⟩).writeExec t

/-- JOIN (R125). -/
def execJoin (s : State) : Out :=
  match s.warp.stack with
  | [] => takeTrap causeReconvUnderflow 0 0 s
  | e :: rest => .next ((s.writeExec e.mask).onWarp fun w => { w with stack := rest, pc := e.pc })

/-! ## Traps by word, and the return (R128, R129) -/

/-- TRAP completes its group, then traps with its immediate (R128). -/
def execTrap (i : BitVec 16) (s : State) : Out := takeTrapAfter causeSoftware (i.setWidth 32) s
/-- BPT completes its group, then traps (R128). -/
def execBpt (s : State) : Out := takeTrapAfter causeBreakpoint 0 s
/-- RTT (R129, R395). -/
def execRtt (s : State) : Out := returnTrap s

/-! ## The control-flow signature (R340, R341) -/

/-- One word folded into CFSIG, its chain bit cleared (R340). -/
def foldCf (sig : Word) (word : Nat) : Word := rotl32 sig 1 ^^^ BitVec.ofNat 32 (word % 2 ^ 31)
/-- SIGCHK compares what every earlier word folded, those of its own group included (R341). -/
def execSigchk (i : BitVec 20) (s : State) : Out :=
  if s.warp.regs.cfsig.setWidth 20 = i then (s.onRegs fun r => { r with cfsig := 0 }).ok
  else takeTrap causeSignatureMismatch s.warp.regs.cfsig (i.setWidth 32) s
/-- SIGSET (R341). -/
def execSigset (i : BitVec 20) (s : State) : Out := (s.onRegs fun r => { r with cfsig := i.setWidth 32 }).ok

end Sys2Proof.Machine
end

