-- ==== Sys2Proof/Machine/MatrixMath.lean ====
section
/-! DEFINITION. The numbers of the matrix array (R40 to R46), of tiles in memory (R193) and of MQUANT
(R57 to R59, R199). None of it reads FPMODE: every rounding is to nearest even. -/

namespace Sys2Proof.Machine

/-! ## Formats of an MMA (R41, R181) -/

/-- Element width in bits of an MMA format. -/
def mmaBits (fn : Nat) : Nat :=
  match fn with
  | 0 => 6
  | 1 => 4
  | 5 | 6 | 7 | 8 => 16
  | _ => 8
/-- The formats of A and B where they are floating-point. -/
def mmaFmtA (fn : Nat) : Fmt :=
  match fn with
  | 1 => fmtE2
  | 2 | 4 => fmtE4
  | 3 => fmtE5
  | 6 | 8 => fmtF16
  | _ => fmtB16
def mmaFmtB (fn : Nat) : Fmt := if fn = 4 then fmtE5 else mmaFmtA fn
/-- Products taken in one step of the stepped class. -/
def mmaStep (fn : Nat) : Nat := if 2 ≤ fn ∧ fn ≤ 4 then 2 else 1

/-! ## Sums -/

/-- Exact terms added to an accumulator and rounded once (R43): a missing term is ∞ × 0. -/
def sumRound (acc : FVal) (terms : List (Option FVal)) : Nat :=
  let vs := acc :: terms.filterMap id
  let posInf := vs.any fun v => v == .inf false
  let negInf := vs.any fun v => v == .inf true
  if terms.any Option.isNone || vs.any FVal.isNan || (posInf && negInf) then fmtF32.nanCode
  else if posInf then fmtF32.infCode
  else if negInf then fmtF32.withSign true fmtF32.infCode
  else
    let e := vs.foldl (fun e v => min e v.exp) acc.exp
    let zneg := vs.all fun v => v.isZero && v.neg
    (roundInt fmtF32 0 zneg (vs.foldl (fun n v => n + v.toUnits e) 0) e).bits

/-- The exact product of two L6 codes in units of 2^−24; none for NaR (R39). -/
def l6Prod (t : LogTab) (a b : Nat) : Option Int :=
  if l6Nar a || l6Nar b then none
  else if l6Special a || l6Special b then some 0
  else
    let n : Int := linUnits t (l6Q32 a + l6Q32 b - 32)
    some (if l6Neg a != l6Neg b then -n else n)
/-- A signed byte. -/
def i8Val (a : Nat) : Int := (BitVec.ofNat 8 a).toInt

/-- The register of an exact sum at the drain (R42): two's complement of 32 bits for I8 and 48 for L6 and E2, and above
them the mark that a product was NaR. `a` and `b` give the codes by k. -/
def exactSum (t : LogTab) (fn k : Nat) (a b : Nat → Nat) : Nat :=
  let prods : List (Option Int) := (List.range k).map fun i =>
    match fn with
    | 0 => l6Prod t (a i) (b i)
    | 1 => (mulV (unpack fmtE2 (a i)) (unpack fmtE2 (b i))).map fun v => v.toUnits (-24)
    | _ => some (i8Val (a i) * i8Val (b i))
  if prods.any Option.isNone then 2 ^ 48
  else (((prods.filterMap id).foldl (· + ·) 0) % (if fn = 9 then 2 ^ 32 else 2 ^ 48)).toNat
/-- The drain of R42 from the register of an element and its prior value. -/
def exactDrain (fn : Nat) (z : Bool) (c v : Nat) : Nat :=
  let w := if fn = 9 then 32 else 48
  let n : Int := if v % 2 ^ w < 2 ^ (w - 1) then (v % 2 ^ w : Nat) else (v % 2 ^ w : Nat) - 2 ^ w
  let p := if v.testBit 48 then fmtF32.nanCode else (roundInt fmtF32 0 false n (if fn = 9 then 0 else -24)).bits
  if z then p else (addV fmtF32 0 (unpack fmtF32 c) (unpack fmtF32 p)).bits

/-- One output element of the stepped class (R43). -/
def mmaStepped (fn k : Nat) (z : Bool) (c : Nat) (a b : Nat → Nat) : Nat :=
  let g := mmaStep fn
  (List.range (k / g)).foldl (fun acc t =>
    sumRound (unpack fmtF32 acc) ((List.range g).map fun i =>
      mulV (unpack (mmaFmtA fn) (a (t * g + i))) (unpack (mmaFmtB fn) (b (t * g + i))))) (if z then 0 else c)

/-- One complex output pair (R44): real and imaginary F32 codes. -/
def mmaComplex (fn k : Nat) (z : Bool) (re im : Nat) (a b : Nat → Nat) : Nat × Nat :=
  let va (i : Nat) : FVal := unpack (mmaFmtA fn) (a i)
  let vb (i : Nat) : FVal := unpack (mmaFmtA fn) (b i)
  (List.range (k / 2)).foldl (fun acc t =>
    let ar := va (2 * t)
    let ai := va (2 * t + 1)
    let br := vb (2 * t)
    let bi := vb (2 * t + 1)
    (sumRound (unpack fmtF32 acc.1) [mulV ar br, (mulV ai bi).map FVal.negate],
     sumRound (unpack fmtF32 acc.2) [mulV ar bi, mulV ai br])) (if z then (0, 0) else (re, im))

/-- Whether a format is of the exact class (R42). -/
def mmaIsExact (fn : Nat) : Bool := fn == 0 || fn == 1 || fn == 9
/-- Output element (i, j) of a pass as it stands before the drain (R166, R176): the sum's register in the exact class,
the running accumulator in the others. `c` is the prior tile, `a i k` and `b j k` the operand codes. -/
def mmaPass (t : LogTab) (fn k : Nat) (z : Bool) (c : Nat → Nat → Nat) (a b : Nat → Nat → Nat) (i j : Nat) : Nat :=
  if fn = 7 ∨ fn = 8 then
    let m := j / 2 * 2
    let r := mmaComplex fn k z (c i m) (c i (m + 1)) (a i) (b m)
    if j % 2 = 0 then r.1 else r.2
  else if mmaIsExact fn then exactSum t fn k (a i) (b j)
  else mmaStepped fn k z (c i j) (a i) (b j)
/-- The drain of an output element. -/
def mmaDrain (fn : Nat) (z : Bool) (c v : Nat) : Word := BitVec.ofNat 32 (if mmaIsExact fn then exactDrain fn z c v else v)
/-- Element (i, j) of an MMA (R189). -/
def mmaElement (t : LogTab) (fn k : Nat) (z : Bool) (c : Nat → Nat → Nat) (a b : Nat → Nat → Nat) (i j : Nat) : Word :=
  mmaDrain fn z (c i j) (mmaPass t fn k z c a b i j)

/-- MSCALE of one element (R46). -/
def mscaleElement (c sa sb p : Nat) : Word :=
  BitVec.ofNat 32 (match mulV (unpack fmtB16 sa) (unpack fmtB16 sb) with
    | none => fmtF32.nanCode
    | some s => (fmaV fmtF32 0 s (unpack fmtF32 p) (unpack fmtF32 c)).bits)

/-! ## Tiles in memory (R184, R193) -/

/-- The format and element size of CV. -/
def cvFmt (cv : Nat) : Fmt := match cv with
  | 0 => fmtF32
  | 1 => fmtB16
  | _ => fmtF16
def cvSize (cv : Nat) : Nat := if cv = 0 then 4 else 2
/-- An element loaded into a tile, one stored from it, and one added to it in memory. -/
def tileLoad (cv x : Nat) : Word := BitVec.ofNat 32 (if cv = 0 then x else (roundV fmtF32 0 (unpack (cvFmt cv) x)).bits)
def tileStore (cv : Nat) (w : Word) : Nat := if cv = 0 then w.toNat else (roundV (cvFmt cv) 0 (unpack fmtF32 w.toNat)).bits
def tileAdd (cv x : Nat) (w : Word) : Nat := (addV (cvFmt cv) 0 (unpack (cvFmt cv) x) (unpack fmtF32 w.toNat)).bits

/-! ## The Hadamard transform (R57) -/

/-- One pass of stride `h` over a run. -/
def hadamardPass (h : Nat) (x : List Nat) : List Nat :=
  let at_ (i : Nat) : FVal := unpack fmtF32 (x.getD i 0)
  (List.range x.length).map fun i =>
    if i / h % 2 = 0 then (addV fmtF32 0 (at_ i) (at_ (i + h))).bits
    else (addV fmtF32 0 (at_ (i - h)) (at_ i).negate).bits
/-- The passes of strides 1, 2, 4, … below `n`. -/
def hadamardPasses (n : Nat) : Nat → Nat → List Nat → List Nat
  | 0, _, x => x
  | k + 1, h, x => if h < n then hadamardPasses n k (2 * h) (hadamardPass h x) else x
/-- A run transformed and scaled. -/
def hadamard (n : Nat) (x : List Nat) : List Nat :=
  let c := match n with
    | 16 => 0x3E800000
    | 32 => 0x3E3504F3
    | _ => 0x3E000000
  (hadamardPasses n 6 1 x).map fun v => (mulR fmtF32 0 (unpack fmtF32 v) (unpack fmtF32 c)).bits
/-- A row of 128 elements, run by run; `n` = 0 transforms nothing. -/
def hadamardRow (n : Nat) (x : List Nat) : List Nat :=
  if n = 0 then x else (List.range (128 / n)).flatMap fun r => hadamard n ((x.drop (r * n)).take n)

/-! ## Block quantisation (R58, R59) -/

/-- Width and format of a target: 0 L6, 1 E2, 2 E4, 3 E5. -/
def quantBits (fn : Nat) : Nat := match fn with
  | 0 => 6
  | 1 => 4
  | _ => 8
def quantFmt (fn : Nat) : Fmt := match fn with
  | 1 => fmtE2
  | 2 => fmtE4
  | _ => fmtE5
/-- fmax as a number times 2^−24. -/
def quantMax (t : LogTab) (fn : Nat) : Nat := match fn with
  | 0 => (l6Max t).1
  | 1 => 6 * 2 ^ 24
  | 2 => 448 * 2 ^ 24
  | _ => 57344 * 2 ^ 24
/-- The canonical NaN and the zero of a target. -/
def quantNan (fn : Nat) : Nat := if fn = 0 then 0x30 else (quantFmt fn).nanCode
def quantZero (fn : Nat) : Nat := if fn = 0 then 0x10 else 0

/-- An element divided by the scale and rounded to the target (R59); a zero code keeps the element's sign. DESIGN
CHOICE (log 42). -/
def quantElement (t : LogTab) (fn s x : Nat) : Nat :=
  match unpack fmtF32 x, unpack fmtB16 s with
  | .num neg m e, .num _ d f =>
    if fn = 0 then
      let sh := e - f + 24
      l6Code neg (if 0 ≤ sh then l6Nearest t (m * 2 ^ sh.toNat) d else l6Nearest t m (d * 2 ^ (-sh).toNat))
    else if m = 0 then (quantFmt fn).withSign neg 0
    else (roundQuot (quantFmt fn) 0 neg m d (e - f)).bits
  | _, _ => 0
/-- The scale and the codes of a block. -/
def quantBlock (t : LogTab) (fn : Nat) (xs : List Nat) : Nat × List Nat :=
  let vs := xs.map (unpack fmtF32)
  let special := vs.any fun v => match v with
    | .num _ _ _ => false
    | _ => true
  let absmax := xs.foldl (fun a x => max a (x % 2 ^ 31)) 0
  if special then (0x7FC0, xs.map fun _ => quantNan fn)
  else if absmax = 0 then (0, xs.map fun _ => quantZero fn)
  else match unpack fmtF32 absmax with
    | .num _ m e =>
      let s := (roundQuot fmtB16 2 false m (quantMax t fn) (e + 24)).bits
      (s, xs.map (quantElement t fn s))
    | _ => (0, [])

/-- `n` bits from bit `i` of bytes given by place. -/
def bitsAt (f : Nat → Byte) (i n : Nat) : Nat :=
  fld ((f (i / 8)).toNat + 256 * (f (i / 8 + 1)).toNat + 65536 * (f (i / 8 + 2)).toNat) (i % 8) n
/-- Codes of `b` bits packed as a little-endian bit string, as bytes (R35). -/
def packCodes (b : Nat) (cs : List Nat) : List Byte :=
  let total := cs.foldr (fun c n => c + 2 ^ b * n) 0
  (List.range (cs.length * b / 8)).map fun i => BitVec.ofNat 8 (total / 2 ^ (8 * i))

end Sys2Proof.Machine
end

