-- ==== Sys2Proof/Machine/Sreg.lean ====
section
/-! DEFINITION. Special registers (R100 to R110, R119) and the replay-log values that a checked run takes
in their place (R331). -/

namespace Sys2Proof.Machine

/-! ## Values that a run cannot recompute (R331) -/

/-- A shadow or tiebreak that finds no matching record stops (R331). -/
def State.stopRun (s : State) : State :=
  { s with
    warp := { s.warp with park := .verdict, span := { s.warp.span with stopped := true, ending := true } }
    grp := { s.grp with ended := .parked .verdict } }
/-- A value with its replay-log record: an unchecked run uses it, a primary records it, and a shadow or
tiebreak takes the record's words in its place. -/
def State.viaLog (s : State) (kind : Nat) (v : List Word) (k : List Word → State → Out) : Out :=
  match s.snap.chkrole with
  | 0 => k v s
  | 1 => k v (s.onWarp fun w => { w with span :=
      { w.span with log := w.span.log ++ [⟨kind, v⟩], used := w.span.used + 4 * (v.length + 1) } })
  | _ =>
    match s.warp.span.log with
    | r :: rest =>
      if r.kind = kind ∧ r.words.length = v.length then
        k r.words (s.onWarp fun w => { w with span := { w.span with log := rest } })
      else .next s.stopRun
    | [] => .next s.stopRun

/-! ## The store words of matrix entries (R196, R324) -/

/-- Store words of a global TSTORE joined to the signature at their place in program order: each fold is
linear, so a word that stands `n` folds back counts as itself rotated 5 × `n` places (R196, R324). -/
def Warp.foldLate (w : Warp) (e : MEntry) (ws : List Word) : Warp :=
  if w.regs.chkrole = 0 ∨ e.span ≠ w.regs.spanno then w
  else
    let after := w.span.folds - e.foldPos
    let sig := ws.zipIdx.foldl (fun x q => x ^^^ rotl32 q.1 (5 * (ws.length - 1 - q.2 + after) % 32)) w.regs.ssig
    { w with regs := { w.regs with ssig := sig } }
/-- The bytes of row `i` of a tile as a TSTORE writes them, and the words of the tile. -/
def tileRow (r : Regs) (base cv i : Nat) : List Byte :=
  (List.range 128).flatMap fun j => bytesOfNat (cvSize cv) (tileStore cv (r.tileAt base i j))
/-- Little-endian bytes as words, the last one zero-extended. -/
def wordsOfBytes (n : Nat) (bs : List Byte) : List Word :=
  (List.range ((n + 3) / 4)).map fun i => BitVec.ofNat 32 (wordOfBytes ((bs.drop (4 * i)).take 4))
def tileStoreWords (r : Regs) (base cv : Nat) : List Word :=
  (List.range 128).flatMap fun i => wordsOfBytes (128 * cvSize cv) (tileRow r base cv i)
/-- Whether an entry is a TSTORE to the global window, and the words that it stores. -/
def MEntry.globalStore (e : MEntry) : Bool := match e.op with
  | .tstore _ => e.writes.any (·.global)
  | _ => false
def MEntry.storeWords (e : MEntry) (r : Regs) : List Word := match e.op with
  | .tstore cv => tileStoreWords r e.src cv
  | _ => []

/-! ## Views (R104, R105, R108) -/

/-- WSTAT as GETSR reads it: MBUSY, LOOPACT and SWITCH beside the sticky bits (R104). -/
def State.wstatView (s : State) : Word :=
  let bit (n : Nat) (c : Bool) : Word := if c then 1#32 <<< n else 0
  bit 10 (decide (s.snap.cnt.m ≠ 0)) ||| bit 9 s.warp.nest.isSome
    ||| bit 8 (s.ctx s.warp.ctx).switchPending ||| s.snap.wstat.setWidth 32
/-- TBLGEN as GETSR reads it (R108): what is current for the context. Whether a checked span's GETSR reads the generation that
the span keeps (R420) is left open. DESIGN CHOICE (log 26). -/
def State.tblgenView (s : State) : Word :=
  let c := s.ctx s.warp.ctx
  (0 : BitVec 7) ++ c.bank ++ c.gen

/-- Time passes at an observation: a free number of cycles and of nanoseconds (log 6). -/
def State.observeClk (s : State) : State :=
  (s.onCore s.warp.regs.coreid.toNat fun c => { c with clk := c.clk + BitVec.ofNat 64 (Config.freeChoice s.fresh) }).tick
/-- The time base after a free number of nanoseconds: it does not pass its last value while the clock is LOCKED or in
HOLDOVER, so that it never decreases (R105), nor in LOCKED the instant by which a timed record acts (R383). -/
def State.observeDtb (s : State) : State :=
  let t := s.dtb.toNat + Config.freeChoice s.fresh
  { s with dtb := BitVec.ofNat 64 (if s.dev.clock = ClockState.lost then t else min (s.dtbLimit t) (2 ^ 64 - 1)) }.tick
/-- The core cycle counter of the warp's core. -/
def State.clk (s : State) : DWord := (s.core s.warp.regs.coreid.toNat).clk

/-- SSIG at a GETSR, with the words of the global TSTOREs that groups before it have issued (R109, R196): a primary waits until
those entries have been performed; a shadow or tiebreak takes the tiles that they store from the TILE records that its log
still holds. DEDUCED (log 23). -/
def State.ssigView (s : State) : Option Word :=
  let w := s.warp
  let es := w.flights.filter fun e => decide (e.id < s.grp.entry)
  let stores (e : MEntry) : Bool := e.span == s.snap.spanno && e.globalStore
  if w.regs.chkrole = 0 then some s.snap.ssig
  else if w.regs.chkrole = 1 then (if es.any fun e => stores e && !e.done then none else some s.snap.ssig)
  else
    let w := { w with regs := { s.snap with ssig := s.snap.ssig }, span := { w.span with folds := s.grp.folds } }
    let tiles := w.span.log.filter fun r => r.kind == 5
    some ((es.foldl (fun (q : Warp × List LogRec) e => match e.dst with
      | some d => match q.2 with
        | r :: rest => ({ q.1 with regs := q.1.regs.setTile d fun i j => r.words.getD (128 * i + j) 0 }, rest)
        | [] => q
      | none => (if stores e then q.1.foldLate e (e.storeWords q.1.regs) else q.1, q.2)) (w, tiles)).1.regs.ssig)

/-- The special registers that are plain registers of the snapshot (R100). -/
def Regs.special (r : Regs) (i : Nat) : Word :=
  match i with
  | 0 => r.exec
  | 1 => r.part.setWidth 32
  | 2 => r.vbnd.setWidth 32
  | 3 => r.vcount.setWidth 32
  | 4 => r.fpmode
  | 6 => r.cfsig
  | 7 => r.rsig
  | 8 => r.ssig
  | 10 => r.wid.setWidth 32
  | 11 => r.bidx
  | 12 => r.bidy
  | 13 => r.bidz
  | 14 => r.gangrank.setWidth 32
  | 15 => r.gridid
  | 21 => r.trapPc
  | 22 => r.trapMask
  | 23 => r.trapCause
  | 24 => r.trapInfo0
  | 25 => r.trapInfo1
  | 26 => r.chkrole.setWidth 32
  | 27 => r.spanno
  | 29 => r.kbase
  | _ => 0

/-- GETSR (R119): the value before the group; the clocks sample and latch (R105), and a checked run takes
the six unrepeatable registers through its log (R110). -/
def execGetsr (d : BitVec 5) (i : BitVec 10) (s : State) : Out :=
  let put (v : List Word) (t : State) : Out := (t.setS d (v.headD 0)).ok
  match i.toNat with
  | 5 => put [s.wstatView] s
  | 8 => match s.ssigView with
    | some v => put [v] s
    | none => s.stall
  | 16 =>
    let t := s.observeClk
    t.viaLog 2 [loHalf t.clk] fun v u => put v (u.onRegs fun r => { r with clkHi := some (hiHalf t.clk) })
  | 17 =>
    match s.snap.clkHi with
    | some h => s.viaLog 2 [h] put
    | none => let t := s.observeClk; t.viaLog 2 [hiHalf t.clk] put
  | 18 =>
    let t := s.observeDtb
    t.viaLog 2 [loHalf t.dtb] fun v u => put v (u.onRegs fun r => { r with dtbHi := some (hiHalf t.dtb) })
  | 19 =>
    match s.snap.dtbHi with
    | some h => s.viaLog 2 [h] put
    | none => let t := s.observeDtb; t.viaLog 2 [hiHalf t.dtb] put
  | 20 => s.viaLog 2 [s.snap.coreid.setWidth 32] put
  | 28 => s.viaLog 2 [s.tblgenView] put
  | n => put [s.snap.special n] s

/-- SETSR VBND: VBND_VALUE, then MATRIX_BUSY, else the new boundary (R103). -/
def setVbnd (v : Word) (s : State) : Out :=
  let bound := v.toNat % 4096
  if bound % 8 ≠ 0 ∨ bound < 8 ∨ s.snap.vcount.toNat < bound then takeTrap causeVbndValue v 0 s
  else if s.snap.cnt.m ≠ 0 then takeTrap causeMatrixBusy v 0 s
  else (s.onRegs fun r => { r with vbnd := v.setWidth 12 }).ok

/-- SETSR through the field map of its register (R119). A read-only or unlisted index has no word that
decodes; the meaning then raises the encoding trap (R100). -/
def execSetsr (a : BitVec 5) (i : BitVec 10) (s : State) : Out :=
  let v := s.srcS a
  match i.toNat with
  | 0 => (s.writeExec v).ok
  | 1 => (s.onRegs fun r => { r with part := if v.toNat % 8 ≤ 4 then v.setWidth 3 else 0 }).ok
  | 2 => setVbnd v s
  | 4 => (s.onRegs fun r => { r with fpmode := (v &&& 0x3FFF) ||| ((s.grp.fpRaised.setWidth 32) <<< 4) }).ok
  | 5 => (s.onRegs fun r => { r with wstat := (s.snap.wstat &&& v.setWidth 4) ||| s.grp.wsRaised }).ok
  | 21 => (s.onRegs fun r => { r with trapPc := v }).ok
  | 22 => (s.onRegs fun r => { r with trapMask := v }).ok
  | 23 => (s.onRegs fun r => { r with trapCause := v &&& 0xFFFF }).ok
  | 24 => (s.onRegs fun r => { r with trapInfo0 := v }).ok
  | 25 => (s.onRegs fun r => { r with trapInfo1 := v }).ok
  | _ => takeTrap causeIllegal 10 0 s

end Sys2Proof.Machine
end

