-- ==== Sys2Proof/Machine/Sfu.lean ====
section
/-! DEFINITION. The special functions of VSFU (R154): exact values rounded to nearest even. Roots and
reciprocals are formed from integers. The transcendental functions are formed as integers in units of
2^−p between a lower and an upper bound, at rising p until both bounds round to the same F32. -/

namespace Sys2Proof.Machine

/-! ## Series, all in units of 2^−p, each with an error far below `sfuErr` units -/

/-- The bound on the error of every approximation below, in its units. -/
def sfuErr : Nat := 2 ^ 24

/-- Σ sign^k × x^(2k+1) / ((2k+1) n^(2k+1)) for x = 1: arctangent (`alt`) or its hyperbolic twin of 1/n. -/
def invAtanAux (alt : Bool) (n : Nat) : Nat → Nat → Nat → Int → Int
  | 0, _, _, acc => acc
  | fuel + 1, k, pw, acc =>
    let t : Int := (pw / (2 * k + 1) : Nat)
    invAtanAux alt n fuel (k + 1) (pw / (n * n)) (if alt && k % 2 == 1 then acc - t else acc + t)
def invAtan (alt : Bool) (n p : Nat) : Int := invAtanAux alt n (p / 2 + 2) 0 (2 ^ p / n) 0

/-- π by Machin's formula. -/
def piFx (p : Nat) : Nat := (16 * invAtan true 5 p - 4 * invAtan true 239 p).toNat
/-- The natural logarithm of 2. -/
def ln2Fx (p : Nat) : Nat :=
  (18 * invAtan false 26 p - 2 * invAtan false 4801 p + 8 * invAtan false 8749 p).toNat

/-- The Taylor series of the exponential of y / 2^p, for y at most 2^p. -/
def expAux (p y : Nat) : Nat → Nat → Nat → Nat → Nat
  | 0, _, _, acc => acc
  | fuel + 1, k, t, acc => expAux p y fuel (k + 1) (t * y / 2 ^ p / k) (acc + t)
def expFx (p y : Nat) : Nat := expAux p y (p / 2) 1 (2 ^ p) 0

/-- The Taylor series of sine (`k0` = 1) or cosine (`k0` = 0) of y / 2^p. -/
def sinAux (p y : Nat) : Nat → Nat → Nat → Bool → Int → Int
  | 0, _, _, _, acc => acc
  | fuel + 1, k, t, s, acc =>
    sinAux p y fuel (k + 2) (t * y / 2 ^ p * y / 2 ^ p / ((k + 1) * (k + 2))) (!s)
      (if s then acc - (t : Int) else acc + (t : Int))
def sinFx (p y : Nat) : Nat := (sinAux p y (p / 2) 1 y false 0).toNat
def cosFx (p y : Nat) : Nat := (sinAux p y (p / 2) 0 (2 ^ p) false 0).toNat

/-- 2 × Σ z^(2k+1) / (2k+1): the natural logarithm of (1+z)/(1−z). -/
def logAux (p z2 : Nat) : Nat → Nat → Nat → Nat → Nat
  | 0, _, _, acc => acc
  | fuel + 1, k, t, acc => logAux p z2 fuel (k + 1) (t * z2 / 2 ^ p) (acc + t / (2 * k + 1))
/-- The natural logarithm of m / 2^mb for m from 2^mb to 2^(mb+1). -/
def lnFx (p m mb : Nat) : Nat :=
  let z := (m - 2 ^ mb) * 2 ^ p / (m + 2 ^ mb)
  2 * logAux p (z * z / 2 ^ p) (p / 2) 0 z 0

/-- `n` squarings of a number in units of 2^−p. -/
def squares (p : Nat) : Nat → Nat → Nat
  | 0, u => u
  | n + 1, u => squares p n (u * u / 2 ^ p)

/-! ## The functions on a positive number m × 2^e -/

/-- m × 2^e in units of 2^−p, rounded down. -/
def fxOf (p m : Nat) (e : Int) : Nat :=
  if 0 ≤ e + p then m * 2 ^ (e + p).toNat else m / 2 ^ (-(e + p)).toNat

/-- 2^f in units of 2^−p for a fraction f in those units. -/
def exp2Frac (p f : Nat) : Nat := expFx p (f * ln2Fx p / 2 ^ p)

/-- The signed base-2 logarithm of m × 2^e in units of 2^−p. -/
def log2Fx (p m : Nat) (e : Int) : Int :=
  let mb := Nat.log2 m
  (e + mb) * (2 ^ p : Nat) + (lnFx p m mb * 2 ^ p / ln2Fx p : Nat)

/-- tanh of m × 2^e, from 2^−20 to 16, in units of 2^−p. -/
def tanhFx (p m : Nat) (e : Int) : Nat :=
  let u := squares p 6 (expFx p (fxOf p m (e - 5)))
  (u - 2 ^ p) * 2 ^ p / (u + 2 ^ p)

/-- sin or cos of a quarter-turn fraction f / 2^p × π/2. -/
def quarterFx (p : Nat) (cosine : Bool) (f : Nat) : Nat :=
  let y := f * piFx p / 2 ^ (p + 1)
  if cosine then cosFx p y else sinFx p y

/-- An inexact value known within `sfuErr` units of 2^−p around `n` × 2^`sh`, rounded when both
bounds agree. -/
def settle (p : Nat) (neg : Bool) (n : Nat) (sh : Int) : Option Rnd :=
  let lo := roundTo fmtF32 0 neg (n - sfuErr) (sh - p) true
  let hi := roundTo fmtF32 0 neg (n + sfuErr) (sh - p) true
  if lo = hi then some lo else none

/-- The first precision of the list at which `f` settles; the last resort is one more. DEDUCED (log 19). -/
def settleAt (f : Nat → Option Rnd) : List Nat → Rnd
  | [] => exactRes fmtF32.nanCode
  | p :: ps => match f p with
    | some r => r
    | none => settleAt f ps

/-- The precisions tried, in bits. -/
def sfuPrecs : List Nat := [448, 896, 1792]

/-- VEXP2 of a number. -/
def exp2R (neg : Bool) (m : Nat) (e : Int) : Rnd :=
  if m = 0 then exactRes 0x3F800000 else
  -- beyond these bounds the value is far outside the format
  if 0 ≤ (Nat.log2 m : Int) + e - 8 then
    if neg then roundTo fmtF32 0 false 1 (-200) true else roundTo fmtF32 0 false 1 200 true
  else
    let d := (-e).toNat
    let up := m * 2 ^ e.toNat
    let i := up / 2 ^ d
    let r := up % 2 ^ d
    if r = 0 then roundTo fmtF32 0 false 1 (if neg then -(i : Int) else i) false
    else
      let whole : Int := if neg then -(i : Int) - 1 else i
      let frac := if neg then 2 ^ d - r else r
      settleAt (fun p => settle p false (exp2Frac p (fxOf p frac (-(d : Int)))) whole) sfuPrecs

/-- VLOG2 of a positive number. -/
def log2R (m : Nat) (e : Int) : Rnd :=
  if m = 2 ^ Nat.log2 m then
    let k : Int := e + Nat.log2 m
    roundInt fmtF32 0 false k 0
  else settleAt (fun p => let z := log2Fx p m e; settle p (decide (z < 0)) z.natAbs 0) sfuPrecs

/-- VSINT and VCOST of a number in turns. -/
def turnR (cosine neg : Bool) (m : Nat) (e : Int) : Rnd :=
  -- t = 4x as quarters q and a fraction r of 2^d
  let e4 := e + 2
  let d := (-e4).toNat
  let t := m * 2 ^ e4.toNat
  let q := t / 2 ^ d % 4
  let r := t % 2 ^ d
  let q' := if cosine then (q + 1) % 4 else q
  let sneg := (decide (2 ≤ q')) != (neg && !cosine)
  if r = 0 then
    if q' % 2 = 0 then exactRes (fmtF32.withSign (neg && !cosine) 0)
    else exactRes (fmtF32.withSign sneg 0x3F800000)
  else
    settleAt (fun p => settle p sneg (quarterFx p (q' % 2 == 1) (fxOf p r (-(d : Int)))) 0) sfuPrecs

/-- VTANH of a number. -/
def tanhR (neg : Bool) (m : Nat) (e : Int) : Rnd :=
  if m = 0 then exactRes (fmtF32.withSign neg 0) else
  let top : Int := (Nat.log2 m : Int) + e
  if top < -20 then roundTo fmtF32 0 neg (m * 2 ^ 64 - 1) (e - 64) true
  else if 4 ≤ top then roundTo fmtF32 0 neg (2 ^ 64 - 1) (-64) true
  else settleAt (fun p => settle p neg (tanhFx p m e) 0) sfuPrecs

/-- VSQRT of a positive number. -/
def sqrtR (m : Nat) (e : Int) : Rnd :=
  let (m, e) := if e % 2 = 0 then (m, e) else (2 * m, e - 1)
  let n := m * 2 ^ 80
  let r := isqrt n
  roundTo fmtF32 0 false r (e / 2 - 40) (r * r != n)

/-- VRSQ of a positive number. -/
def rsqrtR (m : Nat) (e : Int) : Rnd :=
  let (m, e) := if e % 2 = 0 then (m, e) else (2 * m, e - 1)
  let r := isqrt (2 ^ 120 / m)
  roundTo fmtF32 0 false r (-(e / 2) - 60) (r * r * m != 2 ^ 120)

/-- The eight functions of VSFU by FN, on an F32 code (R154). -/
def sfu (fn : Nat) (x : Nat) : Rnd :=
  let nv := nanRes fmtF32 true
  let inf (s : Bool) : Rnd := exactRes (fmtF32.withSign s fmtF32.infCode)
  let zero (s : Bool) : Rnd := exactRes (fmtF32.withSign s 0)
  let one (s : Bool) : Rnd := exactRes (fmtF32.withSign s 0x3F800000)
  let pole (s : Bool) : Rnd := ⟨fmtF32.withSign s fmtF32.infCode, flDZ⟩
  match unpack fmtF32 x with
  | .nan s => nanRes fmtF32 s
  | .inf s => match fn with
    | 0 => zero s
    | 1 => if s then nv else zero false
    | 2 => if s then nv else inf false
    | 3 => if s then zero false else inf false
    | 4 => if s then nv else inf false
    | 5 => nv
    | 6 => nv
    | _ => one s
  | .num s m e => match fn with
    | 0 => if m = 0 then pole s else roundQuot fmtF32 0 s 1 m (-e)
    | 1 => if m = 0 then pole s else if s then nv else rsqrtR m e
    | 2 => if m = 0 then zero s else if s then nv else sqrtR m e
    | 3 => exp2R s m e
    | 4 => if m = 0 then pole true else if s then nv else log2R m e
    | 5 => turnR false s m e
    | 6 => turnR true s m e
    | _ => tanhR s m e

end Sys2Proof.Machine
end

