-- ==== Sys2Proof/Machine/VectorInt.lean ====
section
/-! DEFINITION. Integer vector arithmetic (R138, R144 to R146). -/

namespace Sys2Proof.Machine

/-- A lane-wise word with two vector sources. -/
def vop2 (f : Word → Word → Word) (d a b : BitVec 6) (s : State) : Out :=
  s.vnames [(d.toNat, 1), (a.toNat, 1), (b.toNat, 1)]
    (s.setV d.toNat (map2 f (s.srcV a.toNat) (s.srcV b.toNat))).ok
/-- A lane-wise word with one vector source. -/
def vop1 (f : Word → Word) (d a : BitVec 6) (s : State) : Out :=
  s.vnames [(d.toNat, 1), (a.toNat, 1)] (s.setV d.toNat (map1 f (s.srcV a.toNat))).ok
/-- A lane-wise word that reads its destination as a third source (R144). -/
def vop3 (f : Word → Word → Word → Word) (d a b : BitVec 6) (s : State) : Out :=
  s.vnames [(d.toNat, 1), (a.toNat, 1), (b.toNat, 1)]
    (s.setV d.toNat (map3 f (s.srcV d.toNat) (s.srcV a.toNat) (s.srcV b.toNat))).ok

/-- The absolute difference of two signed words (R144). -/
def absDiff (x y : Word) : Word := BitVec.ofNat 32 (x.toInt - y.toInt).natAbs
/-- sat32 of R145, and whether it clamped. -/
def sat32 (z : Int) : Word :=
  if z < -2147483648 then 0x80000000 else if 2147483647 < z then 0x7FFFFFFF else BitVec.ofInt 32 z
def clamps (z : Int) : Bool := decide (z < -2147483648) || decide (2147483647 < z)
/-- Signed field `i` of width `n` of a word. -/
def sfield (x : Word) (n i : Nat) : Int := (x.extractLsb' (n * i) n).toInt
/-- The dot products of R144. -/
def dot4 (d x y : Word) : Word :=
  BitVec.ofInt 32 (d.toInt + sfield x 8 0 * sfield y 8 0 + sfield x 8 1 * sfield y 8 1
    + sfield x 8 2 * sfield y 8 2 + sfield x 8 3 * sfield y 8 3)
def dot2 (d x y : Word) : Word :=
  BitVec.ofInt 32 (d.toInt + sfield x 16 0 * sfield y 16 0 + sfield x 16 1 * sfield y 16 1)

/-- A saturating word: a clamp in any active lane sets WSTAT.SAT (R145). -/
def vsat (f : Int → Int → Int) (d a b : BitVec 6) (s : State) : Out :=
  let z (l : Fin 32) : Int := f ((s.srcV a.toNat)[l]).toInt ((s.srcV b.toNat)[l]).toInt
  let any := allLanes.any fun l => s.exec.getLsbD l.val && clamps (z l)
  s.vnames [(d.toNat, 1), (a.toNat, 1), (b.toNat, 1)]
    ((s.setV d.toNat (Vector.ofFn fun l => sat32 (z l))).raiseWs (if any then wsSAT else 0)).ok

/-- A 64-bit word on pairs, the arguments being half the register numbers (R141, R144). -/
def vop64 (f : DWord → DWord → DWord) (d a b : BitVec 5) (s : State) : Out :=
  let x (l : Fin 32) : DWord := pairAt (s.srcV (2 * a.toNat)) (s.srcV (2 * a.toNat + 1)) l
  let y (l : Fin 32) : DWord := pairAt (s.srcV (2 * b.toNat)) (s.srcV (2 * b.toNat + 1)) l
  s.vnames [(2 * d.toNat, 2), (2 * a.toNat, 2), (2 * b.toNat, 2)]
    ((s.setV (2 * d.toNat) (Vector.ofFn fun l => loHalf (f (x l) (y l)))).setV (2 * d.toNat + 1)
      (Vector.ofFn fun l => hiHalf (f (x l) (y l)))).ok

/-- The functions that VINT numbers 0 to 16 (R144). -/
def vintFn (f : Nat) (x y : Word) : Word :=
  match f with
  | 0 => x + y
  | 1 => x - y
  | 2 => x * y
  | 3 => mulHigh x.toInt y.toInt
  | 4 => mulHigh x.toNat y.toNat
  | 5 => minI x y
  | 6 => maxI x y
  | 7 => minN x y
  | 8 => maxN x y
  | 9 => x &&& y
  | 10 => x ||| y
  | 11 => x ^^^ y
  | 12 => x &&& ~~~y
  | 13 => x <<< sh5 y
  | 14 => x >>> sh5 y
  | 15 => x.sshiftRight (sh5 y)
  | _ => rotl32 x (sh5 y)

/-- VADD (R144). -/
def execVadd (d a b : BitVec 6) (s : State) : Out := vop2 (fun x y => x + y) d a b s
/-- VSUB (R144). -/
def execVsub (d a b : BitVec 6) (s : State) : Out := vop2 (fun x y => x - y) d a b s
/-- VMUL (R144). -/
def execVmul (d a b : BitVec 6) (s : State) : Out := vop2 (fun x y => x * y) d a b s
/-- VMULHI.I32 (R144). -/
def execVmulhiI32 (d a b : BitVec 6) (s : State) : Out := vop2 (fun x y => mulHigh x.toInt y.toInt) d a b s
/-- VMULHI.N32 (R144). -/
def execVmulhiN32 (d a b : BitVec 6) (s : State) : Out := vop2 (fun x y => mulHigh x.toNat y.toNat) d a b s
/-- VMIN.I32 (R144). -/
def execVminI32 (d a b : BitVec 6) (s : State) : Out := vop2 (fun x y => minI x y) d a b s
/-- VMAX.I32 (R144). -/
def execVmaxI32 (d a b : BitVec 6) (s : State) : Out := vop2 (fun x y => maxI x y) d a b s
/-- VMIN.N32 (R144). -/
def execVminN32 (d a b : BitVec 6) (s : State) : Out := vop2 (fun x y => minN x y) d a b s
/-- VMAX.N32 (R144). -/
def execVmaxN32 (d a b : BitVec 6) (s : State) : Out := vop2 (fun x y => maxN x y) d a b s
/-- VAND (R144). -/
def execVand (d a b : BitVec 6) (s : State) : Out := vop2 (fun x y => x &&& y) d a b s
/-- VOR (R144). -/
def execVor (d a b : BitVec 6) (s : State) : Out := vop2 (fun x y => x ||| y) d a b s
/-- VXOR (R144). -/
def execVxor (d a b : BitVec 6) (s : State) : Out := vop2 (fun x y => x ^^^ y) d a b s
/-- VANDN (R144). -/
def execVandn (d a b : BitVec 6) (s : State) : Out := vop2 (fun x y => x &&& ~~~y) d a b s
/-- VSHL (R144). -/
def execVshl (d a b : BitVec 6) (s : State) : Out := vop2 (fun x y => x <<< sh5 y) d a b s
/-- VSHR.N32 (R144). -/
def execVshrN32 (d a b : BitVec 6) (s : State) : Out := vop2 (fun x y => x >>> sh5 y) d a b s
/-- VSHR.I32 (R144). -/
def execVshrI32 (d a b : BitVec 6) (s : State) : Out := vop2 (fun x y => x.sshiftRight (sh5 y)) d a b s
/-- VROTL (R144). -/
def execVrotl (d a b : BitVec 6) (s : State) : Out := vop2 (fun x y => rotl32 x (sh5 y)) d a b s
/-- VPOPC (R144). -/
def execVpopc (d a : BitVec 6) (s : State) : Out := vop1 (fun x => BitVec.ofNat 32 (popc x.toNat 32)) d a s
/-- VCLZ (R144). -/
def execVclz (d a : BitVec 6) (s : State) : Out := vop1 (fun x => BitVec.ofNat 32 (clz x.toNat 32)) d a s
/-- VBREV (R144). -/
def execVbrev (d a : BitVec 6) (s : State) : Out := vop1 (fun x => BitVec.ofNat 32 (brev x.toNat 32)) d a s
/-- VABSD.I32 (R144). -/
def execVabsdI32 (d a b : BitVec 6) (s : State) : Out := vop2 absDiff d a b s
/-- VADDS.I32 (R144, R145). -/
def execVaddsI32 (d a b : BitVec 6) (s : State) : Out := vsat (fun x y => x + y) d a b s
/-- VSUBS.I32 (R144, R145). -/
def execVsubsI32 (d a b : BitVec 6) (s : State) : Out := vsat (fun x y => x - y) d a b s
/-- VADD64 (R144). -/
def execVadd64 (d a b : BitVec 5) (s : State) : Out := vop64 (fun x y => x + y) d a b s
/-- VSUB64 (R144). -/
def execVsub64 (d a b : BitVec 5) (s : State) : Out := vop64 (fun x y => x - y) d a b s
/-- VDOT4.I8 (R144). -/
def execVdot4I8 (d a b : BitVec 6) (s : State) : Out := vop3 dot4 d a b s
/-- VDOT2.I16 (R144). -/
def execVdot2I16 (d a b : BitVec 6) (s : State) : Out := vop3 dot2 d a b s
/-- VINTI: a VINT function with its immediate as the second source in every lane (R146). -/
def execVinti (f : BitVec 5) (d a : BitVec 6) (i : BitVec 8) (s : State) : Out :=
  vop1 (fun x => vintFn f.toNat x (i.setWidth 32)) d a s

end Sys2Proof.Machine
end

