-- ==== Sys2Proof/Machine/VectorLane.lean ====
section
/-! DEFINITION. Lane words, shuffles, integer reductions and scans, votes and predicate words (R139,
R140, R156 to R161). None of them raises a floating-point flag or examines a marker. -/

namespace Sys2Proof.Machine

/-! ## VLANE (R156) -/

/-- VMOV of 1, 2, 4 or 8 registers; the width code is the W field (R71). -/
def execVmov (w : BitVec 2) (d a : BitVec 6) (s : State) : Out :=
  let n := 2 ^ w.toNat
  s.vnames [(d.toNat, n), (a.toNat, n)]
    ((List.range n).foldl (fun t i => t.setV (d.toNat + i) (s.srcV (a.toNat + i))) s).ok
/-- VMOVS (R156). -/
def execVmovs (d : BitVec 6) (a : BitVec 5) (s : State) : Out :=
  s.vnames [(d.toNat, 1)] (s.setV d.toNat (Vector.replicate 32 (s.srcS a))).ok
/-- VLANEID (R156). -/
def execVlaneid (d : BitVec 6) (s : State) : Out :=
  s.vnames [(d.toNat, 1)] (s.setV d.toNat (Vector.ofFn fun l => BitVec.ofNat 32 l.val)).ok
/-- VREADL reads the lane whether it is active or not (R139, R156). -/
def execVreadl (d : BitVec 5) (a : BitVec 6) (l : BitVec 5) (s : State) : Out :=
  s.vnames [(a.toNat, 1)] (s.setS d (laneAt (s.srcV a.toNat) l.toNat)).ok
/-- VWRITEL writes one lane regardless of EXEC (R138, R156). -/
def execVwritel (d : BitVec 6) (a : BitVec 5) (l : BitVec 5) (s : State) : Out :=
  s.vnames [(d.toNat, 1)]
    (s.onRegs fun r => r.setEntry d.toNat ((r.entry d.toNat).set l.toNat (s.srcS a) l.isLt)).ok
/-- The lowest set bit of a mask. -/
def lowestLane (m : Word) : Option (Fin 32) := allLanes.find? fun l => m.getLsbD l.val
/-- VFIRST (R156). -/
def execVfirst (d a : BitVec 6) (s : State) : Out :=
  s.vnames [(d.toNat, 1), (a.toNat, 1)]
    (match lowestLane s.exec with
     | some f => s.setV d.toNat (Vector.replicate 32 (s.srcV a.toNat)[f])
     | none => s).ok

/-! ## VSHFL (R157) -/

/-- A shuffle whose source lane is `src` of the lane, its base and the width. -/
def shuffle (src : Nat → Nat → Nat → Nat) (d a : BitVec 6) (s : State) : State :=
  let w := s.snap.width
  s.setV d.toNat (Vector.ofFn fun l => laneAt (s.srcV a.toNat) (src l.val (baseLane w l.val) w))

/-- VSHFL.IDX (R157). -/
def execVshflIdx (d a b : BitVec 6) (s : State) : Out :=
  s.vnames [(d.toNat, 1), (a.toNat, 1), (b.toNat, 1)]
    (shuffle (fun l base w => base + (laneAt (s.srcV b.toNat) l).toNat % w) d a s).ok
/-- VSHFL.UP (R157). -/
def execVshflUp (d a : BitVec 6) (n : BitVec 5) (s : State) : Out :=
  s.vnames [(d.toNat, 1), (a.toNat, 1)]
    (shuffle (fun l base _ => if base + n.toNat ≤ l then l - n.toNat else l) d a s).ok
/-- VSHFL.DOWN (R157). -/
def execVshflDown (d a : BitVec 6) (n : BitVec 5) (s : State) : Out :=
  s.vnames [(d.toNat, 1), (a.toNat, 1)]
    (shuffle (fun l base w => if l + n.toNat < base + w then l + n.toNat else l) d a s).ok
/-- VSHFL.XOR (R157). -/
def execVshflXor (d a : BitVec 6) (n : BitVec 5) (s : State) : Out :=
  s.vnames [(d.toNat, 1), (a.toNat, 1)]
    (shuffle (fun l base w => base + ((l - base) ^^^ (n.toNat % w))) d a s).ok
/-- VSHFL.BCAST (R157). -/
def execVshflBcast (d a : BitVec 6) (n : BitVec 5) (s : State) : Out :=
  s.vnames [(d.toNat, 1), (a.toNat, 1)] (shuffle (fun _ base w => base + n.toNat % w) d a s).ok

/-! ## Integer reductions and scans (R158, R159) -/

/-- A reduction over the active lanes of each partition, written to every lane of it (R158). -/
def reduceInt (op : Word → Word → Word) (ident : Word) (d a : BitVec 6) (s : State) : Out :=
  let w := s.snap.width
  let v := s.srcV a.toNat
  let res (l : Fin 32) : Word := (activeIn s.exec w (baseLane w l.val)).foldl (fun x k => op x v[k]) ident
  s.vnames [(d.toNat, 1), (a.toNat, 1)]
    ((s.setVAll d.toNat (Vector.ofFn res)).raiseWs (if someEmpty s.exec w then wsEMPTY else 0)).ok

/-- RADD.I32 (R158). -/
def execRaddI32 (d a : BitVec 6) (s : State) : Out := reduceInt (fun x y => x + y) 0 d a s
/-- RMIN.I32 (R158). -/
def execRminI32 (d a : BitVec 6) (s : State) : Out := reduceInt minI 0x7FFFFFFF d a s
/-- RMAX.I32 (R158). -/
def execRmaxI32 (d a : BitVec 6) (s : State) : Out := reduceInt maxI 0x80000000 d a s
/-- RMIN.N32 (R158). -/
def execRminN32 (d a : BitVec 6) (s : State) : Out := reduceInt minN 0xFFFFFFFF d a s
/-- RMAX.N32 (R158). -/
def execRmaxN32 (d a : BitVec 6) (s : State) : Out := reduceInt maxN 0 d a s
/-- RAND (R158). -/
def execRand (d a : BitVec 6) (s : State) : Out := reduceInt (fun x y => x &&& y) 0xFFFFFFFF d a s
/-- ROR (R158). -/
def execRor (d a : BitVec 6) (s : State) : Out := reduceInt (fun x y => x ||| y) 0 d a s
/-- RXOR (R158). -/
def execRxor (d a : BitVec 6) (s : State) : Out := reduceInt (fun x y => x ^^^ y) 0 d a s

/-- A prefix sum over the active lanes of the partition, up to the lane or below it (R159). -/
def scanInt (inclusive : Bool) (d a : BitVec 6) (s : State) : Out :=
  let w := s.snap.width
  let v := s.srcV a.toNat
  let res (l : Fin 32) : Word :=
    (activeIn s.exec w (baseLane w l.val)).foldl
      (fun x k => if k.val < l.val || (inclusive && k.val == l.val) then x + v[k] else x) 0
  s.vnames [(d.toNat, 1), (a.toNat, 1)]
    ((s.setV d.toNat (Vector.ofFn res)).raiseWs (if someEmpty s.exec w then wsEMPTY else 0)).ok
/-- SCANADD.I32 (R159). -/
def execScanaddI32 (d a : BitVec 6) (s : State) : Out := scanInt true d a s
/-- SCANADD.I32.EX (R159). -/
def execScanaddI32Ex (d a : BitVec 6) (s : State) : Out := scanInt false d a s

/-! ## Votes (R160) -/

/-- A predicate built bit by bit. -/
def maskOf (f : Fin 32 → Bool) : Word := allLanes.foldl (fun m l => if f l then m ||| (1#32 <<< l.val) else m) 0
/-- EMPTY where some partition of the vote has no active lane. -/
def State.voteEmpty (s : State) : State := s.raiseWs (if someEmpty s.exec s.snap.width then wsEMPTY else 0)

/-- VVOTE.ANY (R160). -/
def execVvoteAny (d a : BitVec 3) (s : State) : Out :=
  let w := s.snap.width
  let p := s.srcP a
  (s.setP d (maskOf fun l => (activeIn s.exec w (baseLane w l.val)).any fun k => p.getLsbD k.val)).voteEmpty.ok
/-- VVOTE.ALL (R160). -/
def execVvoteAll (d a : BitVec 3) (s : State) : Out :=
  let w := s.snap.width
  let p := s.srcP a
  (s.setP d (maskOf fun l => (activeIn s.exec w (baseLane w l.val)).all fun k => p.getLsbD k.val)).voteEmpty.ok
/-- VVOTE.BALLOT ignores PART (R160). -/
def execVvoteBallot (d : BitVec 5) (a : BitVec 3) (s : State) : Out :=
  ((s.setS d (s.srcP a &&& s.exec)).raiseWs (if s.exec = 0 then wsEMPTY else 0)).ok
/-- VVOTE.COUNT (R160). -/
def execVvoteCount (d : BitVec 6) (a : BitVec 3) (s : State) : Out :=
  let w := s.snap.width
  let p := s.srcP a
  s.vnames [(d.toNat, 1)]
    (s.setVAll d.toNat (Vector.ofFn fun l =>
      BitVec.ofNat 32 ((activeIn s.exec w (baseLane w l.val)).filter fun k => p.getLsbD k.val).length)).voteEmpty.ok

/-! ## Predicate words (R161): every bit of the destination, regardless of EXEC -/

/-- PAND (R161). -/
def execPand (d a b : BitVec 3) (s : State) : Out := (s.setP d (s.srcP a &&& s.srcP b)).ok
/-- POR (R161). -/
def execPor (d a b : BitVec 3) (s : State) : Out := (s.setP d (s.srcP a ||| s.srcP b)).ok
/-- PXOR (R161). -/
def execPxor (d a b : BitVec 3) (s : State) : Out := (s.setP d (s.srcP a ^^^ s.srcP b)).ok
/-- PANDN (R161). -/
def execPandn (d a b : BitVec 3) (s : State) : Out := (s.setP d (s.srcP a &&& ~~~(s.srcP b))).ok
/-- PNOT (R161). -/
def execPnot (d a : BitVec 3) (s : State) : Out := (s.setP d (~~~(s.srcP a))).ok
/-- PMOV (R161). -/
def execPmov (d a : BitVec 3) (s : State) : Out := (s.setP d (s.srcP a)).ok
/-- SETEXEC governs the next group (R161). -/
def execSetexec (a : BitVec 3) (s : State) : Out := (s.writeExec (s.srcP a)).ok
/-- GETEXEC (R161). -/
def execGetexec (d : BitVec 3) (s : State) : Out := (s.setP d s.exec).ok
/-- PFROMS (R161). -/
def execPfroms (d : BitVec 3) (a : BitVec 5) (s : State) : Out := (s.setP d (s.srcS a)).ok
/-- PTOS (R161). -/
def execPtos (d : BitVec 5) (a : BitVec 3) (s : State) : Out := (s.setS d (s.srcP a)).ok
/-- EXECAND (R161). -/
def execExecand (a : BitVec 3) (s : State) : Out := (s.writeExec (s.exec &&& s.srcP a)).ok
/-- PPOPC (R161). -/
def execPpopc (d a : BitVec 3) (s : State) : Out :=
  (s.setP d (BitVec.ofNat 32 (popc (s.srcP a &&& s.exec).toNat 32))).ok

end Sys2Proof.Machine
end

