-- ==== Sys2Proof/Machine/VectorFloat.lean ====
section
/-! DEFINITION. Floating-point vector words: VFLT, VFMA, VCMP, VCVT, VSFU, VTAB and the F32 reductions
and scans (R49 to R56, R147 to R155, R158, R159). -/

namespace Sys2Proof.Machine

/-! ## Shapes -/

/-- The lanes and flags of a lane-wise floating-point function: UNINIT_USE over `markers`,
FP_EXCEPTION, else the active lanes of V[d] written and the flags raised. -/
def fpLanes (markers : List Lanes) (d : Nat) (f : Fin 32 → Word × BitVec 5) (s : State) : Out :=
  s.fpGuard markers (orFlags s.exec fun l => (f l).2) fun t => t.setV d (Vector.ofFn fun l => (f l).1)

/-- A rounded F32 result as a lane word with its flags. -/
def Rnd.lane (r : Rnd) : Word × BitVec 5 := (BitVec.ofNat 32 r.bits, r.flags)

/-- An F32 word of one, two or three sources. -/
def f32op1 (f : FpEnv → Nat → Rnd) (d a : BitVec 6) (s : State) : Out :=
  let x := s.srcV a.toNat
  s.vnames [(d.toNat, 1), (a.toNat, 1)]
    (fpLanes [x] d.toNat (fun l => (f s.snap.fpEnv x[l].toNat).lane) s)
def f32op2 (f : FpEnv → Nat → Nat → Rnd) (d a b : BitVec 6) (s : State) : Out :=
  let x := s.srcV a.toNat
  let y := s.srcV b.toNat
  s.vnames [(d.toNat, 1), (a.toNat, 1), (b.toNat, 1)]
    (fpLanes [x, y] d.toNat (fun l => (f s.snap.fpEnv x[l].toNat y[l].toNat).lane) s)

/-- Both halves of a lane, each computed and rounded by itself under FTZ16 (R49, R50). -/
def halfPair (fmt : Fmt) (env : FpEnv) (f : Nat → Rnd) : Word × BitVec 5 :=
  let lo := ftzRes fmt env.ftz (f 0)
  let hi := ftzRes fmt env.ftz (f 1)
  (halves lo.bits hi.bits, lo.flags ||| hi.flags)

/-- A pair-format word of two sources; `f` is given each half's values and codes. -/
def halfOp2 (fmt : Fmt) (f : Nat → FVal → FVal → Nat → Nat → Rnd) (d a b : BitVec 6) (s : State) : Out :=
  let env := s.snap.fpEnv
  let x := s.srcV a.toNat
  let y := s.srcV b.toNat
  s.vnames [(d.toNat, 1), (a.toNat, 1), (b.toNat, 1)]
    (fpLanes [x, y] d.toNat (fun l => halfPair fmt env fun i =>
      f env.rm (halfVal fmt env x[l] i) (halfVal fmt env y[l] i)
        (halfCode fmt env x[l] i) (halfCode fmt env y[l] i)) s)

/-- A 64-bit result in the active lanes of a register pair. -/
def fp64Lanes (markers : List Lanes) (d : BitVec 5) (f : Fin 32 → Rnd) (s : State) : Out :=
  s.fpGuard markers (orFlags s.exec fun l => (f l).flags) fun t =>
    (t.setV (2 * d.toNat) (Vector.ofFn fun l => loHalf (BitVec.ofNat 64 (f l).bits))).setV (2 * d.toNat + 1)
      (Vector.ofFn fun l => hiHalf (BitVec.ofNat 64 (f l).bits))
/-- The F64 code in a pair of vectors, the argument being half the register number. -/
def State.srcV64 (s : State) (a : Nat) (l : Fin 32) : Nat :=
  (pairAt (s.srcV (2 * a)) (s.srcV (2 * a + 1)) l).toNat
/-- The two words of a pair, as marker sources, the lower-numbered register first: R54 orders the operands, and not the
registers of one. DEDUCED (log 42). -/
def State.pairWords (s : State) (a : Nat) : List Lanes := [s.srcV (2 * a), s.srcV (2 * a + 1)]

/-- An F64 word of two sources. -/
def f64op2 (f : Nat → Nat → Nat → Rnd) (d a b : BitVec 5) (s : State) : Out :=
  s.vnames [(2 * d.toNat, 2), (2 * a.toNat, 2), (2 * b.toNat, 2)]
    (fp64Lanes (s.pairWords a.toNat ++ s.pairWords b.toNat) d
      (fun l => f s.snap.fpEnv.rm (s.srcV64 a.toNat l) (s.srcV64 b.toNat l)) s)

/-! ## VFLT (R147 to R149) -/

/-- Addition, subtraction, multiplication, minimum and maximum of two codes of a format. -/
def addC (f : Fmt) (rm x y : Nat) : Rnd := addV f rm (unpack f x) (unpack f y)
def subC (f : Fmt) (rm x y : Nat) : Rnd := addV f rm (unpack f x) (unpack f y).negate
def mulC (f : Fmt) (rm x y : Nat) : Rnd := mulR f rm (unpack f x) (unpack f y)
def minC (f : Fmt) (_ x y : Nat) : Rnd := minMaxV f false (unpack f x) (unpack f y) x y
def maxC (f : Fmt) (_ x y : Nat) : Rnd := minMaxV f true (unpack f x) (unpack f y) x y

/-- VFADD.F32 (R147). -/
def execVfaddF32 (d a b : BitVec 6) (s : State) : Out := f32op2 (fun e x y => addC fmtF32 e.rm x y) d a b s
/-- VFSUB.F32 (R147). -/
def execVfsubF32 (d a b : BitVec 6) (s : State) : Out := f32op2 (fun e x y => subC fmtF32 e.rm x y) d a b s
/-- VFMUL.F32 (R147). -/
def execVfmulF32 (d a b : BitVec 6) (s : State) : Out := f32op2 (fun e x y => mulC fmtF32 e.rm x y) d a b s
/-- VFMIN.F32 (R147). -/
def execVfminF32 (d a b : BitVec 6) (s : State) : Out := f32op2 (fun e x y => minC fmtF32 e.rm x y) d a b s
/-- VFMAX.F32 (R147). -/
def execVfmaxF32 (d a b : BitVec 6) (s : State) : Out := f32op2 (fun e x y => maxC fmtF32 e.rm x y) d a b s
/-- VFABS.F32 (R148). -/
def execVfabsF32 (d a : BitVec 6) (s : State) : Out := f32op1 (fun _ x => signOp fmtF32 x false) d a s
/-- VFNEG.F32 (R148). -/
def execVfnegF32 (d a : BitVec 6) (s : State) : Out := f32op1 (fun _ x => signOp fmtF32 x (!x.testBit 31)) d a s
/-- VFCPSGN.F32 takes the sign bit of the second source, a NaN's too (R148). -/
def execVfcpsgnF32 (d a b : BitVec 6) (s : State) : Out :=
  f32op2 (fun _ x y => signOp fmtF32 x (y.testBit 31)) d a b s
/-- VFADD.F16x2 (R147). -/
def execVfaddF16x2 (d a b : BitVec 6) (s : State) : Out :=
  halfOp2 fmtF16 (fun rm x y _ _ => addV fmtF16 rm x y) d a b s
/-- VFSUB.F16x2 (R147). -/
def execVfsubF16x2 (d a b : BitVec 6) (s : State) : Out :=
  halfOp2 fmtF16 (fun rm x y _ _ => addV fmtF16 rm x y.negate) d a b s
/-- VFMUL.F16x2 (R147). -/
def execVfmulF16x2 (d a b : BitVec 6) (s : State) : Out :=
  halfOp2 fmtF16 (fun rm x y _ _ => mulR fmtF16 rm x y) d a b s
/-- VFMIN.F16x2 (R147). -/
def execVfminF16x2 (d a b : BitVec 6) (s : State) : Out :=
  halfOp2 fmtF16 (fun _ x y p q => minMaxV fmtF16 false x y p q) d a b s
/-- VFMAX.F16x2 (R147). -/
def execVfmaxF16x2 (d a b : BitVec 6) (s : State) : Out :=
  halfOp2 fmtF16 (fun _ x y p q => minMaxV fmtF16 true x y p q) d a b s
/-- VFADD.B16x2 (R147). -/
def execVfaddB16x2 (d a b : BitVec 6) (s : State) : Out :=
  halfOp2 fmtB16 (fun rm x y _ _ => addV fmtB16 rm x y) d a b s
/-- VFSUB.B16x2 (R147). -/
def execVfsubB16x2 (d a b : BitVec 6) (s : State) : Out :=
  halfOp2 fmtB16 (fun rm x y _ _ => addV fmtB16 rm x y.negate) d a b s
/-- VFMUL.B16x2 (R147). -/
def execVfmulB16x2 (d a b : BitVec 6) (s : State) : Out :=
  halfOp2 fmtB16 (fun rm x y _ _ => mulR fmtB16 rm x y) d a b s
/-- VFMIN.B16x2 (R147). -/
def execVfminB16x2 (d a b : BitVec 6) (s : State) : Out :=
  halfOp2 fmtB16 (fun _ x y p q => minMaxV fmtB16 false x y p q) d a b s
/-- VFMAX.B16x2 (R147). -/
def execVfmaxB16x2 (d a b : BitVec 6) (s : State) : Out :=
  halfOp2 fmtB16 (fun _ x y p q => minMaxV fmtB16 true x y p q) d a b s
/-- VFADD.F64 on pairs (R147). -/
def execVfaddF64 (d a b : BitVec 5) (s : State) : Out := f64op2 (addC fmtF64) d a b s
/-- VFSUB.F64 on pairs (R147). -/
def execVfsubF64 (d a b : BitVec 5) (s : State) : Out := f64op2 (subC fmtF64) d a b s
/-- VFMUL.F64 on pairs (R147). -/
def execVfmulF64 (d a b : BitVec 5) (s : State) : Out := f64op2 (mulC fmtF64) d a b s
/-- VFMIN.F64 on pairs (R147). -/
def execVfminF64 (d a b : BitVec 5) (s : State) : Out := f64op2 (minC fmtF64) d a b s
/-- VFMAX.F64 on pairs (R147). -/
def execVfmaxF64 (d a b : BitVec 5) (s : State) : Out := f64op2 (maxC fmtF64) d a b s

/-- The bracket p × q ± r × t, formed exactly and rounded once (R149); ∞ × 0 and ∞ − ∞ are invalid. An exact
zero is +0 unless both addends are −0, whatever the rounding mode (R43); a finite overflow is what round_fp gives
in the mode of FPMODE. DEDUCED (log 42). -/
def bracket (f : Fmt) (rm : Nat) (sub : Bool) (p q r t : FVal) : Rnd :=
  match mulV p q, mulV r t with
  | some x, some y =>
    match x, if sub then y.negate else y with
    | .num s m e1, .num u n e2 =>
      let e := min e1 e2
      roundInt f rm (s && u) ((FVal.num s m e1).toUnits e + (FVal.num u n e2).toUnits e) e
    | v, w => addV f rm v w
  | _, _ => nanRes f true
/-- VCMUL.B16 (R149). -/
def execVcmulB16 (d a b : BitVec 6) (s : State) : Out :=
  let env := s.snap.fpEnv
  let x := s.srcV a.toNat
  let y := s.srcV b.toNat
  let v (w : Word) (i : Nat) : FVal := halfVal fmtB16 env w i
  s.vnames [(d.toNat, 1), (a.toNat, 1), (b.toNat, 1)]
    (fpLanes [x, y] d.toNat (fun l => halfPair fmtB16 env fun i =>
      if i = 0 then bracket fmtB16 env.rm true (v x[l] 0) (v y[l] 0) (v x[l] 1) (v y[l] 1)
      else bracket fmtB16 env.rm false (v x[l] 0) (v y[l] 1) (v x[l] 1) (v y[l] 0)) s)

/-! ## VFMA (R150) -/

/-- VFMA.F32 (R150). -/
def execVfmaF32 (d a b : BitVec 6) (e : BitVec 5) (s : State) : Out :=
  let x := s.srcV a.toNat
  let y := s.srcV b.toNat
  let z := s.srcV e.toNat
  s.vnames [(d.toNat, 1), (a.toNat, 1), (b.toNat, 1), (e.toNat, 1)]
    (fpLanes [x, y, z] d.toNat (fun l => (fmaV fmtF32 s.snap.fpEnv.rm (unpack fmtF32 x[l].toNat)
      (unpack fmtF32 y[l].toNat) (unpack fmtF32 z[l].toNat)).lane) s)
/-- VFMA of a pair format (R150). -/
def fmaHalves (fmt : Fmt) (d a b : BitVec 6) (e : BitVec 5) (s : State) : Out :=
  let env := s.snap.fpEnv
  let x := s.srcV a.toNat
  let y := s.srcV b.toNat
  let z := s.srcV e.toNat
  s.vnames [(d.toNat, 1), (a.toNat, 1), (b.toNat, 1), (e.toNat, 1)]
    (fpLanes [x, y, z] d.toNat (fun l => halfPair fmt env fun i =>
      fmaV fmt env.rm (halfVal fmt env x[l] i) (halfVal fmt env y[l] i) (halfVal fmt env z[l] i)) s)
/-- VFMA.F16x2 (R150). -/
def execVfmaF16x2 (d a b : BitVec 6) (e : BitVec 5) (s : State) : Out := fmaHalves fmtF16 d a b e s
/-- VFMA.B16x2 (R150). -/
def execVfmaB16x2 (d a b : BitVec 6) (e : BitVec 5) (s : State) : Out := fmaHalves fmtB16 d a b e s
/-- VFMA.F64 on pairs (R150). -/
def execVfmaF64 (d a b : BitVec 5) (e : BitVec 4) (s : State) : Out :=
  s.vnames [(2 * d.toNat, 2), (2 * a.toNat, 2), (2 * b.toNat, 2), (2 * e.toNat, 2)]
    (fp64Lanes (s.pairWords a.toNat ++ s.pairWords b.toNat ++ s.pairWords e.toNat) d
      (fun l => fmaV fmtF64 s.snap.fpEnv.rm (unpack fmtF64 (s.srcV64 a.toNat l))
        (unpack fmtF64 (s.srcV64 b.toNat l)) (unpack fmtF64 (s.srcV64 e.toNat l))) s)

/-! ## VCMP (R151) -/

/-- The active bits of a predicate written; the others keep their values (R98). -/
def State.setPActive (s : State) (p : BitVec 3) (m : Word) : State :=
  s.onRegs fun r =>
    { r with p := r.p.set p.toNat ((m &&& s.snap.exec) ||| (r.p[p.toNat]'p.isLt &&& ~~~s.snap.exec)) p.isLt }
/-- The six integer conditions by code, signed or unsigned (R151). -/
def cmpInt (signed : Bool) (k : BitVec 3) (x y : Word) : Bool :=
  let lt (u v : Word) : Bool := if signed then u.slt v else decide (u < v)
  match k with
  | 0 => decide (x = y)
  | 1 => decide (x ≠ y)
  | 2 => lt x y
  | 3 => !lt y x
  | 4 => lt y x
  | _ => !lt x y
/-- An integer comparison. -/
def vcmpInt (signed : Bool) (k p : BitVec 3) (a b : BitVec 6) (s : State) : Out :=
  s.vnames [(a.toNat, 1), (b.toNat, 1)]
    (s.setPActive p (maskOf fun l => cmpInt signed k (s.srcV a.toNat)[l] (s.srcV b.toNat)[l])).ok
/-- VCMP.I32 (R151). -/
def execVcmpI32 (k p : BitVec 3) (a b : BitVec 6) (s : State) : Out := vcmpInt true k p a b s
/-- VCMP.N32 (R151). -/
def execVcmpN32 (k p : BitVec 3) (a b : BitVec 6) (s : State) : Out := vcmpInt false k p a b s
/-- A floating-point comparison from the result and flags of each lane. -/
def vcmpFp (p : BitVec 3) (a b : BitVec 6) (f : Word → Word → Bool × BitVec 5) (s : State) : Out :=
  let x := s.srcV a.toNat
  let y := s.srcV b.toNat
  s.vnames [(a.toNat, 1), (b.toNat, 1)]
    (s.fpGuard [x, y] (orFlags s.exec fun l => (f x[l] y[l]).2) fun t =>
      t.setPActive p (maskOf fun l => (f x[l] y[l]).1))
/-- VCMP.F32 (R151). -/
def execVcmpF32 (k p : BitVec 3) (a b : BitVec 6) (s : State) : Out :=
  vcmpFp p a b (fun x y => cmpV k.toNat (unpack fmtF32 x.toNat) (unpack fmtF32 y.toNat)) s
/-- VCMP.F16x2: the condition must hold for both elements (R151). -/
def execVcmpF16x2 (k p : BitVec 3) (a b : BitVec 6) (s : State) : Out :=
  let env := s.snap.fpEnv
  let c (x y : Word) (i : Nat) := cmpV k.toNat (halfVal fmtF16 env x i) (halfVal fmtF16 env y i)
  vcmpFp p a b (fun x y => ((c x y 0).1 && (c x y 1).1, (c x y 0).2 ||| (c x y 1).2)) s

/-! ## VCVT (R152, R153) -/

/-- A conversion that examines no marker. -/
def cvtPlain (f : FpEnv → Word → Rnd) (d a : BitVec 6) (s : State) : Out :=
  let x := s.srcV a.toNat
  s.vnames [(d.toNat, 1), (a.toNat, 1)] (fpLanes [] d.toNat (fun l => (f s.snap.fpEnv x[l]).lane) s)
/-- A conversion of F32 sources to narrow elements packed from register `a0` up: element `i` of width
`n` bits is `f` of V[a0 + i]. -/
def cvtPack (f : FpEnv → FVal → Rnd) (n k : Nat) (d : BitVec 6) (a0 : Nat) (s : State) : Out :=
  let x (i : Nat) (l : Fin 32) : Rnd := f s.snap.fpEnv (unpack fmtF32 ((s.srcV (a0 + i))[l]).toNat)
  s.vnames [(d.toNat, 1), (a0, k)]
    (fpLanes ((List.range k).map fun i => s.srcV (a0 + i)) d.toNat (fun l =>
      ((List.range k).foldl (fun w i => w ||| BitVec.ofNat 32 ((x i l).bits * 2 ^ (n * i))) 0,
       (List.range k).foldl (fun g i => g ||| (x i l).flags) 0)) s)

/-- The log table of the bank that the warp binds (R38, R420). -/
def Ctx.logTab (c : Ctx) (bank : Bool) : LogTab := if bank then c.log1 else c.log0
def State.logTab (s : State) : LogTab := (s.ctx s.warp.ctx).logTab (s.banks.getLsbD 8)

/-- VCVT.F32.I32 (R152). -/
def execVcvtF32I32 (d a : BitVec 6) (s : State) : Out :=
  cvtPlain (fun e x => roundInt fmtF32 e.rm false x.toInt 0) d a s
/-- VCVT.F32.N32 (R152). -/
def execVcvtF32N32 (d a : BitVec 6) (s : State) : Out :=
  cvtPlain (fun e x => roundInt fmtF32 e.rm false x.toNat 0) d a s
/-- VCVT.I32.F32, to nearest even (R49, R153). -/
def execVcvtI32F32 (d a : BitVec 6) (s : State) : Out :=
  f32op1 (fun _ x => cvtIntV 0 (-2147483648) 2147483647 (unpack fmtF32 x)) d a s
/-- VCVT.I32.F32.RZ (R153). -/
def execVcvtI32F32Rz (d a : BitVec 6) (s : State) : Out :=
  f32op1 (fun _ x => cvtIntV 1 (-2147483648) 2147483647 (unpack fmtF32 x)) d a s
/-- VCVT.N32.F32, toward zero (R153). -/
def execVcvtN32F32 (d a : BitVec 6) (s : State) : Out :=
  f32op1 (fun _ x => cvtIntV 1 0 4294967295 (unpack fmtF32 x)) d a s
/-- VCVT.F16x2.F32 (R152). -/
def execVcvtF16x2F32 (d : BitVec 6) (a : BitVec 5) (s : State) : Out :=
  cvtPack (fun e v => ftzRes fmtF16 e.ftz (cvtV fmtF16 e.rm v)) 16 2 d (2 * a.toNat) s
/-- VCVT.B16x2.F32 (R152). -/
def execVcvtB16x2F32 (d : BitVec 6) (a : BitVec 5) (s : State) : Out :=
  cvtPack (fun e v => ftzRes fmtB16 e.ftz (cvtV fmtB16 e.rm v)) 16 2 d (2 * a.toNat) s
/-- F32 of half `i` of a lane word, exact but for a NaN (R152, R50, R54). -/
def widen (fmt : Fmt) (i : Nat) (d a : BitVec 6) (s : State) : Out :=
  let x := s.srcV a.toNat
  s.vnames [(d.toNat, 1), (a.toNat, 1)]
    (fpLanes [x] d.toNat (fun l => (roundV fmtF32 0 (halfVal fmt s.snap.fpEnv x[l] i)).lane) s)
/-- VCVT.F32.F16 (R152). -/
def execVcvtF32F16 (d a : BitVec 6) (s : State) : Out := widen fmtF16 0 d a s
/-- VCVT.F32.F16H (R152). -/
def execVcvtF32F16h (d a : BitVec 6) (s : State) : Out := widen fmtF16 1 d a s
/-- VCVT.F32.B16 (R152). -/
def execVcvtF32B16 (d a : BitVec 6) (s : State) : Out := widen fmtB16 0 d a s
/-- VCVT.F32.B16H (R152). -/
def execVcvtF32B16h (d a : BitVec 6) (s : State) : Out := widen fmtB16 1 d a s
/-- VCVT.F64.F32, exact (R152). -/
def execVcvtF64F32 (d : BitVec 5) (a : BitVec 6) (s : State) : Out :=
  let x := s.srcV a.toNat
  s.vnames [(2 * d.toNat, 2), (a.toNat, 1)]
    (fp64Lanes [x] d (fun l => roundV fmtF64 0 (unpack fmtF32 x[l].toNat)) s)
/-- VCVT.F32.F64 (R152). -/
def execVcvtF32F64 (d : BitVec 6) (a : BitVec 5) (s : State) : Out :=
  s.vnames [(d.toNat, 1), (2 * a.toNat, 2)]
    (fpLanes (s.pairWords a.toNat) d.toNat
      (fun l => (roundV fmtF32 s.snap.fpEnv.rm (unpack fmtF64 (s.srcV64 a.toNat l))).lane) s)
/-- VCVT.E4x4.F32 (R53, R152). -/
def execVcvtE4x4F32 (d : BitVec 6) (a : BitVec 4) (s : State) : Out :=
  cvtPack (fun e v => cvtV fmtE4 e.rm v) 8 4 d (4 * a.toNat) s
/-- VCVT.E5x4.F32 (R53, R152). -/
def execVcvtE5x4F32 (d : BitVec 6) (a : BitVec 4) (s : State) : Out :=
  cvtPack (fun e v => cvtV fmtE5 e.rm v) 8 4 d (4 * a.toNat) s
/-- VCVT.E2x8.F32 (R53, R152). -/
def execVcvtE2x8F32 (d : BitVec 6) (a : BitVec 3) (s : State) : Out :=
  cvtPack (fun e v => cvtV fmtE2 e.rm v) 4 8 d (8 * a.toNat) s
/-- VCVT.L6.F32 (R53, R475). -/
def execVcvtL6F32 (d a : BitVec 6) (s : State) : Out :=
  f32op1 (fun _ x => cvtL6 s.logTab (unpack fmtF32 x)) d a s
/-- VCVT.F32.L6: NaR gives the canonical NaN without a flag (R38, R152). -/
def execVcvtF32L6 (d a : BitVec 6) (s : State) : Out :=
  cvtPlain (fun _ x => roundV fmtF32 0 (l6Val s.logTab (x.toNat % 64))) d a s
/-- VCVT.F32.E4 (R152). -/
def execVcvtF32E4 (d a : BitVec 6) (s : State) : Out :=
  cvtPlain (fun _ x => roundV fmtF32 0 (unpack fmtE4 (x.toNat % 256))) d a s
/-- VCVT.F32.E5 (R152). -/
def execVcvtF32E5 (d a : BitVec 6) (s : State) : Out :=
  cvtPlain (fun _ x => roundV fmtF32 0 (unpack fmtE5 (x.toNat % 256))) d a s
/-- VCVT.F32.E2 (R152). -/
def execVcvtF32E2 (d a : BitVec 6) (s : State) : Out :=
  cvtPlain (fun _ x => roundV fmtF32 0 (unpack fmtE2 (x.toNat % 16))) d a s

/-! ## VSFU and VTAB (R154, R155) -/

/-- VRCP (R154). -/
def execVrcp (d a : BitVec 6) (s : State) : Out := f32op1 (fun _ x => sfu 0 x) d a s
/-- VRSQ (R154). -/
def execVrsq (d a : BitVec 6) (s : State) : Out := f32op1 (fun _ x => sfu 1 x) d a s
/-- VSQRT (R154). -/
def execVsqrt (d a : BitVec 6) (s : State) : Out := f32op1 (fun _ x => sfu 2 x) d a s
/-- VEXP2 (R154). -/
def execVexp2 (d a : BitVec 6) (s : State) : Out := f32op1 (fun _ x => sfu 3 x) d a s
/-- VLOG2 (R154). -/
def execVlog2 (d a : BitVec 6) (s : State) : Out := f32op1 (fun _ x => sfu 4 x) d a s
/-- VSINT (R154). -/
def execVsint (d a : BitVec 6) (s : State) : Out := f32op1 (fun _ x => sfu 5 x) d a s
/-- VCOST (R154). -/
def execVcost (d a : BitVec 6) (s : State) : Out := f32op1 (fun _ x => sfu 6 x) d a s
/-- VTANH (R154). -/
def execVtanh (d a : BitVec 6) (s : State) : Out := f32op1 (fun _ x => sfu 7 x) d a s

/-- Word `i` of a bank of a function table (R419): tables of 1,028 words. -/
def Ctx.fnWord (c : Ctx) (tid : Nat) (bank : Bool) (i : Nat) : Nat :=
  (SMap.get c.fn ((2 * tid + (if bank then 1 else 0)) * 1028 + i) 0).toNat

/-- A function table evaluated at an F32 code (R155); `t` reads a word of the table. -/
def evalTable (t : Nat → Nat) (x : Nat) : Rnd :=
  let v (c : Nat) : FVal := unpack fmtF32 c
  let u := fmaV fmtF32 0 (v x) (v (t 0)) (v (t 1))
  match v u.bits with
  | .nan _ => ⟨0x7FC00000, u.flags⟩
  | uv =>
    -- u in units of 2^−200, clamped to 0 … 256
    let n : Nat := match uv with
      | .inf s => if s then 0 else 256 * 2 ^ 200
      | _ => min (uv.toUnits (-200)).toNat (256 * 2 ^ 200)
    let i := min (n / 2 ^ 200) 255
    let f : FVal := .num false (n - i * 2 ^ 200) (-200)
    let y3 := fmaV fmtF32 0 (v (t (7 + 4 * i))) f (v (t (6 + 4 * i)))
    let y2 := fmaV fmtF32 0 (v y3.bits) f (v (t (5 + 4 * i)))
    let y1 := fmaV fmtF32 0 (v y2.bits) f (v (t (4 + 4 * i)))
    ⟨y1.bits, u.flags ||| y3.flags ||| y2.flags ||| y1.flags⟩

/-- VTAB reads the active bank of the generation bound at its issue (R155, R420). -/
def execVtab (t : BitVec 3) (d a : BitVec 6) (s : State) : Out :=
  let c := s.ctx s.warp.ctx
  f32op1 (fun _ x => evalTable (c.fnWord t.toNat (s.banks.getLsbD t.toNat)) x) d a s

/-! ## F32 reductions and scans (R55, R56, R158, R159) -/

/-- Two nodes combined: an absent one passes the other through (R55). -/
def joinNode (op : Nat → Nat → Rnd) (x y : Option Nat) : Option Nat × BitVec 5 :=
  match x, y with
  | none, y => (y, 0)
  | x, none => (x, 0)
  | some x, some y => (some (op x y).bits, (op x y).flags)
/-- One level of the tree: neighbours combined, the lower-numbered node on the left. -/
def treeLevel (op : Nat → Nat → Rnd) : List (Option Nat) → List (Option Nat) × BitVec 5
  | x :: y :: rest =>
    let j := joinNode op x y
    let r := treeLevel op rest
    (j.1 :: r.1, j.2 ||| r.2)
  | l => (l, 0)
/-- The tree of R55 by its levels; the flags gather. -/
def treeReduce (op : Nat → Nat → Rnd) : Nat → List (Option Nat) × BitVec 5 → List (Option Nat) × BitVec 5
  | 0, l => l
  | n + 1, l => let r := treeLevel op l.1; treeReduce op n (r.1, r.2 ||| l.2)
/-- One step of the scan of R56: every node takes the node `k` below it on its left. -/
def scanStep (op : Nat → Nat → Rnd) (k : Nat) (xs : List (Option Nat)) (fl : BitVec 5) : List (Option Nat) × BitVec 5 :=
  let js : List (Option Nat × BitVec 5) :=
    List.zipWith (fun x y => joinNode op x y) (List.replicate k none ++ xs) xs
  (js.map (·.1), js.foldl (fun f j => f ||| j.2) fl)
/-- The steps k, 2k, 4k, … of a scan. -/
def scanSteps (op : Nat → Nat → Rnd) : Nat → Nat → List (Option Nat) × BitVec 5 → List (Option Nat) × BitVec 5
  | 0, _, l => l
  | n + 1, k, l => scanSteps op n (2 * k) (scanStep op k l.1 l.2)

/-- The leaves of the partition at `b`: active lanes hold their value (R55). -/
def leaves (exec : Word) (w b : Nat) (v : Lanes) : List (Option Nat) :=
  (List.range w).map fun i =>
    if exec.getLsbD (b + i) then some (laneAt v (b + i)).toNat else none
/-- NV where an active source is a signalling NaN. -/
def snanFlags (xs : List (Option Nat)) : BitVec 5 :=
  flagIf (xs.any fun x => match x with
    | some c => (unpack fmtF32 c).isSnan
    | none => false) flNV
/-- A NaN code made canonical. -/
def canon32 (c : Nat) : Nat := if (unpack fmtF32 c).isNan then 0x7FC00000 else c
/-- The bases of the partitions. -/
def bases (w : Nat) : List Nat := (List.range (32 / w)).map (· * w)

/-- An F32 reduction (R158). -/
def reduceF32 (op : Nat → Nat → Rnd) (ident : Word) (d a : BitVec 6) (s : State) : Out :=
  let w := s.snap.width
  let v := s.srcV a.toNat
  let part (b : Nat) : Option Nat × BitVec 5 :=
    let ls := leaves s.exec w b v
    let r := treeReduce op (Nat.log2 w) (ls, snanFlags ls)
    (r.1.headD none, r.2)
  let res (b : Nat) : Word := match (part b).1 with
    | some c => BitVec.ofNat 32 (canon32 c)
    | none => ident
  s.vnames [(d.toNat, 1), (a.toNat, 1)]
    (s.fpGuard [v] ((bases w).foldl (fun f b => f ||| (part b).2) 0) fun t =>
      (t.setVAll d.toNat (Vector.ofFn fun l => res (baseLane w l.val))).raiseWs
        (if someEmpty s.exec w then wsEMPTY else 0))
/-- RADD.F32 (R55, R158). -/
def execRaddF32 (d a : BitVec 6) (s : State) : Out := reduceF32 (addC fmtF32 s.snap.fpEnv.rm) 0x80000000 d a s
/-- RMIN.F32 (R158). -/
def execRminF32 (d a : BitVec 6) (s : State) : Out := reduceF32 (minC fmtF32 0) 0x7F800000 d a s
/-- RMAX.F32 (R158). -/
def execRmaxF32 (d a : BitVec 6) (s : State) : Out := reduceF32 (maxC fmtF32 0) 0xFF800000 d a s

/-- SCANADD.F32 (R56, R159). -/
def execScanaddF32 (d a : BitVec 6) (s : State) : Out :=
  let w := s.snap.width
  let v := s.srcV a.toNat
  let part (b : Nat) : List (Option Nat) × BitVec 5 :=
    let ls := leaves s.exec w b v
    scanSteps (addC fmtF32 s.snap.fpEnv.rm) (Nat.log2 w) 1 (ls, snanFlags ls)
  let res (l : Fin 32) : Word := match (part (baseLane w l.val)).1.getD (l.val % w) none with
    | some c => BitVec.ofNat 32 (canon32 c)
    | none => 0
  s.vnames [(d.toNat, 1), (a.toNat, 1)]
    (s.fpGuard [v] ((bases w).foldl (fun f b => f ||| (part b).2) 0) fun t =>
      (t.setV d.toNat (Vector.ofFn res)).raiseWs (if someEmpty s.exec w then wsEMPTY else 0))

end Sys2Proof.Machine
end

