-- ==== Sys2Proof/Machine/Access.lean ====
section
/-! DEFINITION. The checks of R280 on the lanes of an access, where each lane's bytes lie, and the access
as it joins the warp's outstanding operations (R143, R279 to R284). -/

namespace Sys2Proof.Machine

/-- What an access is, for its checks: bytes each lane moves, natural alignment, whether it writes, and
whether it may reach a FIFO segment. -/
structure AccessForm where
  bytes : Nat
  align : Nat
  write : Bool
  fifo : Bool := false
  deriving DecidableEq, Repr

/-- A failing check: cause and detail. -/
abbrev Bad := Nat × Word × Word

/-- Step 1 of R280: the window (R202). -/
def chkWindow (n : Nat) (l : Nat × Nat) : Option Bad :=
  if inOneWindow l.2 n then none else some (causeAddressWindow, adr0 l.2, adr1w l.2)
/-- Step 2: own-scratch range and mode (R203). The second detail word is not stated: a free value. -/
def chkScratch (s : State) (n : Nat) (l : Nat × Nat) : Option Bad :=
  match windowOf l.2 with
  | .own o =>
    let g := s.gang s.warp.gang
    let bad (k : Nat) : Bool := match g.segOf k with
      | none => true
      | some seg => (s.segment g.cluster seg).mode == .cache
    if bad o || bad (o + n - 1) then some (causeScratchRange, BitVec.ofNat 32 o, s.freeWord) else none
  | _ => none
/-- Step 3: private alignment and size (R206). -/
def chkPrivate (s : State) (n : Nat) (l : Nat × Nat) : Option Bad :=
  match windowOf l.2 with
  | .priv p =>
    if p % min n 4 ≠ 0 then some (causeMisaligned, adr0 l.2, adr1 l.2)
    else if s.warp.privSize < p + n then some (causeStackLimit, BitVec.ofNat 32 (p + n - 1), BitVec.ofNat 32 l.1)
    else none
  | _ => none
/-- Step 4: natural alignment outside the private window. -/
def chkAlign (align : Nat) (l : Nat × Nat) : Option Bad :=
  match windowOf l.2 with
  | .priv _ => none
  | _ => if l.2 % align ≠ 0 then some (causeMisaligned, adr0 l.2, adr1 l.2) else none
/-- Step 5: the FIFO rules on the own window (R211). The detail is not stated: free values. -/
def chkFifo (s : State) (fifoOk : Bool) (l : Nat × Nat) : Option Bad :=
  match windowOf l.2 with
  | .own o =>
    let g := s.gang s.warp.gang
    match g.segOf o with
    | some seg => if (s.segment g.cluster seg).mode = .fifo ∧ ¬ fifoOk then
        some (causeFifoAccess, s.freeWord, Config.freeWord (s.fresh + 1)) else none
    | none => none
  | _ => none

/-- Steps 1 to 5 in their order, each over every lane, the lowest failing lane first. DEDUCED (log 17). -/
def accessChecks (s : State) (f : AccessForm) (ls : List (Nat × Nat)) : Option Bad :=
  (ls.findSome? (chkWindow f.bytes)).or <|
  (ls.findSome? (chkScratch s f.bytes)).or <|
  (ls.findSome? (chkPrivate s f.bytes)).or <|
  (ls.findSome? (chkAlign f.align)).or <|
  (ls.findSome? (chkFifo s f.fifo))

/-- A lane's bytes by address: the pieces that are translated, or one piece of scratch. -/
def globalPieces (s : State) (n : Nat) (lane va : Nat) : List (Nat × Nat) :=
  match windowOf va with
  | .priv p => privPieces s.warp.privBase p n lane
  | _ => [(va, n)]

/-- What step 6 gives for a lane. -/
inductive LaneRes where
  | ok (ps : List Piece)
  | bad (cause : Nat) (i0 i1 : Word)
  | service (va : Nat)
  | waitGang (gang : Nat)
  deriving DecidableEq, Repr

/-- PAGE_FAULT's second detail word (R280). -/
def faultInfo (va : Nat) (write perm : Bool) : Word :=
  adr1 va ||| (if write then 0x40000000 else 0) ||| (if perm then 0x80000000 else 0)

/-- Step 6: the pieces of a global or private address translated. -/
def translatePieces (s : State) (write : Bool) : List (Nat × Nat) → LaneRes
  | [] => .ok []
  | (va, n) :: rest =>
    match s.translate s.warp.ctx va (if write then .write else .read) with
    | .phys a => match translatePieces s write rest with
      | .ok ps => .ok (⟨.phys a, va, n⟩ :: ps)
      | r => r
    | .fail p => .bad causePageFault (adr0 va) (faultInfo va write p)
    | .recoverable => .service va

/-- Where a lane's bytes are. A load or atomic on the scratch of a gang that is not running waits (R205). -/
def resolveLane (s : State) (f : AccessForm) (wait : Bool) (l : Nat × Nat) : LaneRes :=
  let va := l.2
  let one (x : Loc) : LaneRes := .ok [⟨x, va, f.bytes⟩]
  match windowOf va with
  | .own o =>
    let g := s.gang s.warp.gang
    let seg := (g.segOf o).getD 0
    one (if (s.segment g.cluster seg).mode = .fifo then .fifo g.cluster seg else .sram (sramAddr g.cluster seg (o % segSize)))
  | .peer cl o =>
    match s.peerTarget s.warp.ctx cl o with
    | .sram a => one (.sram a)
    | .saved h _ _ => if wait then .waitGang h else one (s.peerLoc s.warp.ctx (f.write && f.fifo) va cl o)
    | _ => one (s.peerLoc s.warp.ctx (f.write && f.fifo) va cl o)
  | _ => translatePieces s f.write (globalPieces s f.bytes l.1 va)

/-- The lanes of an access resolved in ascending order, or the first that fails; one that waits for a gang has no
piece yet. -/
def resolveLanes (s : State) (f : AccessForm) (wait : Bool) : List (Nat × Nat) → List (Nat × List Piece) ⊕ LaneRes
  | [] => .inl []
  | l :: rest =>
    match resolveLane s f wait l with
    | .ok ps => match resolveLanes s f wait rest with
      | .inl rs => .inl ((l.1, ps) :: rs)
      | .inr r => .inr r
    | .waitGang _ => match resolveLanes s f wait rest with
      | .inl rs => .inl ((l.1, []) :: rs)
      | .inr r => .inr r
    | r => .inr r
/-- The gangs that an access waits for, each once (R205). -/
def gangsAway (s : State) (f : AccessForm) (wait : Bool) (ls : List (Nat × Nat)) : List Nat :=
  (ls.filterMap fun l => match resolveLane s f wait l with
    | .waitGang g => some g
    | _ => none).eraseDups

/-- The first write of an access into a stable range of a running grid: address and range index (R334). -/
def stableHit (s : State) (rs : List (Nat × List Piece)) : Option (Nat × Nat) :=
  rs.findSome? fun r => r.2.findSome? fun p =>
    match p.loc with
    | .phys a => (s.stableOf s.warp.ctx s.warp.grid p.va p.len (some a)).map fun i => (p.va, i)
    | _ => none

/-- The tag of a new request: a free word, or the first after it that no open request has. -/
def newTag (free : Nat) (used : List Nat) : Nat :=
  (((List.range (used.length + 1)).map fun k => (free + k) % 2 ^ 32).find? fun t => !used.contains t).getD free
/-- A recoverable fault: a page request, joined when one is open for the page, and the warp parked at the
faulting word (R280, R416), where the request has not torn its context down (R408). Flags: 1 write, 2 fetch, 4 copy or
chain. DESIGN CHOICE (log 13). -/
def openRequest (ctx va flags : Nat) (s : State) : State × Nat :=
  let c := s.ctx ctx
  match c.open_.find? fun r => r.page == va / 4096 with
  | some r => (s, r.tag)
  | none =>
    let tag := newTag s.freeWord.toNat (c.open_.map fun r => r.tag)
    let s := (s.onCtx ctx fun c => { c with open_ := c.open_ ++ [⟨tag, va / 4096⟩] }).tick
    (writePageRequest ctx (va / 4096 * 4096) flags tag s, tag)
def parkFault (va flags : Nat) (s : State) : Out :=
  let r := openRequest s.warp.ctx va flags s
  if r.1.warp.park = .vacant then .next { r.1 with grp := { r.1.grp with ended := .parked .vacant } }
  else r.1.parkAtIssue (.fault r.2 (adr0 va) (faultInfo va (decide (flags = 1)) false) (decide (flags = 2)))

/-- A load or atomic parked at issue for gangs to run, with the address that it waits on (R205). -/
def State.parkFarAt (s : State) (f : AccessForm) (ls : List (Nat × Nat)) (gs : List Nat) : Out :=
  let va := (ls.findSome? fun l => match resolveLane s f true l with
    | .waitGang _ => some l.2
    | _ => none).getD 0
  s.parkAtIssue (.far gs (some (va, f.write, s.warp.pc)))

/-- The checks of R280 and R334 and the places of the lanes; `k` goes on with them. -/
def withLanes (f : AccessForm) (wait : Bool) (ls : List (Nat × Nat)) (s : State)
    (k : List (Nat × List Piece) → Out) : Out :=
  match accessChecks s f ls with
  | some (c, i0, i1) => takeTrap c i0 i1 (s.tick 2)
  | none =>
    match resolveLanes s f wait ls with
    | .inr (.bad c i0 i1) => takeTrap c i0 i1 s
    | .inr (.service va) => parkFault va (if f.write then 1 else 0) s
    | .inr (.waitGang h) => s.parkFarAt f ls [h]
    | .inr (.ok ps) => k [(0, ps)]
    | .inl rs =>
      match if f.write then stableHit s rs else none with
      | some (va, i) => takeTrap causeStableViolation (adr0 va) (adr1 va ||| BitVec.ofNat 32 (i * 2 ^ 21)) s
      | none => match gangsAway s f wait ls with
        | [] => k rs
        | gs => s.parkFarAt f ls gs

/-! ## Steps of a chain seen at its issue (R420) -/

/-- Whether a chain of a context that starts at an address has a FUNC step among its next `n`, as memory stands. -/
def State.chainBinds (s : State) (ctx : Nat) : Nat → Nat → Bool
  | 0, _ => false
  | n + 1, va => match s.translate ctx va .read with
    | .phys a =>
      let w0 := s.mem.readNat a 4
      fld w0 28 4 == 1 || (!w0.testBit 27 && State.chainBinds s ctx n (s.mem.readNat (a + 32) 8))
    | _ => false

/-! ## Accesses as they are issued -/

/-- The active lanes with their addresses: the pair of a scalar and a vector of offsets (R279). -/
def laneAddrs (s : State) (b : BitVec 4) (a : BitVec 6) : List (Nat × Nat) :=
  (allLanes.filter fun l => s.exec.getLsbD l.val).map fun l =>
    (l.val, (s.srcPair b + ((s.srcV a.toNat)[l]).setWidth 64).toNat)

/-- Whether an operation is an acquire load that has lanes to read (R284). -/
def Access.acquiring (a : Access) : Bool :=
  match a.kind with
  | .load _ _ _ => a.acquire && !a.lanes.isEmpty
  | _ => false
/-- Whether a later MEMORY word may not issue: an acquire load of the warp has lanes to read, or a full fence or segment
change of it is outstanding (R284, R311, R315). -/
def memoryBlocked (s : State) : Bool :=
  (s.warp.out.any fun a => a.acquiring || a.kind == .fence)
    || (s.cluster s.warp.cluster).changes.any fun c => c.warp == some s.warp.uid

/-- The warp in the focus as the agent of an access. -/
def Warp.agentOf (w : Warp) (a : Access) : Agent := { w.agent with stamp := a.stamp, last := a.last }
/-- The retention hint of an access, 1 where its word has none (R78, R118). -/
def AccKind.hint : AccKind → BitVec 2
  | .load _ _ h | .store _ h => BitVec.ofNat 2 h
  | _ => 1
/-- Who asks for the lines of an access of the warp; a DISCARD's are taken at the pool (R310). -/
def Warp.user (w : Warp) (a : Access) : TokUser :=
  let u := if a.kind = .discard then poolUser w.cluster w.ctx 1 else clusterUser w.cluster w.ctx a.kind.hint
  { u with stamp := a.stamp }
/-- The pieces of some lanes. -/
def piecesOf (ls : List LaneAcc) : List Piece := ls.flatMap fun l => l.pieces
/-- An access added behind the outstanding ones, in program order. Its lanes are a hazard for the warp's own
matrix entries in flight from here on (R173). -/
def State.addAccess (s : State) (a : Access) : State :=
  let own (ps : List Piece) (e : MEntry) : Bool := e.uid == s.warp.uid && ps.any (s.pieceHits e)
  let hit := decide (s.warp.regs.chkrole.toNat < 2) && s.warp.flights.any (own (piecesOf a.lanes))
  let lanes := if hit then a.lanes.map fun l => { l with hazard := s.warp.flights.any (own l.pieces) } else a.lanes
  { (if hit then s.markHazard (own (piecesOf a.lanes)) else s) with nextEntry := s.nextEntry + 1 }.onWarp fun w =>
    { w with out := w.out ++ [{ a with stamp := s.nextEntry, pc := s.grp.pc, lanes := lanes }] }

/-- Counters raised and lowered (R427). -/
def State.addL (s : State) (n : BitVec 6) : State := s.onCnt fun c => { c with l := c.l + n }
def State.addS (s : State) (n : BitVec 6) : State := s.onCnt fun c => { c with s := c.s + n }
def State.addC (s : State) (n : BitVec 6) : State := s.onCnt fun c => { c with c := c.c + n }
def State.addM (s : State) (n : BitVec 6) : State := s.onCnt fun c => { c with m := c.m + n }
def State.addA (s : State) (n : BitVec 6) : State := s.onCnt fun c => { c with a := c.a + n }
/-- Whether a counter may rise; at 63 the group waits at issue (R428). -/
def roomL (s : State) : Bool := s.warp.regs.cnt.l != 63
def roomS (s : State) : Bool := s.warp.regs.cnt.s != 63
def roomC (s : State) : Bool := s.warp.regs.cnt.c != 63
def roomM (s : State) : Bool := s.warp.regs.cnt.m != 63
def roomA (s : State) : Bool := s.warp.regs.cnt.a != 63

/-- Whether any piece lies in far memory (R221). -/
def anyFar (rs : List (Nat × List Piece)) : Bool :=
  rs.any fun r => r.2.any fun p => match p.loc with
    | .phys a => isFar a
    | _ => false
/-- A warp's access to host or peer memory waits while its context's injection is stopped (R385); a shadow or tiebreak runs
to its span's end (R335, R370). -/
def fabricStopped (s : State) (rs : List (Nat × List Piece)) : Bool :=
  decide (s.warp.regs.chkrole.toNat < 2) && (s.ctx s.warp.ctx).injectionStopped && rs.any fun r => r.2.any fun p => match p.loc with
    | .phys a => isHost a || isPeer a
    | _ => false

/-- The translations of pieces of an access noted as ones a TLB may hold (R417). -/
def State.noteUsed (s : State) (ctx : Nat) (want : Want) (ps : List Piece) : State :=
  ps.foldl (fun s p => match p.loc with
    | .phys a => s.noteXlate ctx p.va a want
    | _ => s) s
def State.noteAll (s : State) (want : Want) (rs : List (Nat × List Piece)) : State :=
  rs.foldl (fun s r => s.noteUsed s.warp.ctx want r.2) s

/-- The lanes of an access with their data words: one entry for each lane, or for each word of a wide
private access (R206). -/
def laneAccs (rs : List (Nat × List Piece)) (data : Nat → List Word) : List LaneAcc :=
  rs.flatMap fun r =>
    match r.2 with
    | [p] => [{ lane := r.1, va := p.va, pieces := [p], data := data r.1 }]
    | ps => ps.zipIdx.map fun q =>
      { lane := r.1, part := q.2, va := q.1.va, pieces := [q.1], data := [(data r.1).getD q.2 0] }
/-- The number of an entry among the values read. -/
def LaneAcc.key (l : LaneAcc) : Nat := 4 * l.lane + l.part

/-! ## Replay-log records of loads and atomics (R331) -/

/-- Whether every byte of an access lies in stable ranges of its grid, so that it is not logged. -/
def State.allStable (s : State) (rs : List (Nat × List Piece)) : Bool :=
  rs.all fun r => r.2.all fun p => match p.loc with
    | .phys _ => (s.grid s.warp.grid).stable.any fun q => decide (q.1 ≤ p.va) && decide (p.va + p.len ≤ q.1 + q.2)
    | _ => false

/-- Words cut into runs of `n`, one for each lane. -/
def perLane (n : Nat) : List Nat → List Word → List (Nat × List Word)
  | [], _ => []
  | l :: ls, ws => (4 * l, ws.take n) :: perLane n ls (ws.drop n)

/-- An access with a result of `n` words in each of its lanes, issued: an unchecked run leaves it
outstanding; a checked primary also keeps a place in its log for the values; a shadow or tiebreak takes
the values from the log, performs nothing, and stops where no record matches. -/
def State.issueLogged (s : State) (kind n : Nat) (lanes : List Nat) (a : Access) (k : State → Out) : Out :=
  match s.snap.chkrole with
  | 0 => k (s.addAccess a)
  | 1 =>
    let count := n * lanes.length
    let t := s.addAccess { a with logIdx := some s.warp.span.log.length }
    k (t.onWarp fun w => { w with span := { w.span with
      log := w.span.log ++ [⟨kind, List.replicate count 0⟩]
      used := w.span.used + 4 * (count + 1) } })
  | _ =>
    match s.warp.span.log with
    | r :: rest =>
      if r.kind = kind ∧ r.words.length = n * lanes.length then
        let t := s.addAccess { a with fromLog := true, lanes := [], got := perLane n lanes r.words, due := lanes.map (4 * ·) }
        k (t.onWarp fun w => { w with span := { w.span with log := rest } })
      else .next s.stopRun
    | [] => .next s.stopRun

/-! ## Store signatures and spans (R320, R324) -/

/-- One data word folded into SSIG in a checked run. -/
def State.foldStore (s : State) (x t : Word) : State :=
  s.onWarp fun w => if w.regs.chkrole = 0 then w else
    { w with
      regs := { w.regs with ssig := foldSig w.regs.ssig x t }
      span := { w.span with folds := w.span.folds + 1 } }
/-- The term of an address. -/
def sigTerm (va : Nat) : Word := BitVec.ofNat 32 (va / 4)
/-- The data words of the lanes folded in ascending lane order. -/
def State.foldLanes (s : State) (ls : List LaneAcc) : State :=
  ls.foldl (fun s l => l.data.zipIdx.foldl (fun s q => s.foldStore q.1 (sigTerm (l.va + 4 * q.2))) s) s

/-- A closing instruction ends its span in a checked run, with the store or arrival performed last
(R320, R275). -/
def State.closeSpan (s : State) (c : Closing) (last : Option Access) : State :=
  s.onWarp fun w => if w.regs.chkrole = 0 then w else
    { w with span := { w.span with ending := true, closing := c, last := last.map fun (a : Access) => { a with stamp := s.nextEntry } } }
/-- An opening instruction ends the span before it, unless it is the first of its span (R320). -/
def State.opensSpan (s : State) (k : Out) : Out :=
  if s.snap.chkrole ≠ 0 ∧ s.warp.span.groups ≠ 0 then .next { s with grp := { s.grp with ended := .spanEnd } } else k
/-- An escape of a checked primary (R337). -/
def State.escape (s : State) : State :=
  s.onWarp fun w => if w.regs.chkrole = 1 then { w with span := { w.span with escaped := true } } else w
/-- A scratch write of a checked primary (R336). -/
def State.scratchMark (s : State) : State :=
  s.onWarp fun w => if w.regs.chkrole = 1 then { w with span := { w.span with scratch := true } } else w

end Sys2Proof.Machine
end

