-- ==== Sys2Proof/Machine/Barrier.lean ====
section
/-! DEFINITION. Arrivals at block and group barriers, and their opening (R131). -/

namespace Sys2Proof.Machine

/-- A block's barrier opened where every warp of it that has not exited has arrived. -/
def State.openBsync (s : State) (g block : Nat) : State :=
  let gr := s.grid g
  let n := SMap.get gr.bsync block 0
  if 0 < n ∧ n = gr.launch.warps - SMap.get gr.exited block 0 then
    (s.onGrid g fun x => { x with bsync := SMap.put x.bsync block 0 }).mapWarps fun w =>
      if w.grid = g ∧ s.linearBlock w = block ∧ w.park = .bsync then w.wake else w
  else s
/-- A group's barrier opened where every warp of its blocks that has not exited has arrived. -/
def State.openGsync (s : State) (g id : Nat) : State :=
  let gr := s.grid g
  let members := gr.groups.getD id []
  let n := SMap.get gr.gsync id 0
  let due := members.foldl (fun n b => n + (gr.launch.warps - SMap.get gr.exited b 0)) 0
  if 0 < n ∧ n = due then
    (s.onGrid g fun x => { x with gsync := SMap.put x.gsync id 0 }).mapWarps fun w =>
      if w.grid = g ∧ w.park = .gsync id then w.wake else w
  else s

/-- A warp arrives at its block's barrier and parks there. -/
def State.arriveBsync (s : State) (w : Warp) : State :=
  let b := s.linearBlock w
  ((s.onUid w.uid fun x => { x with park := .bsync, arriving := false }).onGrid w.grid fun g =>
    { g with bsync := SMap.upd g.bsync b 0 (· + 1) }).openBsync w.grid b
/-- A warp arrives at a group's barrier and parks there. -/
def State.arriveGsync (s : State) (w : Warp) (id : Nat) : State :=
  ((s.onUid w.uid fun x => { x with park := .gsync id, arriving := false }).onGrid w.grid fun g =>
    { g with gsync := SMap.upd g.gsync id 0 (· + 1) }).openGsync w.grid id

/-- A warp that waits to arrive does so once its accesses have been performed (R131). -/
def State.tryArrive (s : State) (uid : Nat) : State :=
  match s.warpOf uid with
  | some w =>
    if w.arriving ∧ w.out.all Access.over then
      match w.park with
      | .bsync => s.arriveBsync w
      | .gsync id => s.arriveGsync w id
      | _ => s
    else s
  | none => s

end Sys2Proof.Machine
end

