-- ==== Sys2Proof/Machine/Memory.lean ====
section
/-! DEFINITION. Loads, stores and scalar memory accesses, fences, and the order in which a warp's
outstanding accesses may be performed (R118, R210 to R213, R265, R279 to R284, R315, R316). -/

namespace Sys2Proof.Machine

/-! ## Sizes (R282) -/

/-- Bytes and result words of a size code. -/
def sizeBytes (z : Nat) : Nat :=
  match z with
  | 0 | 5 => 1
  | 1 | 6 => 2
  | 2 => 4
  | 3 => 8
  | _ => 16
def sizeWords (z : Nat) : Nat :=
  match z with
  | 3 => 2
  | 4 => 4
  | _ => 1
/-- A loaded word extended as its size code says. -/
def extendWord (z : Nat) (w : Word) : Word :=
  match z with
  | 5 => (w.setWidth 8).signExtend 32
  | 6 => (w.setWidth 16).signExtend 32
  | _ => w
/-- A stored register word cut to its size code: bytes of a narrow store zero-extended. -/
def cutWord (z : Nat) (w : Word) : Word :=
  match z with
  | 0 => w &&& 0xFF
  | 1 => w &&& 0xFFFF
  | _ => w

/-! ## What may be performed (R265) -/

/-- Whether an outstanding operation makes reads, writes, or both at once (R260). -/
def AccKind.reads : AccKind → Bool
  | .load _ _ _ | .sload _ | .atom _ _ _ | .btry _ _ | .tblload _ _ | .binit _ | .barrive _ | .bexpect _ | .binval => true
  | _ => false
def AccKind.writes : AccKind → Bool
  | .store _ _ | .sstore | .atom _ _ _ | .binit _ | .barrive _ | .bexpect _ | .binval | .discard | .deposit => true
  | _ => false
/-- Whether it is a load, which counts in L (R316). -/
def AccKind.loads : AccKind → Bool
  | .load _ _ _ | .sload _ | .btry _ _ | .scalar _ _ | .tblload _ _ => true
  | _ => false
/-- The bytes a location covers, in a space of its own for each kind of place. -/
def Piece.range (p : Piece) : Nat × Nat :=
  match p.loc with
  | .phys a => (0, a)
  | .sram a => (1, a)
  | .refused _ va => (2, va)
  | .logged g off => (3, g * sramSize + off)
  | .fifo cl seg => (4, cl * 32 * segSize + seg * segSize)
  | .pushLog g seg => (5, g * sramSize + seg * segSize)
def Piece.overlaps (p q : Piece) : Bool :=
  p.range.1 == q.range.1 && decide (p.range.2 < q.range.2 + q.len) && decide (q.range.2 < p.range.2 + p.len)
/-- Whether two sets of pieces share a byte. -/
def piecesMeet (ps qs : List Piece) : Bool := ps.any fun p => qs.any p.overlaps

/-- The places of a lane's next event, and of all that it has left, where they are now (R204, R260). -/
def LaneAcc.next (l : LaneAcc) : List Piece := if l.stage = 0 then l.pieces else (l.after.drop (l.stage - 1)).take 1
def LaneAcc.left (l : LaneAcc) : List Piece := if l.stage = 0 then l.pieces ++ l.after else l.after.drop (l.stage - 1)
def State.nowIn (s : State) (ctx : Nat) (push : Bool) (ps : List Piece) : List Piece :=
  ps.map fun p => { p with loc := s.locNow ctx push p }
def State.nowAt (s : State) (push : Bool) (ps : List Piece) : List Piece := s.nowIn s.warp.ctx push ps

/-- Whether an operation that would be performed now makes an acquire: a BTRY does where it finds its phase complete (R260,
R266). -/
def State.acquires (s : State) (a : Access) : Bool :=
  a.acquire && (match a.kind, a.lanes with
    | .btry _ par, ⟨_, _, _, ⟨.sram o, _, _⟩ :: _, _, _, _, _, _, _, _⟩ :: _ => s.objVal o && s.objPh o != par
    | _, _ => true)
/-- Whether it makes a release, as the arrival of a redirected atomic is one (R260, R287). -/
def Access.releases (a : Access) : Bool :=
  a.release || (match a.kind with
    | .atom _ h _ => h == 2
    | _ => false)
/-- Whether an earlier outstanding operation of the warp lets a later one be performed, by what they are (R265). A BTRY holds
the later ones back until it has been performed, and been found an acquire or not. WBACK makes no event: it follows the
writes before it, and holds nothing back (R310). -/
def State.lets (s : State) (e a : Access) : Bool :=
  e.kind != .fence && e.kind != .fenceAcq && !(e.kind == .fenceRel && (a.kind.writes || s.acquires a))
    && (e.over || !(e.acquire || a.release || (e.releases && s.acquires a)))
/-- Whether an earlier outstanding operation touches none of some places (R265). -/
def State.clears (s : State) (e : Access) (ps : List Piece) : Bool :=
  e.kind == .wback || !(e.lanes.any fun l => piecesMeet (s.nowAt e.push l.left) ps)
/-- Whether a segment change that the warp asked for before the access is still due: it acts as a full fence (R260). -/
def State.fenced (s : State) (a : Access) : Bool :=
  (s.cluster s.warp.cluster).changes.any fun c => c.warp == some s.warp.uid && decide (c.stamp < a.stamp)
/-- Whether an access may be performed after the operations `es` of its warp. -/
def State.allows (s : State) (es : List Access) (a : Access) : Bool := !s.fenced a && es.all fun e => s.lets e a
/-- Whether the `k`-th outstanding operation may be performed now. -/
def State.canPerform (s : State) (k : Nat) : Bool :=
  match s.warp.out[k]? with
  | some a => s.allows (s.warp.out.take k) a
  | none => false
/-- The entries of the `k`-th operation that an event performs: all of them, or where it names a part, those whose
places in the list its mask selects, that no earlier operation holds back (R265). -/
def State.chosen (s : State) (k : Nat) (a : Access) : List LaneAcc :=
  (a.lanes.zipIdx.filter fun q => (!s.ev.b || s.ev.w.getLsbD q.2) &&
    ((s.warp.out.take k).all fun e => s.clears e (s.nowAt a.push q.1.next))).map (·.1)

/-- Fences that nothing before them holds any more are gone (R315). -/
def pruneFrom (kept : List Access) : List Access → List Access
  | [] => kept
  | a :: rest =>
    let done : Bool := match a.kind with
      | .fence | .fenceRel => kept.all Access.over
      | .fenceAcq => kept.all fun e => e.kind != .fenceRel && e.kind != .fence && (e.over || !(e.kind.reads || e.releases))
      | _ => false
    pruneFrom (if done then kept else kept ++ [a]) rest
def pruneFences (out : List Access) : List Access := pruneFrom [] out

/-- A read that an instruction makes at its issue, while nothing outstanding holds it back. DEDUCED (log 21). -/
def issueClear (s : State) (a : Access) : Bool :=
  s.allows s.warp.out { a with stamp := s.nextEntry } && s.warp.out.all fun e => s.clears e (s.nowAt a.push (piecesOf a.lanes))

/-! ## Completion -/

/-- The outstanding operations with one gone or changed: fences that nothing holds are gone too (R315), a wait on a far
load or a held store is tried again (R368), and so is the warp's barrier arrival (R131). -/
def State.afterAccess (s : State) (f : List Access → List Access) : State :=
  (s.onWarp fun w =>
    let w := { w with out := pruneFences (f w.out) }
    match w.park with
    | .far [] _ | .held => w.wake
    | _ => w).tryArrive s.warp.uid
/-- The `k`-th operation is over. -/
def State.finish (s : State) (k : Nat) : State := s.afterAccess fun out => out.eraseIdx k
/-- The `k`-th operation changed. -/
def State.onAccess (s : State) (k : Nat) (f : Access → Access) : State := s.afterAccess fun out => out.modify k f

/-- The words of a lane among the values read, its parts in order. -/
def Access.wordsOf (a : Access) (lane : Nat) : List Word :=
  (List.range 4).flatMap fun k => (a.got.lookup (4 * lane + k)).getD []
/-- The lanes among the values read, ascending. -/
def Access.gotLanes (a : Access) : List Nat :=
  (List.range 32).filter fun l => a.got.any fun g => g.1 / 4 == l
/-- The lanes whose values an event writes to their destination: those that have been read whole, or of them the ones
that it names (R143, R283). -/
def Access.landing (ev : EvArgs) (a : Access) : List Nat :=
  a.gotLanes.filter fun l => a.due.any (fun q => q / 4 == l) && !(a.lanes.any fun x => x.lane == l) && (!ev.b || ev.m.testBit l)
/-- Vector registers from `d` up written in the lanes that have values. -/
def Regs.writeLanes (r : Regs) (d n : Nat) (vals : List (Nat × List Word)) : Regs :=
  (List.range n).foldl (fun r i =>
    let old := r.entry (d + i)
    r.setEntry (d + i) (Vector.ofFn fun l => match vals.lookup l.val with
      | some ws => ws.getD i old[l]
      | none => old[l])) r
/-- A checked primary's log record filled with the values. -/
def State.fillLog (s : State) (idx : Option Nat) (ws : List Word) : State :=
  match idx with
  | none => s
  | some i => s.onWarp fun w => { w with span := { w.span with log := w.span.log.modify i fun r => { r with words := ws } } }
/-- The result words of a lane as its destination gets them (R282, R286). -/
def Access.result (a : Access) (lane : Nat) : List Word :=
  match a.kind with
  | .load z _ _ => (a.wordsOf lane).map (extendWord z)
  | .atom fn _ _ => (a.wordsOf lane).take (if fn = 14 then 2 else 1)
  | _ => a.wordsOf lane
/-- Results written to the destination of an operation (R118, R283, R286, R296). -/
def Access.land (a : Access) (vals : List (Nat × List Word)) (r : Regs) : Regs :=
  match a.kind with
  | .load z d _ => r.writeLanes d (sizeWords z) vals
  | .atom fn 0 d => r.writeLanes d (if fn = 14 then 2 else 1) vals
  | .sload d | .btry d _ | .scalar d _ => match vals with
    | v :: _ => r.setSn d (v.2.headD 0)
    | [] => r
  | _ => r
/-- The `k`-th operation, after an event of it: results of some lanes reach their destination, and with the last one it is
over (R283, R286). -/
def State.landAt (s : State) (k : Nat) (a : Access) (count : State → State) : State :=
  let now := a.landing s.ev
  let t := s.onRegs (a.land (now.map fun l => (l, a.result l)))
  let due := a.due.filter fun q => !now.contains (q / 4)
  if a.lanes.isEmpty ∧ due.isEmpty then count ((t.fillLog a.logIdx (a.gotLanes.flatMap a.result)).finish k)
  else t.onAccess k fun _ => { a with due := due }

/-! ## The bytes of an entry -/

/-- The bytes that an entry's pieces hold. -/
def LaneAcc.width (l : LaneAcc) : Nat := l.pieces.foldl (fun n p => n + p.len) 0
/-- Bytes of an entry's data, as many as its pieces hold. -/
def LaneAcc.bytes (l : LaneAcc) : List Byte := (bytesOfWords l.data).take l.width
/-- A byte of an entry as a piece of its own. -/
def byteIn : List Piece → Nat → Option Piece
  | [], _ => none
  | p :: ps, i =>
    if i < p.len then some { p with
      va := p.va + i
      len := 1
      loc := match p.loc with
        | .phys a => .phys (a + i)
        | .sram a => .sram (a + i)
        | .logged g off => .logged g (off + i)
        | x => x }
    else byteIn ps (i - p.len)
/-- The lines of physical memory that entries touch. -/
def physLines (ls : List LaneAcc) : List Nat :=
  (ls.flatMap fun l => l.pieces.flatMap fun p => match p.loc with
    | .phys a => linesOf a p.len
    | _ => []).eraseDups
/-- Whether an access in flight, a copy or the step of a chain that has been read, a matrix entry or a request from outside
shares bytes with an entry at another base and in another size, so that each byte of it is an event by itself (R259).
DEDUCED (log 12). -/
def State.mixed (s : State) (l : LaneAcc) : Bool :=
  let other (p q : Piece) : Bool := p.overlaps q && p.range.2 != q.range.2 && p.len != q.len
  let words (a n : Nat) : Bool := l.pieces.any fun p => p.len != 4 && decide (p.va < a + n) && decide (a < p.va + p.len)
  (s.allWarps.any fun w => w.uid != s.warp.uid && (
      (w.out.any fun b => b.lanes.any fun m => m.pieces.any fun q => l.pieces.any fun p => other p q)
      || (w.ctx == s.warp.ctx && w.queued.any fun e => !e.done && l.pieces.any fun p => p.len != 4 && s.pieceHits e p)))
    || (s.clusters.any fun c => c.2.engine.any fun j => j.ctx == s.warp.ctx && (match j.job with
      | .copy x => words x.src x.len || words (if x.fn = 1 then ownBase + x.dst else x.dst) x.len
          || (x.dlt && words x.old x.len)
      | .chain va _ _ => words va 64 || (j.step.length == 16 &&
          (let w (i : Nat) : Nat := ((SMap.find j.step i).getD 0).toNat
           words (w 1 + 2 ^ 32 * w 2) (w 5) || words (w 3 + 2 ^ 32 * w 4) (w 5)))))
    || s.ingress.any fun i => l.pieces.any fun p => match p.loc with
      | .phys a => decide (a < i.pa + i.bytes.length) && decide (i.pa < a + p.len) && (a != i.pa || p.len != i.bytes.length)
      | _ => false
/-- The bytes of an entry that an event performs: all that remain, or of one whose bytes are events by themselves, those
that the event names. -/
def State.part (s : State) (l : LaneAcc) : List Nat :=
  (List.range l.width).filter fun i => (SMap.find l.seen i).isNone && (!s.ev.b || s.ev.v = 0 || s.ev.v.getLsbD i || !s.mixed l)

/-- Whether the values of entries are free: they touch regions of matrix entries in flight (R173). -/
def State.touchLanes (s : State) (ag : Agent) : List LaneAcc → State × List LaneAcc
  | [] => (s, [])
  | l :: ls =>
    let (t, hz) := s.touch ag (s.nowIn ag.ctx false l.next)
    let r := t.touchLanes ag ls
    (r.1, { l with hazard := l.hazard || hz } :: r.2)
/-- A barrier object that a hazard has touched: its bytes are free (R173). -/
def State.spoilObject (s : State) (hazard : Bool) (p : Piece) : State :=
  match s.locNow s.warp.ctx false p with
  | .sram o => if hazard then { s.tick 16 with sram := s.sram.writeBytes o (s.freeBytes 16) } else s
  | _ => s
/-- Free words in place of some. -/
def unknownWords (fresh : Nat) (ws : List Word) : List Word := ws.zipIdx.map fun w => Config.freeWord (fresh + w.2)
/-- The data of entries, free where they are a hazard: the state after, and the entries. -/
def State.freeData (s : State) (ls : List LaneAcc) : State × List LaneAcc :=
  if ls.any fun l => l.hazard then
    (s.tick (32 * ls.length), ls.zipIdx.map fun q => if q.1.hazard then { q.1 with data := unknownWords (s.fresh + 32 * q.2) q.1.data } else q.1)
  else (s, ls)

/-- A gang that is not running whose scratch an entry's lanes address, with the address: the access is sent back, and its
warp parks until that gang runs, in the same way as at issue (R205). -/
def State.sentBack (s : State) (a : Access) (ls : List LaneAcc) : Option (Nat × Nat) :=
  (s.nowAt a.push (ls.flatMap LaneAcc.next)).findSome? fun p => match p.loc with
    | .logged h _ | .pushLog h _ => some (h, p.va)
    | _ => none
def State.parkFar (s : State) (a : Access) (h : Nat × Nat) : State :=
  (s.onWarp fun w => if w.park = .ready then { w with park := .far [h.1] (some (h.2, a.kind.writes, a.pc)) } else w).holdFocus

/-! ## Loads (R118, R282, R283) -/

/-- The pops of an access taken at its issue: the lanes on a FIFO segment get the words of its head entry
(R211); nothing where some segment is empty, with that segment. -/
def State.takePops (s : State) : List LaneAcc → List (Nat × Nat) → (State × List (Nat × List Word)) ⊕ Nat
  | _, [] => .inl (s, [])
  | ls, (cl, seg) :: rest =>
    match (s.segment cl seg).fifo with
    | [] => .inr seg
    | e :: _ =>
      match State.takePops s ls rest with
      | .inr x => .inr x
      | .inl (t, got) => .inl (t.popEntry cl seg,
          got ++ (ls.filter fun l => l.pieces.any fun p => p.loc == .fifo cl seg).map fun l => (l.key, [laneAt e l.lane]))
/-- Whether an entry pushes on a FIFO segment, or on the log of a saved gang's (R204, R212). -/
def LaneAcc.pushes (l : LaneAcc) : Bool :=
  l.pieces.any fun p => match p.loc with
    | .fifo _ _ | .pushLog _ _ => true
    | _ => false
/-- The FIFO segments that an access names. -/
def fifosOf (ls : List LaneAcc) : List (Nat × Nat) :=
  (ls.filterMap fun l => l.pieces.findSome? fun p => match p.loc with
    | .fifo cl seg => some (cl, seg)
    | _ => none).eraseDups

/-- A load issued with the places of its lanes: L rises; pops take their entries at once, as acquires. -/
def issueLoad (kind : AccKind) (words : Nat) (acq : Bool) (rs : List (Nat × List Piece)) (s : State) : Out :=
  if 2 ≤ s.snap.chkrole.toNat ∧ ¬ s.allStable rs then
    s.issueLogged 0 words (rs.map (·.1)) { kind := kind, acquire := acq } fun t => (t.addL 1).ok
  else if fabricStopped s rs then s.parkAtIssue .fabric
  else
    let ls := laneAccs rs fun _ => []
    let fifos := fifosOf ls
    let a : Access := { kind := kind, acquire := acq, far := anyFar rs, lanes := ls }
    if ¬ fifos.isEmpty ∧ ¬ issueClear s { a with acquire := true } then s.stall
    else match s.takePops ls fifos with
      | .inr seg => s.parkAtIssue (.fifo seg)
      | .inl (t, got) =>
        let rest := ls.filter fun l => !(l.pieces.any fun p => match p.loc with
          | .fifo _ _ => true
          | _ => false)
        let t := t.noteAll .read rs
        let a := { a with lanes := rest, got := got, due := got.map (·.1) }
        if s.allStable rs then ((t.addAccess a).addL 1).ok
        else t.issueLogged 0 words (rs.map (·.1)) a fun u => (u.addL 1).ok

/-- A fence of the warp behind its outstanding operations, until what it waits for is performed (R315). -/
def issueFence (k : AccKind) (s : State) : State :=
  let a : Access := { kind := k, stamp := s.nextEntry }
  { s with nextEntry := s.nextEntry + 1 }.onWarp fun w => { w with out := pruneFences (w.out ++ [a]) }

/-- VLD (R282 to R284). With EXEC = 0 it makes no access; an acquire still acts as FENCE.ACQ (R281). -/
def execVld (z : BitVec 3) (o : BitVec 1) (w : BitVec 2) (d a : BitVec 6) (b : BitVec 4) (h : BitVec 2) (s : State) : Out :=
  let z := z.toNat
  s.vnames [(d.toNat, 2 ^ w.toNat), (a.toNat, 1)] <|
    if memoryBlocked s then s.stall
    else if s.exec = 0 then (if o = 1 then issueFence .fenceAcq s else s).ok
    else if !roomL s then s.stall
    else withLanes ⟨sizeBytes z, sizeBytes z, false, z == 2⟩ (s.snap.chkrole.toNat < 2) (laneAddrs s b a) s fun rs =>
      issueLoad (.load z d.toNat h.toNat) (sizeWords z) (o = 1) rs s

/-- The address of SLD and SST, with its own checks (R118, R137). -/
def scalarAddr (a : BitVec 4) (i : BitVec 15) (s : State) (k : Nat → Out) : Out :=
  let va := (s.srcPair a + i.signExtend 64).toNat
  if va % 4 ≠ 0 then takeTrap causeMisaligned (adr0 va) (adr1 va) s
  else match windowOf va with
    | .priv _ => takeTrap causePrivateScalar (adr0 va) (adr1 va) s
    | _ => k va

/-- SLD (R118). -/
def execSld (d : BitVec 5) (a : BitVec 4) (i : BitVec 15) (s : State) : Out :=
  if memoryBlocked s || !roomL s then s.stall
  else scalarAddr a i s fun va =>
    withLanes ⟨4, 4, false, false⟩ (s.snap.chkrole.toNat < 2) [(0, va)] s fun rs =>
      issueLoad (.sload d.toNat) 1 false rs s

/-- The trap that the refused lanes of a load latch: the first refused address (R204). -/
def State.latchRefused (s : State) (ls : List LaneAcc) : State :=
  match (s.nowAt false (ls.flatMap fun l => l.pieces)).findSome? fun p => match p.loc with
    | .refused c va => some (c, va)
    | _ => none with
  | some (c, va) => s.latch s.warp.agent c (adr0 va) (adr1 va)
  | none => s

/-- The bytes of an entry as its agent reads them. -/
def State.readLane (s : State) (ag : Agent) (kept : List (Nat × List Byte)) (l : LaneAcc) : List Byte :=
  l.pieces.flatMap fun p => s.readPiece ag p kept
/-- The value of an entry whose bytes have all been read. -/
def LaneAcc.value (l : LaneAcc) : List Word := wordsOfBytes l.width (l.seen.map (·.2))
/-- Lanes of a load read: those that the event chooses and whose lines a token has come for (R229, R235). The values of a
hazard are free (R173). -/
def State.readLanes (s : State) (k : Nat) (a : Access) : State × Access :=
  let sel := s.chosen k a
  let (t, found, kept) := s.askEach (s.warp.user a) (physLines sel)
  let (u, ls) := t.touchLanes (s.warp.agentOf a) (sel.filter fun l => (physLines [l]).all found.contains)
  let ls := ls.map fun l =>
    let bs := u.readLane (s.warp.agentOf a) kept l
    { l with seen := (u.part l).foldl (fun m i => SMap.put m i (bs.getD i 0)) l.seen }
  let done := ls.filter fun l => l.seen.length == l.width
  let v := if ls.any fun l => l.hazard then u.tick (32 * ls.length) else u
  let got := done.zipIdx.map fun q => (q.1.key, if q.1.hazard then unknownWords (u.fresh + 32 * q.2) q.1.value else q.1.value)
  (v.latchRefused ls, { a with
    lanes := (a.lanes.map fun l => (ls.find? fun x => x.key == l.key).getD l).filter fun l => !(done.any fun x => x.key == l.key)
    got := a.got ++ got
    due := a.due ++ got.map (·.1) })

/-! ## Stores (R118, R283, R211) -/

/-- The queue that an entry of a VST.32 pushes on, if its place is in one now (R204, R211). -/
def State.queueOf (s : State) (ctx : Nat) (a : Access) (l : LaneAcc) : Option Loc :=
  if !a.push then none
  else match s.nowIn ctx true l.pieces with
    | [⟨.fifo cl seg, _, _⟩] => some (.fifo cl seg)
    | [⟨.pushLog g seg, _, _⟩] => some (.pushLog g seg)
    | _ => none
/-- Whether a piece is peer scratch. -/
def Piece.peer (p : Piece) : Bool := decide (peerBase ≤ p.va)

/-- A store issued: S rises; what a closing store holds apart is held at once, and raises and lowers S together (R322, R427). A
release in a checked run closes its span: its held bytes are committed after the span's
others, and its scratch bytes and pushes are performed when the span commits (R275, R320, R327). A push waits while its
FIFO is full (R212). -/
def issueStore (kind : AccKind) (rel : Bool) (rs : List (Nat × List Piece)) (data : Nat → List Word) (s : State) : Out :=
  let ls := laneAccs rs data
  let full := (fifosOf ls).any fun f => s.fifoFull f.1 f.2
  let push := match kind with
    | .store z _ => z == 2
    | _ => false
  if fabricStopped s rs ∧ s.snap.chkrole.toNat < 2 then s.parkAtIssue .fabric
  else if full ∧ s.snap.chkrole.toNat < 2 then s.stall
  else
    let a : Access := { kind := kind, far := anyFar rs, push := push, lanes := ls, release := rel || ls.any LaneAcc.pushes }
    let t := (s.noteAll .write rs).foldLanes ls
    if rel ∧ s.snap.chkrole ≠ 0 then
      let (glob, rest) := ls.partition fun l => !(physLines [l]).isEmpty
      let t := if rest.isEmpty then t else t.scratchMark
      let t := if (piecesOf rest).any Piece.peer then t.escape else t
      let t := t.closeSpan .none (if rest.isEmpty then none else some { a with lanes := rest })
      (if glob.isEmpty then t else (t.addAccess { a with lanes := glob, last := true, release := false }).addS 1).ok
    else ((t.addAccess a).addS 1).ok

/-- VST (R282 to R284). With EXEC = 0 it makes no access; a release still acts as FENCE.REL (R281). -/
def execVst (z : BitVec 3) (o : BitVec 1) (w : BitVec 2) (d a : BitVec 6) (b : BitVec 4) (h : BitVec 2) (s : State) : Out :=
  let z := z.toNat
  s.vnames [(d.toNat, 2 ^ w.toNat), (a.toNat, 1)] <|
    if memoryBlocked s then s.stall
    else if s.exec = 0 then (if o = 1 then (issueFence .fenceRel s).closeSpan .none none else s).ok
    else if !roomS s then s.stall
    else withLanes ⟨sizeBytes z, sizeBytes z, true, z == 2⟩ false (laneAddrs s b a) s fun rs =>
      issueStore (.store z h.toNat) (o = 1) rs
        (fun l => (List.range (sizeWords z)).map fun i => cutWord z (laneAt (s.srcV (d.toNat + i)) l)) s

/-- SST (R118). -/
def execSst (d : BitVec 5) (a : BitVec 4) (i : BitVec 15) (s : State) : Out :=
  if memoryBlocked s || !roomS s then s.stall
  else scalarAddr a i s fun va =>
    withLanes ⟨4, 4, true, false⟩ false [(0, va)] s fun rs => issueStore .sstore false rs (fun _ => [s.srcS d]) s

/-- Bytes of an entry written by its agent, whole or those that an event names (R259). -/
def State.writeLane (s : State) (ag : Agent) (part : List Nat) (l : LaneAcc) : State :=
  if part.length = l.width then s.writePieces ag l.pieces l.bytes
  else part.foldl (fun s i => match byteIn l.pieces i with
    | some p => s.writePiece ag p [l.bytes.getD i 0]
    | none => s) s
/-- The entry of a push: lane words where a lane is on the segment, 0 elsewhere (R211). -/
def pushOf (ls : List LaneAcc) : Lanes :=
  Vector.ofFn fun l => match ls.find? fun x => x.lane == l.val with
    | some x => x.data.headD 0
    | none => 0
/-- A whole entry pushed on a queue, or on the arrival log for one of a saved gang (R211, R213, R378); it is a scratch
write of a checked primary, and an escape where the queue is a peer's (R336, R337). -/
def State.pushOn (s : State) (ag : Agent) (q : Loc) (ls : List LaneAcc) : State :=
  let e := pushOf ls
  let va := (ls.head?.map (·.va)).getD 0
  let s := if ag.role = 1 then s.onUid ag.uid fun w => { w with
      span := { w.span with scratch := true, escaped := w.span.escaped || decide (peerBase ≤ va) } } else s
  if 2 ≤ ag.role then s
  else match q with
    | .fifo cl seg => if (s.segment cl seg).mode = .fifo then s.pushEntry cl seg e else s
    | .pushLog g seg => s.appendLog ag va { kind := 3, gang := g, off := seg * segSize, mask := 0, data := e.toList }
    | _ => s
/-- Entries written by an agent in ascending lane order, the highest lane last (R210); pushes enter their segments
whole. -/
def State.performStores (s : State) (ag : Agent) (a : Access) (ls : List LaneAcc) : State :=
  let queues := (ls.filterMap (s.queueOf ag.ctx a)).eraseDups
  let t := (ls.filter fun l => (s.queueOf ag.ctx a l).isNone).foldl (fun t l => t.writeLane ag (s.part l) l) s
  queues.foldl (fun t q => t.pushOn ag q (ls.filter fun l => s.queueOf ag.ctx a l == some q)) t

/-- The entries that go, in lane order: none passes an earlier one that stays and writes a byte of it (R210). -/
def inOrder (go stays : LaneAcc → Bool) : List LaneAcc → List LaneAcc → List LaneAcc
  | _, [] => []
  | kept, l :: ls =>
    if go l && !(kept.any fun x => piecesMeet x.pieces l.pieces) then l :: inOrder go stays (if stays l then kept ++ [l] else kept) ls
    else inOrder go stays (kept ++ [l]) ls
/-- The entries of a store that an event performs: those it chooses, all of a push with any of it, that find room in their
queue and may be written in order. -/
def State.storesNow (s : State) (k : Nat) (a : Access) : List LaneAcc :=
  let sel := s.chosen k a
  let keys := sel.map LaneAcc.key
  let queues := sel.filterMap (s.queueOf s.warp.ctx a)
  let room (q : Loc) : Bool := match q with
    | .fifo cl seg => !s.fifoFull cl seg
    | _ => true
  inOrder (fun l => match s.queueOf s.warp.ctx a l with
      | some q => queues.contains q && room q
      | none => keys.contains l.key)
    (fun l => (s.part l).length + l.seen.length != l.width) [] a.lanes
/-- Writes asked for by entries: the state after, and those whose lines may all be written now (R229, R235, R250). -/
def State.grantLanes (s : State) (u : TokUser) (ls : List LaneAcc) : State × List LaneAcc :=
  let can (l : LaneAcc) : Bool := (physLines [l]).all fun x => !tokenLine x || s.mayWrite (u.writer s x) x
  let yes := physLines (ls.filter can)
  let no := (physLines (ls.filter fun l => !can l)).filter fun x => !yes.contains x && tokenLine x && !s.mayWrite (u.writer s x) x
  let (t, granted) := s.grantWrites u yes
  ((t.grantWrites u no).1, (ls.filter can).filter fun l => (physLines [l]).all granted.contains)

/-! ## Fences (R315) -/

/-- FENCE ends the span of a checked run (R315, R320). -/
def execFence (s : State) : Out :=
  if memoryBlocked s then s.stall else ((issueFence .fence s).closeSpan .none none).ok
/-- FENCE.REL (R315). -/
def execFenceRel (s : State) : Out :=
  if memoryBlocked s then s.stall else ((issueFence .fenceRel s).closeSpan .none none).ok
/-- FENCE.ACQ (R315). -/
def execFenceAcq (s : State) : Out :=
  if memoryBlocked s then s.stall else (issueFence .fenceAcq s).ok

end Sys2Proof.Machine
end

