-- ==== Sys2Proof/Machine/Atomic.lean ====
section
/-! DEFINITION. Atomics (R285 to R291): their operations, the combining of lanes on one location, host
atomics, redirected old values, and ATOMIC_RETURN. -/

namespace Sys2Proof.Machine

/-! ## Operations (R285) -/

/-- round_rne(a + b) of two codes of a format; FPMODE is not read. -/
def addCode (f : Fmt) (a b : Nat) : Nat := (addV f 0 (unpack f a) (unpack f b)).bits

/-- The addition of the functions that combine their lanes, FN 0, 1, 2 and 14, on 32 or 64 bits. -/
def atomAdd (fn : Nat) (a b : Nat) : Nat :=
  match fn with
  | 0 => (a + b) % 2 ^ 32
  | 1 => addCode fmtF32 a b
  | 2 => addCode fmtB16 (a % 65536) (b % 65536) + 65536 * addCode fmtB16 (a / 65536) (b / 65536)
  | _ => (a + b) % 2 ^ 64

/-- The new value from the old value m, the operand v and CAS's swap word; none for a failed CAS, which
only reads. -/
def atomOp (fn : Nat) (m v swap : Nat) : Option Nat :=
  let x := BitVec.ofNat 32 m
  let y := BitVec.ofNat 32 v
  match fn with
  | 3 => some (if y.slt x then v else m)
  | 4 => some (if x.slt y then v else m)
  | 5 => some (min m v)
  | 6 => some (max m v)
  | 7 => some (x &&& y).toNat
  | 8 => some (x ||| y).toNat
  | 9 => some (x ^^^ y).toNat
  | 10 => some v
  | 11 => if m = v then some swap else none
  | 12 => some (if v ≤ m then 0 else m + 1)
  | 13 => some (if m = 0 ∨ v < m then v else m - 1)
  | _ => some (atomAdd fn m v)

/-- Whether the lanes of a function on one location are combined (R289). -/
def combines (fn : Nat) : Bool := fn == 0 || fn == 1 || fn == 2 || fn == 14

/-- The prefix of combined operands and each lane's returned value: `p` is none before the first lane. -/
def combinePrefix (fn m : Nat) : Option Nat → List Nat → List Nat × Option Nat
  | p, [] => ([], p)
  | none, v :: vs =>
    let r := combinePrefix fn m (some v) vs
    (m :: r.1, r.2)
  | some p, v :: vs =>
    let r := combinePrefix fn m (some (atomAdd fn p v)) vs
    (atomAdd fn m p :: r.1, r.2)

/-- A register operand as a number: the low word, or the pair for ADD.I64. -/
def operandOf (fn : Nat) (ws : List Word) : Nat :=
  if fn = 14 then (pair (ws.getD 0 0) (ws.getD 1 0)).toNat else (ws.getD 0 0).toNat

/-! ## One location -/

/-- A new value written by an atomic; one in scratch marks a checked primary's span (R336). -/
def State.atomWrite (s : State) (ag : Agent) (p : Piece) (v : Nat) : State :=
  let s := match p.loc with
    | .sram _ => if ag.role = 1 then s.onUid ag.uid fun w => { w with span := { w.span with scratch := true } } else s
    | _ => s
  s.writePiece ag.unheld p (bytesOfNat p.len v)

/-- The atomic's word at a piece as the agent sees it: a checked primary over its own pending bytes (R276). -/
def State.atomRead (s : State) (ag : Agent) (p : Piece) : Nat := wordOfBytes (s.readPiece ag p)

/-- One RMW for each entry in turn (R288); the values read, by entry. -/
def State.rmwEach (s : State) (ag : Agent) (fn : Nat) : List LaneAcc → State × List (Nat × List Word)
  | [] => (s, [])
  | l :: ls =>
    match l.pieces with
    | [] => State.rmwEach s ag fn ls
    | p :: _ =>
      let m := s.atomRead ag p
      let s := match atomOp fn m (operandOf fn l.data) (l.data.getD 1 0).toNat with
        | some v => s.atomWrite ag p v
        | none => s
      let r := State.rmwEach s ag fn ls
      (r.1, (l.key, [BitVec.ofNat 32 m, BitVec.ofNat 32 (m / 2 ^ 32)]) :: r.2)

/-- The combined RMW of entries on one location (R289). -/
def State.rmwCombined (s : State) (ag : Agent) (fn : Nat) (ls : List LaneAcc) : State × List (Nat × List Word) :=
  match ls.findSome? fun l => l.pieces.head? with
  | none => (s, [])
  | some p =>
    let m := s.atomRead ag p
    let (rets, pre) := combinePrefix fn m none (ls.map fun l => operandOf fn l.data)
    let s := match pre with
      | some v => s.atomWrite ag p (atomAdd fn m v)
      | none => s
    (s, (ls.zip rets).map fun q => (q.1.key, [BitVec.ofNat 32 q.2, BitVec.ofNat 32 (q.2 / 2 ^ 32)]))

/-! ## Host memory (R290, R450) -/

/-- Whether an entry lies in host memory. -/
def LaneAcc.host (l : LaneAcc) : Bool :=
  l.pieces.any fun p => match p.loc with
    | .phys a => isHost a
    | _ => false
/-- Whether the root port completes what the function is sent as; the two 32-bit RMWs of a private ADD.I64 are sent as
32-bit ones. DEDUCED (log 43). -/
def hostCompletes (cap : Word) (fn : Nat) (priv : Bool) : Bool := if fn = 14 ∧ ¬ priv then cap.getLsbD 1 else cap.getLsbD 0
/-- Whether a function is emulated by a loop of reads and CASes. -/
def hostEmulated (fn : Nat) : Bool := !(fn == 0 || fn == 14 || fn == 10 || fn == 11)

/-- Entries whose host access cannot be made return 0 and latch their trap with the first address. -/
def State.hostFail (s : State) (ag : Agent) (cause : Nat) (ls : List LaneAcc) : State × List (Nat × List Word) :=
  match ls with
  | [] => (s, [])
  | l :: _ => (s.latch ag cause (adr0 l.va) (adr1 l.va), ls.map fun l => (l.key, [0, 0]))

/-! ## The entries of one event -/

/-- Entries grouped by the place they name, in the order of their lowest lanes. -/
def groupByPlace : Nat → List LaneAcc → List (List LaneAcc)
  | 0, _ => []
  | _, [] => []
  | n + 1, l :: ls =>
    let same (x : LaneAcc) : Bool := x.pieces.map (·.loc) == l.pieces.map (·.loc)
    (l :: ls.filter same) :: groupByPlace n (ls.filter fun x => !same x)

/-- The high words of a private ADD.I64 add the carry out of the low addition, so an entry for part 1 runs
after its part 0 has been read (R288). -/
def carryIn (lo : Nat) (v : Nat) : Nat := (lo + v) / 2 ^ 32
def State.rmwPrivate (s : State) (ag : Agent) (got : List (Nat × List Word)) : List LaneAcc → State × List (Nat × List Word)
  | [] => (s, [])
  | l :: ls =>
    match l.pieces with
    | [] => State.rmwPrivate s ag got ls
    | p :: _ =>
      let m := s.atomRead ag p
      let v := (l.data.getD 0 0).toNat
      let c := if l.part = 0 then 0 else
        match got.lookup (4 * l.lane) with
        | some lo => carryIn (lo.headD 0).toNat (l.data.getD 1 0).toNat
        | none => 0
      let s := s.atomWrite ag p ((m + v + c) % 2 ^ 32)
      let e := (l.key, [BitVec.ofNat 32 m])
      let r := State.rmwPrivate s ag (got ++ [e]) ls
      (r.1, e :: r.2)

/-- All the RMWs of some entries: refused lanes change nothing and give 0; host lanes under R290; lanes on
one location combined, or one RMW for each lane. `retry` marks the entries whose emulation loop stopped, a combined group
by its lowest lane, as it is one loop. -/
def State.rmwAll (s : State) (ag : Agent) (fn retry : Nat) (priv : Bool) (old : List (Nat × List Word)) (ls : List LaneAcc) :
    State × List (Nat × List Word) :=
  let refused (l : LaneAcc) : Bool := (s.nowAt false l.pieces).any fun p => match p.loc with
    | .refused _ _ => true
    | _ => false
  let bad := ls.filter refused
  let s := bad.foldl (fun s (l : LaneAcc) => s.writePieces ag.unheld l.pieces []) s
  let r0 : List (Nat × List Word) := bad.map fun l => (l.key, [0, 0])
  let ls := ls.filter fun l => !refused l
  let host := ls.filter LaneAcc.host
  let able := hostCompletes s.dev.hostcap fn priv
  let unsup := if able then [] else host
  let loops := if combines fn then groupByPlace 32 host else host.map fun l => [l]
  let stop := if able ∧ hostEmulated fn then
    (loops.filter fun g => (g.head?.map fun l => retry.testBit l.lane).getD false).flatten else []
  let (s, r1) := s.hostFail ag causeHostAtomicUnsupported unsup
  let (s, r2) := s.hostFail ag causeHostAtomicRetry stop
  let ok := ls.filter fun l => !(unsup.contains l || stop.contains l)
  let (s, r3) := if priv then s.rmwPrivate ag old ok
    else (groupByPlace 32 ok).foldl (fun (x : State × List (Nat × List Word)) g =>
      let y := if combines fn then x.1.rmwCombined ag fn g else x.1.rmwEach ag fn g
      (y.1, x.2 ++ y.2)) (s, [])
  (s, r0 ++ r1 ++ r2 ++ r3)

/-! ## Redirected old values (R271, R287) -/

/-- The slot and the object of a redirect word, by peer address (R287). -/
def redirectTo (s : State) (fn : Nat) (word : Word) : List Piece :=
  let base := peerBase + fld word.toNat 23 9 * sramSize
  let slot := fld word.toNat 4 19 * 16
  let at_ (o n : Nat) : Piece := ⟨s.peerLoc s.warp.ctx false (base + o) (fld word.toNat 23 9) o, base + o, n⟩
  [at_ slot (if fn = 14 then 8 else 4), at_ (slot / segSize * segSize + 16 * fld word.toNat 0 4) 16]
/-- The next event of an entry whose RMW has been performed: the old value written to its slot, bytes of no fixed value where
it touches regions of matrix entries in flight (R173), then the arrival. What was not performed redirects 0, and arrives. DESIGN CHOICE (log 43). -/
def State.redirect (s : State) (ag : Agent) (old : List Word) (l : LaneAcc) : State :=
  match l.next with
  | [] => s
  | p :: _ =>
    if l.stage = 1 then
      let old := if l.hazard then unknownWords (s.fresh + 4 * l.lane) (old ++ [0, 0]) else old
      s.scratchMark.writePiece ag.unheld p ((bytesOfWords old).take p.len)
    else (s.escape.scratchMark.peerArrive ag ((p.va - peerBase) / sramSize) ((p.va - peerBase) % sramSize)).spoilObject l.hazard p

/-! ## ATOMIC_RETURN (R286) -/

/-- The entries of an atomic whose RMW an event performs: of combined ones all on a place with any of it; of others none
before a lower lane on its place; and the high word of a private ADD.I64 after its low word (R288, R289). -/
def State.rmwNow (s : State) (k : Nat) (a : Access) (fn : Nat) (priv : Bool) : List LaneAcc :=
  let sel := (s.chosen k a).filter fun l => l.stage == 0
  let place (l : LaneAcc) : List Loc := l.pieces.map (·.loc)
  let all := a.lanes.filter fun l => l.stage == 0
  if priv then sel.filter fun l => l.part == 0 || !(all.any fun x => x.lane == l.lane && x.part == 0) || sel.any fun x => x.lane == l.lane && x.part == 0
  else if combines fn then all.filter fun l => sel.any fun x => place x == place l
  else inOrder (fun l => sel.any fun x => x.key == l.key) (fun _ => false) [] all
/-- The entries of a redirected atomic whose slot write or arrival an event performs; an arrival is a release (R260). -/
def State.redirectsNow (s : State) (k : Nat) (a : Access) : List LaneAcc :=
  (s.chosen k a).filter fun l => l.stage == 1 || (l.stage == 2 && s.allows (s.warp.out.take k) { a with release := true })
/-- An entry after one of its events, if it has any left. -/
def LaneAcc.onward (l : LaneAcc) : Option LaneAcc := if l.stage < l.after.length then some { l with stage := l.stage + 1 } else none

/-- ATOMIC_RETURN's effect on the `k`-th operation: each chosen entry's next event; results that reach their destination;
and with the last the counter lowered (R286 to R290). A host RMW that fails, and a peer access that is refused, leave
their lanes performed with 0; what a peer that has gone down would return is free (R453). DESIGN CHOICE (log 43). -/
def returnAtomic (k : Nat) (a : Access) (fn h : Nat) (s : State) : State :=
  let ag := s.warp.agentOf a
  let priv := a.lanes.any fun l => l.stage == 0 && (l.part != 0 || a.got.any fun g => g.1 / 4 == l.lane)
  let later := s.redirectsNow k a
  let (t, now) := s.grantLanes (s.warp.user a) (s.rmwNow k a fn priv)
  let (t, ls) := t.touchLanes ag (now ++ later)
  let rmw := ls.filter fun l => l.stage == 0
  let (u, got) := t.rmwAll ag fn s.ev.n priv a.got rmw
  let (v, fs) := u.freeData rmw
  let hz := fs.filter fun l => l.hazard
  let v := hz.foldl (fun v (l : LaneAcc) => v.writePieces ag.unheld l.pieces l.bytes) v
  let got := got.map fun g => match fs.find? fun l => l.key == g.1 && (l.hazard || l.orphan) with
    | some _ => (g.1, unknownWords (u.fresh + 32 * rmw.length + 32 * g.1) g.2)
    | none => g
  let v := if fs.any fun l => l.hazard || l.orphan then v.tick 8192 else v
  let v := if rmw.isEmpty then v else v.escape
  let v := (ls.filter fun l => l.stage != 0).foldl (fun v l => v.redirect ag (a.wordsOf l.lane) l) v
  let v := if later.isEmpty then v else v.tick 256
  let moved := (rmw ++ later).map LaneAcc.key
  let a := { a with
    lanes := a.lanes.filterMap fun l => if moved.contains l.key then l.onward else some l
    got := a.got ++ got
    due := if h = 0 then a.due ++ got.map (·.1) else [] }
  v.landAt k a fun x => if h = 0 then x.addA (-1) else x.addS (-1)

/-! ## Issue -/

/-- The redirect words of the active lanes whose cluster does not exist, as the address they would reach. -/
def badRedirect (s : State) (r : Nat) : Option Nat :=
  (allLanes.filter fun l => s.exec.getLsbD l.val).findSome? fun l =>
    let w := ((s.srcV r)[l]).toNat
    if 192 ≤ fld w 23 9 then some (peerBase + fld w 23 9 * sramSize + fld w 4 19 * 16) else none

/-- A VATOM (R285 to R291): `fn` its function, `d` its first operand register. -/
def issueAtomic (fn d : Nat) (a : BitVec 6) (b : BitVec 4) (h : BitVec 2) (s : State) : Out :=
  let pairW := fn == 11 || fn == 14
  let k := if pairW then 2 else 1
  let bytes := if fn = 14 then 8 else 4
  let h := h.toNat
  let n := if fn = 14 then 2 else 1
  s.vnames ([(d, k), (a.toNat, 1)] ++ (if h = 2 then [(d + k, 1)] else [])) <|
    let go : Out :=
      if memoryBlocked s then s.stall
      else if s.exec = 0 then s.ok
      else if (if h = 0 then !roomA s else !roomS s) then s.stall
      else withLanes ⟨bytes, bytes, true, false⟩ (s.snap.chkrole.toNat < 2) (laneAddrs s b a) s fun rs =>
        match if h = 2 then badRedirect s (d + k) else none with
        | some va => takeTrap causeAddressWindow (adr0 va) (adr1w va) s
        | none =>
          if fabricStopped s rs ∧ s.snap.chkrole.toNat < 2 then s.parkAtIssue .fabric
          else
            let data (l : Nat) : List Word := (List.range k).map fun i => laneAt (s.srcV (d + i)) l
            let ls := laneAccs rs data
            -- an entry for the high word of a private ADD.I64 also carries the low operand, for its carry
            let word (l : LaneAcc) : Word := laneAt (s.srcV (d + k)) l.lane
            let split (l : LaneAcc) : Bool := l.part == 0 && ls.any fun x => x.lane == l.lane && x.part == 1
            let ls := ls.map fun l => { l with
              data := if l.part = 1 then l.data ++ [laneAt (s.srcV d) l.lane] else l.data
              redirect := if h = 2 then word l else 0
              after := if h = 2 ∧ ¬ split l then redirectTo s fn (word l) else [] }
            let acc : Access := { kind := .atom fn h d, far := anyFar rs, lanes := ls }
            let t := rs.foldl (fun s r => (data r.1).foldl (fun s x =>
              s.foldStore x (sigTerm ((r.2.head?.map (·.va)).getD 0))) s) (s.noteAll .write rs)
            let up (u : State) : State := if h = 0 then u.addA 1 else u.addS 1
            if h = 1 then (if 2 ≤ s.snap.chkrole.toNat then t.ok else (up (t.addAccess acc)).ok)
            else t.issueLogged 1 n (rs.map (·.1)) acc fun u => (up u).ok
    if h = 1 then go else s.opensSpan go

/-- VATOM.ADD.I32 (R285, R289). -/
def execVatomAddI32 (d a : BitVec 6) (b : BitVec 4) (h : BitVec 2) (s : State) : Out := issueAtomic 0 d.toNat a b h s
/-- VATOM.ADD.F32 (R285, R289). -/
def execVatomAddF32 (d a : BitVec 6) (b : BitVec 4) (h : BitVec 2) (s : State) : Out := issueAtomic 1 d.toNat a b h s
/-- VATOM.ADD.B16x2 (R285, R289). -/
def execVatomAddB16x2 (d a : BitVec 6) (b : BitVec 4) (h : BitVec 2) (s : State) : Out := issueAtomic 2 d.toNat a b h s
/-- VATOM.MIN.I32 (R285). -/
def execVatomMinI32 (d a : BitVec 6) (b : BitVec 4) (h : BitVec 2) (s : State) : Out := issueAtomic 3 d.toNat a b h s
/-- VATOM.MAX.I32 (R285). -/
def execVatomMaxI32 (d a : BitVec 6) (b : BitVec 4) (h : BitVec 2) (s : State) : Out := issueAtomic 4 d.toNat a b h s
/-- VATOM.MIN.N32 (R285). -/
def execVatomMinN32 (d a : BitVec 6) (b : BitVec 4) (h : BitVec 2) (s : State) : Out := issueAtomic 5 d.toNat a b h s
/-- VATOM.MAX.N32 (R285). -/
def execVatomMaxN32 (d a : BitVec 6) (b : BitVec 4) (h : BitVec 2) (s : State) : Out := issueAtomic 6 d.toNat a b h s
/-- VATOM.AND (R285). -/
def execVatomAnd (d a : BitVec 6) (b : BitVec 4) (h : BitVec 2) (s : State) : Out := issueAtomic 7 d.toNat a b h s
/-- VATOM.OR (R285). -/
def execVatomOr (d a : BitVec 6) (b : BitVec 4) (h : BitVec 2) (s : State) : Out := issueAtomic 8 d.toNat a b h s
/-- VATOM.XOR (R285). -/
def execVatomXor (d a : BitVec 6) (b : BitVec 4) (h : BitVec 2) (s : State) : Out := issueAtomic 9 d.toNat a b h s
/-- VATOM.XCHG (R285). -/
def execVatomXchg (d a : BitVec 6) (b : BitVec 4) (h : BitVec 2) (s : State) : Out := issueAtomic 10 d.toNat a b h s
/-- VATOM.CAS on an even pair (R285). -/
def execVatomCas (d : BitVec 5) (a : BitVec 6) (b : BitVec 4) (h : BitVec 2) (s : State) : Out :=
  issueAtomic 11 (2 * d.toNat) a b h s
/-- VATOM.INCW (R285). -/
def execVatomIncw (d a : BitVec 6) (b : BitVec 4) (h : BitVec 2) (s : State) : Out := issueAtomic 12 d.toNat a b h s
/-- VATOM.DECW (R285). -/
def execVatomDecw (d a : BitVec 6) (b : BitVec 4) (h : BitVec 2) (s : State) : Out := issueAtomic 13 d.toNat a b h s
/-- VATOM.ADD.I64 on an even pair (R285, R288). -/
def execVatomAddI64 (d : BitVec 5) (a : BitVec 6) (b : BitVec 4) (h : BitVec 2) (s : State) : Out :=
  issueAtomic 14 (2 * d.toNat) a b h s

/-- ATOMIC_RETURN: the atomic `k` of the focus warp is performed, where the preserved pairs let it
(R265, R286 to R290). -/
def execEvAtomicReturn (s : State) : Out :=
  let k := s.ev.k
  .next (match s.warp.out[k]? with
    | some a => match a.kind with
      | .atom fn h _ =>
        if a.lanes.isEmpty then returnAtomic k a fn h s
        else if s.canPerform k then
          match s.sentBack a ((s.chosen k a).filter fun l => l.stage == 0) with
          | some g => s.parkFar a g
          | none => returnAtomic k a fn h s
        else s
      | _ => s
    | none => s)

end Sys2Proof.Machine
end

