-- ==== Sys2Proof/Machine/Demerit.lean ====
section
/-! DEFINITION. Demerits, fencing a core, and the gangs that a fencing moves (R339, R369, R434, R435). -/

namespace Sys2Proof.Machine

/-- A record about a unit: kind 1 core, 2 cluster, 3 L2 slice, 5 HBM4 stack, 7 fabric port, 8 link (R400). -/
def unitRec (kind scope ukind unit : Nat) (detail : List Word) : FaultRec :=
  { kind := kind, scope := scope, ukind := ukind, unit := unit, detail := detail }

/-- A health record is asked for, with its cause (R455): 0 request, 1 period, 2 fencing. -/
def State.askHealth (s : State) (cause : Nat) : State :=
  s.onDev fun d => { d with healthAsk := d.healthAsk ++ [cause] }

/-- The gangs that a fencing of a core moves: those on it, and every other gang of a cooperative grid that
has one there (R369). -/
def State.gangsToMove (s : State) (core : Nat) : List Nat :=
  let on := s.gangs.filter fun g => g.2.phase == GangPhase.running && g.2.cores.contains core
  let coop := on.filterMap fun g => if (s.grid g.2.grid).launch.coop then some g.2.grid else none
  s.gangs.filterMap fun g =>
    if (g.2.phase == GangPhase.running && (g.2.cores.contains core || coop.contains g.2.grid)) then some g.1 else none

/-- A core that takes no new run; its gangs are moved, or lost where their context has no save area (R339,
R369). Shadow and tiebreak runs are never saved (R335). -/
def State.moveOff (s : State) (core : Nat) : State :=
  let hs := s.gangsToMove core
  let s := s.onCore core fun c => { c with fenced := true }
  let lost := hs.filter fun h => decide ((s.ctx (s.gang h).ctx).swdesc = 0)
  let s := lost.foldl (fun s h => s.removeGrid (s.gang h).grid 10) s
  (hs.filter fun h => !lost.contains h).foldl (fun s h =>
    (s.onGang h fun g => { g with moved := true }).mapWarps fun w => if w.gang = h ∧ w.regs.chkrole.toNat < 2 then w.holdParked else w) s
/-- A core fenced; a FENCED record and a health record say so (R339, R369, R426). -/
def State.fenceCore (s : State) (core cause : Nat) : State :=
  if (s.core core).fenced then s
  else
    let s := s.moveOff core
    (s.report (unitRec 19 0 1 core [(s.core core).demerits.setWidth 32, BitVec.ofNat 32 cause])).askHealth 2

/-- Demerits added to a core; at 32 it is fenced (R339). -/
def State.charge (s : State) (core n : Nat) : State :=
  let d := min 255 ((s.core core).demerits.toNat + n)
  let s := s.onCore core fun c => { c with demerits := BitVec.ofNat 8 d }
  if 32 ≤ d then s.fenceCore core 0 else s

end Sys2Proof.Machine
end

