-- ==== Sys2Proof/Machine/Matrix.lean ====
section
/-! DEFINITION. Matrix instructions and the matrix queue: the checks at issue, the entries, their effects in
queue order, admission, batches and the array self-check (R169 to R201). -/

namespace Sys2Proof.Machine

/-! ## Checks at issue (R179, R186, R187) -/

/-- Check 2: a matrix instruction needs every lane. -/
def State.fullExec (s : State) (k : Out) : Out :=
  if s.exec ≠ 0xFFFFFFFF then takeTrap causeIllegalConvergence s.exec 0 s else k

/-- The first window entry of a tile. -/
def State.tileBase (s : State) (t : BitVec 2) : Nat := s.snap.vbnd.toNat + 512 * t.toNat
/-- Check 3: a tile lies in the window; `ap` tells which field names it. -/
def State.withTile (s : State) (t : BitVec 2) (ap : Bool) (k : Nat → Out) : Out :=
  if s.snap.vcount.toNat ≤ s.tileBase t + 511 then
    takeTrap causeTileRange (t.setWidth 32 ||| (if ap then 4 else 0)) (s.snap.vbnd.setWidth 32) s
  else k (s.tileBase t)

/-- Whether bytes of the gang's own scratch lie in claimed segments in SCRATCH mode (R185). -/
def State.scratchOk (s : State) (o n : Nat) : Bool :=
  let g := s.gang s.warp.gang
  (List.range ((o + n - 1) / segSize - o / segSize + 1)).all fun i =>
    match g.segOf (o / segSize * segSize + i * segSize) with
    | some seg => (s.segment g.cluster seg).mode == .scratch
    | none => false

/-- MATRIX_OPERAND with its reason, operand and offending value. -/
def badOperand (reason operand v : Nat) (s : State) : Out :=
  takeTrap causeMatrixOperand (BitVec.ofNat 32 (reason + 16 * operand)) (BitVec.ofNat 32 v) s
/-- Check 4 on a scratch operand: alignment, then its segments. DEDUCED (log 27). -/
def scratchOperand (operand align : Nat) (r : Region) (s : State) (k : Out) : Out :=
  if r.base % align ≠ 0 then badOperand 1 operand r.base s
  else if r.spans.all fun p => s.scratchOk p.1 p.2 then k
  else badOperand 2 operand r.base s

/-! ## Issuing an entry (R169, R172) -/

/-- An entry of the warp in the focus for an operation. -/
def State.newEntry (s : State) (op : MOp) : MEntry :=
  { id := s.nextEntry, uid := s.warp.uid, ctx := s.warp.ctx, gang := s.warp.gang, core := s.snap.coreid.toNat
    span := s.snap.spanno, batch := s.warp.batch + 1, op := op, log := s.logTab, fence := s.warp.opfence }

/-- The queue's entries of one core. -/
def queueDepth : Nat := 16
/-- A MATRIX word that makes no entry finds the queue full and stalls as one that does (R169); a shadow or tiebreak makes
no queue entry. -/
def State.matrixRoom (s : State) (k : Out) : Out :=
  if s.snap.chkrole.toNat < 2 ∧ queueDepth ≤ (s.core s.snap.coreid.toNat).mq.length then s.stall else k
/-- An entry issued: it is in flight and M rises; a shadow or tiebreak makes no queue entry, so that M rises and falls at
once (R333). -/
def issueEntry (e : MEntry) (s : State) : Out :=
  let e := { e with foldPos := s.warp.span.folds }
  let t := { s with nextEntry := s.nextEntry + 1 }.onWarp fun w => { w with flights := w.flights ++ [e] }
  if 2 ≤ s.snap.chkrole.toNat then t.ok
  else if queueDepth ≤ (s.core e.core).mq.length ∨ ¬ roomM s then s.stall
  else ((t.onCore e.core fun c => { c with mq := c.mq ++ [e] }).addM 1).ok

/-- MMA (R188, R189). -/
def execMma (f : BitVec 4) (k t : BitVec 2) (a b : BitVec 5) (z x : BitVec 1) (s : State) : Out :=
  let kn := 32 * 2 ^ k.toNat
  let bits := mmaBits f.toNat
  let r : Region := { base := (s.srcS a).toNat, len := 16 * kn * bits }
  let w := (s.srcS b).toNat
  s.fullExec <| s.withTile t false fun d =>
    scratchOperand 0 128 r s <|
      if 16384 < w + kn * bits / 32 then badOperand 3 1 w s
      else issueEntry { s.newEntry (.mma f.toNat kn (z = 1) (x = 1)) with
        dst := some d, src := d, reads := [r], bword := w, bwords := kn * bits / 32
        bank := if f = 0 then some (s.banks.getLsbD 8) else none } s

/-- MSCALE (R191). -/
def execMscale (t p : BitVec 2) (a b : BitVec 5) (s : State) : Out :=
  let ra : Region := { base := (s.srcS a).toNat, len := 256 }
  let rb : Region := { base := (s.srcS b).toNat, len := 256 }
  s.fullExec <| s.withTile t false fun d => s.withTile p true fun q =>
    scratchOperand 2 64 ra s <| scratchOperand 3 64 rb s <|
      issueEntry { s.newEntry .mscale with dst := some d, src := q, reads := [ra, rb] } s

/-- TZERO (R193). -/
def execTzero (t : BitVec 2) (s : State) : Out :=
  s.fullExec <| s.withTile t false fun d => issueEntry { s.newEntry .tzero with dst := some d } s
/-- TMOVE (R193). -/
def execTmove (t p : BitVec 2) (s : State) : Out :=
  s.fullExec <| s.withTile t false fun d => s.withTile p true fun q =>
    issueEntry { s.newEntry .tmove with dst := some d, src := q } s

/-- The memory tile of an MTILE form, with its checks (R184, R185), and STABLE_VIOLATION for a global
write (R334). DEDUCED (log 27). -/
def memoryTile (a b : BitVec 5) (g : BitVec 1) (v : BitVec 2) (write : Bool) (s : State) (k : Region → Out) : Out :=
  let base := if g = 1 then (s.srcPair (a.setWidth 5 >>> 1 |>.setWidth 4)).toNat else (s.srcS a).toNat
  let r : Region := { global := g = 1, base := base, pitch := (s.srcS b).toNat, len := 128 * cvSize v.toNat, rows := 128 }
  if base % 16 ≠ 0 then badOperand 1 4 base s
  else if r.pitch % 16 ≠ 0 ∨ r.pitch < r.len ∨ 2 ^ 24 < r.pitch then badOperand 4 4 r.pitch s
  else if g = 1 then
    if ownBase < base + 127 * r.pitch + r.len then badOperand 5 4 base s
    else
      let pieces : List Piece := r.parts.map fun p => match s.translate s.warp.ctx p.1 (if write then .write else .read) with
        | .phys a => ⟨.phys a, p.1, p.2⟩
        | _ => ⟨.phys (2 ^ 63), p.1, p.2⟩
      if fabricStopped s [(0, pieces)] then s.parkAtIssue .fabric
      else match if write then stableHit s [(0, pieces)] else none with
      | some (va, i) => takeTrap causeStableViolation (adr0 va) (adr1 va ||| BitVec.ofNat 32 (i * 2 ^ 21)) s
      | none => k r
  else if r.spans.all fun p => s.scratchOk p.1 p.2 then k r
  else badOperand 2 4 base s

/-- TLOAD (R193). -/
def execTload (t : BitVec 2) (a b : BitVec 5) (g : BitVec 1) (v : BitVec 2) (s : State) : Out :=
  s.fullExec <| s.withTile t false fun d => memoryTile a b g v false s fun r =>
    issueEntry { s.newEntry (.tload v.toNat) with dst := some d, reads := [r] } s

/-- The data words of a region, each counted as a fold of SSIG with a zero word and its address term; the
words themselves join when the entry is performed (R196, R324). -/
def State.foldRegion (s : State) (r : Region) : State :=
  r.spans.foldl (fun s p => (List.range (p.2 / 4)).foldl (fun s i => s.foldStore 0 (sigTerm (p.1 + 4 * i))) s) s

/-- TSTORE (R193, R196). -/
def execTstore (t : BitVec 2) (a b : BitVec 5) (g : BitVec 1) (v : BitVec 2) (s : State) : Out :=
  s.fullExec <| s.withTile t false fun q => memoryTile a b g v true s fun r =>
    issueEntry { s.newEntry (.tstore v.toNat) with src := q, writes := [r] }
      (if r.global then s.foldRegion r else s.scratchMark)
/-- TADDST (R193, R194): its global form escapes (R337). -/
def execTaddst (t : BitVec 2) (a b : BitVec 5) (g : BitVec 1) (v : BitVec 2) (s : State) : Out :=
  s.fullExec <| s.withTile t false fun q => memoryTile a b g v true s fun r =>
    issueEntry { s.newEntry (.taddst v.toNat) with src := q, reads := [r], writes := [r] }
      (if r.global then s.escape else s.scratchMark)

/-- MQUANT (R198, R199). -/
def execMquant (f k t : BitVec 2) (a b : BitVec 5) (h : BitVec 2) (s : State) : Out :=
  let nb := 32 * 2 ^ k.toNat
  let ra : Region := { base := (s.srcS a).toNat, len := 2048 * quantBits f.toNat }
  let rb : Region := { base := (s.srcS b).toNat, len := 256 * (128 / nb) }
  let n := match h.toNat with
    | 0 => 0
    | 1 => 16
    | 2 => 32
    | _ => 64
  s.fullExec <| s.withTile t false fun q =>
    scratchOperand 0 128 ra s <| scratchOperand 2 64 rb s <|
      issueEntry { s.newEntry (.mquant f.toNat nb n) with
        src := q, writes := [ra, rb], bank := if f = 0 then some (s.banks.getLsbD 8) else none } s.scratchMark

/-- OPFENCE (R171, R200). -/
def execOpfence (s : State) : Out :=
  s.fullExec <| issueEntry (s.newEntry .opfence) (s.onWarp fun w => { w with opfence := s.nextEntry })
/-- MBATCH (R170, R200). -/
def execMbatch (d : BitVec 5) (s : State) : Out :=
  s.fullExec <| s.matrixRoom <| ((s.onWarp fun w => { w with batch := w.batch + 1 }).setS d (s.warp.batch + 1)).ok

/-! ## Waits that cover entries (R173, R201, R331) -/

/-- Whether an entry of a checked primary leaves a TILE record at the wait that covers it, and the record (R331). -/
def Warp.recordsTile (w : Warp) (e : MEntry) : Bool := w.regs.chkrole == 1 && e.dst.isSome
def MEntry.tileRec (e : MEntry) : LogRec := ⟨5, e.tile⟩
/-- The bytes of a TILE record. -/
def tileBytes : Nat := 4 * 16385
/-- Entries covered by a wait of a checked primary: the tile that each wrote is recorded (R331). -/
def Warp.coverPrimary (w : Warp) (p : MEntry → Bool) : Warp :=
  let rs := ((w.flights.filter p).filter w.recordsTile).map MEntry.tileRec
  { w with
    flights := w.flights.filter fun e => !p e
    span := { w.span with log := w.span.log ++ rs, used := w.span.used + tileBytes * rs.length } }
/-- The entries covered by a wait whose records fit in the log, from the first on, where not all do (R332). -/
def Warp.coverSplit (w : Warp) (logsz : Nat) (p : MEntry → Bool) : Option (List MEntry) :=
  let es := w.flights.filter p
  let room := (logsz - w.span.used) / tileBytes
  let fits (n : Nat) : Bool := decide ((es.take n).countP w.recordsTile ≤ room)
  if fits es.length then none else ((List.range es.length).reverse.find? fits).map es.take

/-- Entries covered by a wait of a shadow or tiebreak: each tile comes from the log, and a global TSTORE of the span is
held from its tile (R333). The second part says that a record did not match. -/
def State.coverShadow (s : State) : List MEntry → State × Bool
  | [] => (s, false)
  | e :: es =>
    match e.dst, e.op with
    | some d, _ =>
      match s.warp.span.log with
      | r :: rest =>
        if r.kind = 5 ∧ r.words.length = 16384 then
          State.coverShadow (s.onWarp fun w => { w with
            span := { w.span with log := rest }
            regs := w.regs.setTile d fun i j => r.words.getD (128 * i + j) 0 }) es
        else (s, true)
      | [] => (s, true)
    | none, .tstore cv =>
      match e.writes with
      | r :: _ =>
        if r.global ∧ e.span = s.warp.regs.spanno then
          let regs := s.warp.regs
          let rows := (List.range 128).map fun i => tileRow regs e.src cv i
          let t := s.writeRegion e r fun i k => (rows.getD i []).getD k 0
          State.coverShadow (t.onWarp fun w => w.foldLate e (tileStoreWords regs e.src cv)) es
        else State.coverShadow s es
      | [] => State.coverShadow s es
    | none, _ => State.coverShadow s es

/-- The lines that a global region's store would hold. -/
def State.regionLines (s : State) (e : MEntry) (r : Region) : List Nat :=
  r.parts.flatMap fun p => match s.entryXlate e p.1 .write with
    | some a => linesOf a p.2
    | none => []
/-- Room made for what a shadow or tiebreak holds of the TSTOREs among some entries (R328, R333). -/
def State.coverRoom (s : State) (es : List MEntry) : State × Bool :=
  s.makeRoomFor s.warp.agent (es.flatMap fun e => match e.op with
    | .tstore _ => if e.span = s.warp.regs.spanno then (e.writes.filter (·.global)).flatMap (s.regionLines e) else []
    | _ => [])
/-- A wait of the warp in the focus covers entries; then it goes on. Where a primary's records do not all fit its log, the
span ends after those that do, and the wait completes in the next (R332). -/
def State.cover (s : State) (p : MEntry → Bool) (k : State → Out) : Out :=
  if 2 ≤ s.snap.chkrole.toNat then
    let es := s.warp.flights.filter p
    match s.coverRoom es with
    | (t, false) => t.stall
    | (t, true) => match (t.onWarp fun w => { w with flights := w.flights.filter fun e => !p e }).coverShadow es with
      | (t, true) => .next t.stopRun
      | (t, false) => k t
  else match s.warp.coverSplit (s.grid s.warp.grid).launch.logsz p with
    | some es => .next { s with grp := { s.grp with ended := .spanSplit (es.map (·.id)) } }
    | none => k (s.onWarp fun w => w.coverPrimary p)

/-- Whether batch `b` of a warp is complete (R170), and which entries a wait on it covers.
DEDUCED (log 27). -/
def inBatch (b : Word) (e : MEntry) : Bool := decide ((b - e.batch).toNat < 2 ^ 31)
def Warp.batchDone (w : Warp) (b : Word) : Bool := !(w.flights.any fun e => !e.done && inBatch b e)

/-- A latched trap is taken by a wait in its place, outside handler mode (R391). -/
def State.takeLatch (s : State) (k : Out) : Out :=
  match s.warp.latch with
  | some l => if s.warp.handler then k else takeTrap l.cause l.info0 l.info1 (s.onWarp fun w => { w with latch := none })
  | none => k

/-- MWAITB (R170, R186, R200); one that would park for entries whose records will not fit the log ends the span before it
(R332). -/
def execMwaitb (a : BitVec 5) (s : State) : Out :=
  let b := s.srcS a
  s.fullExec <| s.takeLatch <|
    if 2 ^ 31 ≤ (s.warp.batch - b).toNat then takeTrap causeBatchNumber b s.warp.batch s
    else s.matrixRoom <|
    if 2 ≤ s.snap.chkrole.toNat ∨ s.warp.batchDone b then s.cover (inBatch b) fun t => t.ok
    else if (s.warp.coverSplit (s.grid s.warp.grid).launch.logsz (inBatch b)).isSome then
      .next { s with grp := { s.grp with ended := .spanEnd } }
    else .next (s.advance.onWarp fun w => { w with park := .batch b })

/-! ## An entry takes effect (R169, R171, R176 to R178, R189 to R199) -/

/-- The entry at the head of its queue is over: M falls, its flight is done, its hazard shows, and a wait
on its batch is tried. -/
def completeEntry (e : MEntry) (s : State) : State :=
  let w := (s.warpOf e.uid).getD {}
  let hz := w.flights.any fun f => f.id == e.id && f.hazard
  let s := s.onCore e.core fun c => { c with mq := c.mq.tail }
  let s := s.onUid e.uid fun w => { w with
    regs := { w.regs with cnt := { w.regs.cnt with m := w.regs.cnt.m - 1 } }
    flights := w.flights.map fun (f : MEntry) => (if f.id = e.id then { f with done := true } else f) }
  let s := if hz then s.scramble e else s
  s.onUid e.uid fun w =>
    let w := match e.dst with
      | some d => if w.regs.chkrole = 1 then { w with
          flights := w.flights.map fun (f : MEntry) => (if f.id = e.id then { f with tile := w.regs.tileWords d } else f) } else w
      | none => w
    match w.park with
    | .batch b => if w.batchDone b then (w.coverPrimary (inBatch b)).wake else w
    | _ => w

/-- A tile of the entry's warp written, and the entry over. -/
def finishTile (e : MEntry) (f : Nat → Nat → Word) (s : State) : State :=
  completeEntry e (s.onUid e.uid fun w => { w with regs := w.regs.setTile (e.dst.getD 0) f })

/-- A damaged cell as an event names it: row, column, the passes of a checked MMA in which its output comes out wrong,
by bits, and the bits that are wrong. -/
structure CellFault where
  row : Nat
  col : Nat
  passes : Nat
  mask : Nat
  deriving DecidableEq, Repr
/-- What damaged cells do to output element (i, j) of a pass: the masks of the cell that forms it. -/
def cellFault (faults : List CellFault) (pass rot i j : Nat) : Nat :=
  faults.foldl (fun x f => if f.row = (i + rot) % 128 ∧ f.col = j ∧ f.passes.testBit pass then x ^^^ f.mask else x) 0
/-- The damaged cells of an event, nine bytes for each: row, column, passes, and 48 bits of the mask. -/
def faultsOf : List Byte → List CellFault
  | r :: c :: p :: a :: b :: x :: y :: u :: v :: rest =>
    { row := r.toNat % 128, col := c.toNat % 128, passes := p.toNat, mask := wordOfBytes [a, b, x, y, u, v] } :: faultsOf rest
  | _ => []

/-- How an element of a checked MMA comes out (R177): agreed, or resolved with the cell named, or not. -/
inductive Vote3 where
  | agree (v : Nat)
  | resolved (v : Nat) (row : Nat)
  | split
  deriving DecidableEq, Repr
/-- Three passes of one element compared bit for bit, before the drain (R176, R177). -/
def votePasses (faults : List CellFault) (r r2 : Nat) (v : Nat) (i j : Nat) : Vote3 :=
  let p0 := v ^^^ cellFault faults 0 0 i j
  let p1 := v ^^^ cellFault faults 1 r i j
  let p2 := v ^^^ cellFault faults 2 r2 i j
  if p0 = p1 then .agree p0
  else if p0 = p2 then .resolved p0 ((i + r) % 128)
  else if p1 = p2 then .resolved p1 i
  else .split

/-- A checked MMA with its record, demerits and outcome (R176 to R178): `f` the outputs of an undamaged pass, `drain`
what an output becomes in the tile. -/
def checkedMma (e : MEntry) (fn total : Nat) (faults : List CellFault) (f : Nat → Nat → Nat) (drain : Nat → Nat → Nat → Word) (s : State) : State :=
  let r := 1 + total % 127
  let r2 := if r ≤ 63 then r + 1 else r - 1
  let at_ (i j : Nat) : Vote3 := votePasses faults r r2 (f i j) i j
  let all := if faults.isEmpty then [] else
    (List.range 128).flatMap fun i => (List.range 128).map fun j => (i, j)
  let named := (all.filterMap fun p => match at_ p.1 p.2 with
    | .resolved _ row => some (row * 128 + p.2)
    | _ => none)
  let split := all.countP fun p => at_ p.1 p.2 == .split
  let value (i j : Nat) : Word := match at_ i j with
    | .agree v => drain i j v
    | .resolved v _ => drain i j v
    | .split => Config.freeWord (s.fresh + 128 * i + j)
  if named.length + split = 0 then finishTile e value s
  else
    let cells := named.eraseDups
    let low := cells.foldl min (128 * 128)
    let grid := (s.gang e.gang).grid
    let detail := [BitVec.ofNat 32 (fn + (if split = 0 then 0 else 2 ^ 31)), BitVec.ofNat 32 (named.length + split),
      BitVec.ofNat 32 cells.length, if cells.isEmpty then 0 else BitVec.ofNat 32 (low / 128 + low % 128 * 256),
      (s.core e.core).achktot]
    let rec_ : FaultRec := { s.gridRec grid 4 (if split = 0 then 0 else 2) detail with ukind := 1, unit := e.core }
    let t := finishTile e (if split = 0 then value else fun i j => Config.freeWord (s.fresh + 128 * i + j)) (s.tick 16384)
    let t := t.charge e.core 16
    if split = 0 then t.report rec_ else t.loseGridWith grid rec_

/-- An MMA starts: the self-check's counters, then its elements (R176, R189). -/
def runMma (e : MEntry) (fn k : Nat) (z ta : Bool) (s : State) : State :=
  let w := (s.warpOf e.uid).getD {}
  let a0 := (e.reads.head?.map (·.base)).getD 0
  let bits := mmaBits fn
  let byteA (n : Nat) : Byte := s.arrayByte e w (a0 + n)
  let codeA (i x : Nat) : Nat := bitsAt byteA (if ta then (x * 128 + i) * bits else (i * k + x) * bits) bits
  let byteB (j n : Nat) : Byte :=
    (SMap.get s.bstore ((e.core * 128 + j) * 16384 + e.bword + n / 4) 0).extractLsb' (8 * (n % 4)) 8
  let codeB (j x : Nat) : Nat := bitsAt (byteB j) (x * bits) bits
  let c (i j : Nat) : Nat := (w.regs.tileAt e.src i j).toNat
  let f (i j : Nat) : Nat := mmaPass e.log fn k z c codeA codeB i j
  let drain (i j v : Nat) : Word := mmaDrain fn z (c i j) v
  let core := s.core e.core
  let count := core.achkcnt + 1
  let checked := core.achkctl.getLsbD 17 && count.toNat == fld core.achkctl.toNat 0 17
  let s := (s.onCore e.core fun c => { c with
    achktot := c.achktot + 1
    achkcnt := if checked then 0 else count }).tick (2 ^ 31)
  let faults := faultsOf s.ev.bytes
  if checked then checkedMma e fn (core.achktot + 1).toNat faults f drain s
  else finishTile e (fun i j => drain i j (f i j ^^^ cellFault faults 0 0 i j)) s

/-- The parts of a global region translated: their places, the first that fails, or one that a page request
holds (R197). -/
def State.partsAt (s : State) (ctx : Nat) (want : Want) (parts : List (Nat × Nat)) : List (Nat × Nat × Xlate) :=
  parts.map fun p => (p.1, p.2, s.translate ctx p.1 want)

/-- A global tile transfer whose translation fails for good (R197). -/
def faultTile (e : MEntry) (va : Nat) (s : State) : State :=
  let s := s.onUid e.uid fun w => w.latchTrap causeMatrixFault (adr0 va) (adr1 va)
  completeEntry e (s.scramble e)

/-- The entry at the head of a core's queue changed. -/
def State.onHead (s : State) (core : Nat) (f : MEntry → MEntry) : State :=
  s.onCore core fun c => { c with mq := match c.mq with
    | h :: rest => f h :: rest
    | [] => [] }
/-- An entry starts with the pages of its region, which the accesses of others are compared with from then on (R197). -/
def State.startEntry (s : State) (e : MEntry) (pages : SMap Nat) : State :=
  (s.onHead e.core fun h => { h with pages := some pages }).onUid e.uid fun w => { w with
    flights := w.flights.map fun (f : MEntry) => (if f.id = e.id then { f with pages := some pages } else f) }
/-- A global tile transfer: at its start its region is translated, then `k` goes on; a serviceable fault holds the entry
and the queue behind it. -/
def withRegion (e : MEntry) (r : Region) (wants : List Want) (s : State) (k : MEntry → State → State) : State :=
  if e.pages.isSome then k e s else
  let xs := r.parts.flatMap fun p => wants.flatMap fun want => (s.partsAt e.ctx want [p]).map fun x => (x, want)
  match (xs.map (·.1)).find? fun x => match x.2.2 with
    | .phys _ => false
    | _ => true with
  | none =>
    let (t, pages) := xs.foldl (fun (q : State × SMap Nat) x => match x.1.2.2 with
      | .phys a => (q.1.noteXlate e.ctx x.1.1 a x.2, SMap.put q.2 (x.1.1 / 4096) (a / 4096))
      | _ => q) (s, [])
    k { e with pages := some pages } (t.startEntry e pages)
  | some (va, _, .recoverable) =>
    let q := openRequest e.ctx va (if wants.contains .write then 1 else 0) s
    q.1.onHead e.core fun h => { h with waiting := some q.2 }
  | some (va, _, _) => faultTile e va s

/-- A part of a row that lies in one line: the row, the offset in it, the address and the bytes. -/
structure RowLine where
  row : Nat
  off : Nat
  va : Nat
  len : Nat
  deriving DecidableEq, Repr
/-- The lines of a region, row by row. -/
def Region.rowLines (r : Region) : List RowLine :=
  r.spans.zipIdx.flatMap fun q => (lineParts q.1.1 q.1.2).map fun p => ⟨q.2, p.2.1 - q.1.1, p.2.1, p.2.2⟩
/-- Lines of an entry done one after the other as far as `f` can: it gives the bytes read, if any, or that the line must
wait. -/
def runLines (want : Want) (f : RowLine → Nat → State → State × Option (List Byte)) :
    List RowLine → MEntry → State → State × MEntry
  | [], e, s => (s, e)
  | q :: qs, e, s =>
    match s.entryXlate e q.va want with
    | some a => match f q a s with
      | (t, some bs) => runLines want f qs { e with pos := e.pos + 1, got := e.got ++ [bs] } t
      | (t, none) => (t, e)
    | none => (s, e)
/-- The lines that an entry has left, all of them or with `b` the next `n`; after the last, `k` goes on with their bytes. -/
def overLines (e : MEntry) (r : Region) (want : Want) (f : RowLine → Nat → State → State × Option (List Byte))
    (k : List (List Byte) → State → State) (s : State) : State :=
  let todo := r.rowLines.drop e.pos
  let (t, e') := runLines want f (if s.ev.b then todo.take s.ev.n else todo) e s
  if e'.pos = r.rowLines.length then k e'.got t
  else t.onHead e.core fun h => { h with pos := e'.pos, got := e'.got }

/-- The bytes of each row of a scratch region as the entry reads them. -/
def State.regionRows (s : State) (e : MEntry) (r : Region) : List (List Byte) :=
  let w := (s.warpOf e.uid).getD {}
  r.spans.map fun p => (List.range p.2).map fun k => s.arrayByte e w (p.1 + k)
/-- Element j of a row of bytes. -/
def rowElement (cv : Nat) (row : List Byte) (j : Nat) : Nat :=
  wordOfBytes ((row.drop (j * cvSize cv)).take (cvSize cv))
/-- The tile that a TLOAD writes from rows of bytes, and the entry over (R193). -/
def finishLoad (e : MEntry) (cv : Nat) (rows : List (List Byte)) (s : State) : State :=
  finishTile e (fun i j => tileLoad cv (rowElement cv (rows.getD i []) j)) (s.tick (2 ^ 31))
/-- TLOAD's effect: a global region is read line by line as the cluster's tokens come (R229, R235). -/
def runTload (e : MEntry) (cv : Nat) (r : Region) (s : State) : State :=
  if r.global then
    overLines e r .read (fun q a t => match t.askReads { clusterUser (clusterOfCore e.core) e.ctx 1 with stamp := e.id } (linesOf a q.len) with
        | (u, some kept) => (u, some (u.readPhys (u.entryAgent e) a q.len kept))
        | (u, none) => (u, none))
      (fun got t => finishLoad e cv ((List.range r.rows).map fun i => ((r.rowLines.zip got).filter fun q => q.1.row == i).flatMap (·.2)) t) s
  else finishLoad e cv (s.regionRows e r) s

/-- Bytes of a line that an entry writes, held in a checked run where the version store has room, else where the line may
be written (R196, R229, R328, R330). -/
def State.putLine (s : State) (ag : Agent) (u : TokUser) (va a : Nat) (bs : List Byte) : State × Bool :=
  match if ag.role = 0 then s.askWrites u (linesOf a bs.length) else s.makeRoomFor ag (linesOf a bs.length) with
  | (t, true) => (t.writePiece ag ⟨.phys a, va, bs.length⟩ bs, true)
  | (t, false) => (t, false)
/-- TSTORE's effect, a global region line by line with retention hint 1 (R193, R196). -/
def runTstore (e : MEntry) (cv : Nat) (r : Region) (s : State) : State :=
  let regs := s.entryRegs e
  if r.global then
    overLines e r .write (fun q a t =>
        let bs := ((tileRow regs e.src cv q.row).drop q.off).take q.len
        match t.putLine (t.entryAgent e) (clusterUser (clusterOfCore e.core) e.ctx 1) q.va a bs with
        | (u, true) => (u, some [])
        | (u, false) => (u, none))
      (fun _ t => completeEntry e (t.onUid e.uid fun w => w.foldLate e (tileStoreWords regs e.src cv))) s
  else
    let rows := (List.range 128).map fun i => tileRow regs e.src cv i
    completeEntry e (s.writeRegion e r fun i k => (rows.getD i []).getD k 0)

/-- The bytes of a line's elements after a TADDST added a row's to them from element `j` on. -/
def addElements (cv : Nat) (v : Nat → Word) (j : Nat) (bs : List Byte) : List Byte :=
  (List.range (bs.length / cvSize cv)).flatMap fun i => bytesOfNat (cvSize cv) (tileAdd cv (rowElement cv bs i) (v (j + i)))
/-- TADDST's effect, never held: a global region line by line at the die's pool, which holds all the tokens of a line while
it updates it; no other entry's update comes between, by admission (R194, R195, R337). -/
def runTaddst (e : MEntry) (cv : Nat) (r : Region) (s : State) : State :=
  let regs := s.entryRegs e
  let sum (i off : Nat) (bs : List Byte) : List Byte := addElements cv (regs.tileAt e.src i) (off / cvSize cv) bs
  if r.global then
    overLines e r .write (fun q a t =>
        let ag := t.entryAgent e
        match t.putLine ag.unheld (poolUser (clusterOfCore e.core) e.ctx 1) q.va a (sum q.row q.off (t.readPhys ag a q.len)) with
        | (u, true) => (u, some [])
        | (u, false) => (u, none))
      (fun _ t => completeEntry e t) s
  else
    let rows := (s.regionRows e r).zipIdx.map fun q => sum q.2 0 q.1
    completeEntry e (s.writeRegionAs (s.entryAgent e).unheld e r fun i k => (rows.getD i []).getD k 0)

/-- MQUANT's effect, block after block: the scale, then the codes, so that where the regions overlap the later stands
(R199). -/
def runMquant (e : MEntry) (fn nb n : Nat) (s : State) : State :=
  let regs := s.entryRegs e
  let b := quantBits fn
  let q := 128 / nb
  let rows : List (List (Nat × List Nat)) := (List.range 128).map fun i =>
    let x := hadamardRow n ((List.range 128).map fun j => (regs.tileAt e.src i j).toNat)
    (List.range q).map fun c => quantBlock e.log fn ((x.drop (c * nb)).take nb)
  let put (s : State) (base : Nat) (bs : List Byte) : State :=
    s.writeRegion e { base := base, len := bs.length } fun _ k => bs.getD k 0
  match e.writes with
  | [ra, rb] => completeEntry e (rows.zipIdx.foldl (fun s x => x.1.zipIdx.foldl (fun s y =>
      put (put s (rb.base + 256 * y.2 + 2 * x.2) (bytesOfNat 2 y.1.1)) (ra.base + (y.2 * 128 + x.2) * nb * b / 8) (packCodes b y.1.2)) s) s)
  | _ => completeEntry e s

/-- Whether a scratch store that the warp issued before an OPFENCE has not been performed (R171). -/
def fencePending (w : Warp) (e : MEntry) : Bool :=
  w.out.any fun a => decide (a.stamp ≤ e.id) && a.kind.writes && (piecesOf a.lanes).any fun p => match p.loc with
    | .sram _ => true
    | _ => false

/-- The entry at the head of a queue. -/
def runEntry (e : MEntry) (s : State) : State :=
  let w := (s.warpOf e.uid).getD {}
  let regs := w.regs
  let region (l : List Region) : Region := l.headD { base := 0, len := 0 }
  match e.op with
  | .opfence =>
    if fencePending w e then s
    else completeEntry e (s.onUid e.uid fun w => { w with stale := w.stale.filter fun x => decide (e.id < x.stamp) })
  | .mma fn k z ta => runMma e fn k z ta s
  | .mscale =>
    match e.reads with
    | [ra, rb] =>
      let at_ (r : Region) (i : Nat) : Nat :=
        (s.arrayByte e w (r.base + 2 * i)).toNat + 256 * (s.arrayByte e w (r.base + 2 * i + 1)).toNat
      finishTile e (fun i j => mscaleElement (regs.tileAt (e.dst.getD 0) i j).toNat (at_ ra i) (at_ rb j)
        (regs.tileAt e.src i j).toNat) (s.tick (2 ^ 31))
    | _ => completeEntry e s
  | .tzero => finishTile e (fun _ _ => 0) s
  | .tmove => finishTile e (fun i j => regs.tileAt e.src i j) s
  | .tload cv =>
    let r := region e.reads
    if r.global then withRegion e r [.read] s fun e => runTload e cv r else runTload e cv r s
  | .tstore cv =>
    let r := region e.writes
    if !e.admitted then s else if r.global then withRegion e r [.write] s fun e => runTstore e cv r else runTstore e cv r s
  | .taddst cv =>
    let r := region e.writes
    if !e.admitted then s
    else if r.global then withRegion e r [.read, .write] s fun e => runTaddst e cv r else runTaddst e cv r (s.tick (2 ^ 31))
  | .mquant fn nb n => if !e.admitted then s else runMquant e fn nb n s

/-- MATRIX_ENTRY: the entry at the head of a core's queue takes effect, a global region's line by line, and completes
(R169). -/
def execEvMatrixEntry (s : State) : Out :=
  .next (match (s.core s.ev.k).mq with
    | e :: _ => if e.waiting.isSome then s else runEntry e s
    | [] => s)

/-! ## Admission (R195) -/

/-- Whether two regions share a byte. -/
def Region.shares (r q : Region) : Bool := r.global == q.global && r.spans.any fun p => q.hits p.1 p.2
/-- Whether two entries' writes overlap: of one context, and in scratch of one gang. -/
def MEntry.shares (e f : MEntry) : Bool :=
  e.ctx == f.ctx && e.writes.any fun r => f.writes.any fun q => r.shares q && (r.global || e.gang == f.gang)
/-- Whether an entry writes at an admission point, and whether that is the sequencer on BD0. -/
def MEntry.updates (e : MEntry) : Bool := match e.op with
  | .tstore _ | .taddst _ | .mquant _ _ _ => true
  | _ => false
def MEntry.global (e : MEntry) : Bool := e.writes.any (·.global)

/-- ADMISSION: the head entry of a core's queue presents its region, and is admitted when nothing that
overlaps it is admitted or was presented before it (R195). -/
def execEvAdmission (s : State) : Out :=
  .next (match (s.core s.ev.k).mq with
    | e :: _ =>
      if !e.updates || e.admitted then s
      else
        let heads := (s.cores.filterMap fun c => c.2.mq.head?).filter fun f => f.id != e.id && f.updates
        let same (f : MEntry) : Bool :=
          f.global == e.global && (e.global || clusterOfCore f.core == clusterOfCore e.core)
        if (if e.global then 256 else 64) ≤ heads.countP (fun f => f.admitted && same f) then s
        else
          let order := e.presented.getD s.nextPresent
          let free := heads.all fun f => !(f.shares e) || !(f.admitted || (match f.presented with
            | some p => decide (p < order)
            | none => false))
          { s with nextPresent := if e.presented.isNone then s.nextPresent + 1 else s.nextPresent }.onHead s.ev.k fun h =>
            { h with presented := some order, admitted := free }
    | [] => s)

end Sys2Proof.Machine
end

