-- ==== Sys2Proof/Machine/Copy.lean ====
section
/-! DEFINITION. Copies and chains: the checks at issue, the engine's reads and writes, completion, stops and
chain steps (R267 to R269, R300 to R308, R477). -/

namespace Sys2Proof.Machine

/-! ## Checks of a copy (R301, R302) -/

/-- Which windows a mode takes as its source and destination: global, own scratch, peer scratch. -/
structure Windows where
  glob : Bool
  own : Bool
  peer : Bool
  deriving DecidableEq, Repr
def copySource (fn : Nat) : Windows :=
  match fn with
  | 0 => ⟨true, false, true⟩
  | 3 => ⟨false, true, false⟩
  | _ => ⟨true, true, false⟩
def copyDest (fn : Nat) : Windows :=
  match fn with
  | 0 => ⟨false, true, false⟩
  | 3 => ⟨true, false, true⟩
  | _ => ⟨true, true, false⟩
/-- The windows of a COPY node: peer scratch in place of own scratch (R354). -/
def Windows.forNode (w : Windows) : Windows := ⟨w.glob, false, w.peer || w.own⟩
/-- Whether `n` bytes lie in a window that is taken. -/
def Windows.takes (w : Windows) (va n : Nat) : Bool :=
  inOneWindow va (max n 1) && (match windowOf va with
    | .glob => w.glob
    | .own _ => w.own
    | .peer _ _ => w.peer
    | _ => false)

/-- Functions whose destination is an address, and those that read old data. -/
def copyDstAddr (fn : Nat) : Bool := fn != 1 && fn != 2
def copyOld (c : Copy) : Bool := c.dlt && (c.fn == 4 || c.fn == 5)
/-- Whether two ranges of `n` bytes overlap. -/
def rangesMeet (a b n : Nat) : Bool := decide (a < b + n) && decide (b < a + n)

/-- The first failing check of a copy: reason, operand and the value reported. `scr` says which scratch ranges
are claimed, `claim` the bytes of the grid's claim per gang; `node` marks a COPY node (R354). A CPYMC's destination overlaps
an own-scratch source only where the issuing gang receives. For reasons 5 and 6 the rule names no operand and no address: they
report the destination's. DESIGN CHOICE (log 12). -/
def checkCopy (s : State) (node : Bool) (scr : Nat → Nat → Bool) (claim : Nat) (groups : Option Nat) (c : Copy) :
    Option (Nat × Nat × Nat) :=
  let n := max c.len 1
  let src := if node then (copySource c.fn).forNode else copySource c.fn
  let dst := if node then (copyDest c.fn).forNode else copyDest c.fn
  let inScr (va : Nat) : Bool := match windowOf va with
    | .own o => scr o n
    | _ => true
  let dstVa := if c.fn = 1 then ownBase + c.dst else c.dst
  let gr := s.grid s.warp.grid
  let receives := c.fn != 1 || (gr.groups.getD c.imm []).any fun b => b / gr.launch.gang == (s.gang s.warp.gang).number
  let checks : List (Bool × Nat × Nat × Nat) := [
    (c.src % 16 != 0, 1, 0, c.src),
    (c.len % (if c.fn = 2 then 512 else 16) != 0 || decide (2 ^ 30 < c.len), 1, 0, c.len),
    (c.fn != 2 && c.dst % 16 != 0, 1, 1, c.dst),
    (copyOld c && c.old % 16 != 0, 1, 2, c.old),
    (c.ben && c.bar % 16 != 0, 1, 3, c.bar),
    (!src.takes c.src c.len, 2, 0, c.src),
    (copyDstAddr c.fn && c.fn != 6 && !dst.takes c.dst c.len, 2, 1, c.dst),
    (copyOld c && !src.takes c.old c.len, 2, 2, c.old),
    (!inScr c.src, 3, 0, c.src),
    (if c.fn = 1 then decide (claim < c.dst + c.len) else copyDstAddr c.fn && c.fn != 6 && !inScr c.dst, 3, 1, c.dst),
    (copyOld c && !inScr c.old, 3, 2, c.old),
    (c.ben && (node || (if c.fn = 1 then decide (claim < c.bar + 16) else !scr c.bar 16)), 3, 3, c.bar),
    (c.fn == 2 && decide (16384 < c.dst + c.len / 512), 4, 1, c.dst),
    (c.fn == 1 && (match groups with
      | some g => decide (g ≤ c.imm)
      | none => true), 5, 1, c.dst),
    (c.fn == 6 && (decide (512 ≤ c.peer) || (SMap.get s.peers c.peer {}).state == 0), 6, 1, c.dst),
    (c.fn != 2 && c.fn != 6 && c.len != 0 && receives && rangesMeet c.src dstVa c.len, 7, 0, c.src)]
  (checks.find? fun x => x.1).map fun x => x.2

/-- The copy that an octet of words names (R300). -/
def copyOf (fn imm dlt h : Nat) (w : Nat → Word) : Copy :=
  { fn := fn, src := (pair (w 0) (w 1)).toNat, dst := (pair (w 2) (w 3)).toNat, len := (w 4).toNat
    old := (pair (w 6) (w 7)).toNat, ben := (w 5).getLsbD 31, bar := (w 5).toNat % 2 ^ 31, imm := imm
    dlt := dlt == 1, h := h, peer := (pair (w 6) (w 7)).toNat }

/-! ## Issue (R303, R305, R333) -/

/-- The engine queue of a cluster holds 64 copies and chains. -/
def engineDepth : Nat := 64
/-- A job of the warp in the focus. -/
def State.newJob (s : State) (job : Job) : EngineJob :=
  { job := job, warp := some s.warp.uid, ctx := s.warp.ctx, grid := s.warp.grid, gang := s.warp.gang
    core := s.snap.coreid.toNat, role := s.snap.chkrole.toNat, span := s.snap.spanno, stamp := s.nextEntry
    binds := match job with
      | .chain va _ _ => s.chainBinds s.warp.ctx 4096 va
      | .copy _ => false }
/-- A job enters the engine queue of the warp's cluster, and C rises. -/
def startJob (job : Job) (s : State) : Out :=
  let cl := s.warp.cluster
  if engineDepth ≤ (s.cluster cl).engine.length ∨ ¬ roomC s then s.stall
  else (({ s with nextEntry := s.nextEntry + 1 }.onCluster cl fun c =>
    { c with engine := c.engine ++ [s.newJob job] }).addC 1).ok

/-- The flags that a copy sets on its primary's span; the count of its bytes is a scratch write (R336, R337). -/
def State.markCopy (s : State) (c : Copy) : State :=
  let peer := match windowOf c.dst with
    | .peer _ _ => true
    | _ => false
  let glob := match windowOf c.dst with
    | .glob => true
    | _ => false
  let esc := c.fn == 6 || ((c.fn == 4 || c.fn == 5) && glob) || (c.fn == 3 && peer)
  let scr := c.fn == 0 || c.fn == 1 || c.ben || (c.fn == 3 && peer) || ((c.fn == 4 || c.fn == 5) && !glob)
  let s := if esc then s.escape else s
  if scr then s.scratchMark else s

/-- A COPY (R300 to R303). -/
def issueCopy (fn : Nat) (a : BitVec 2) (imm dlt h : Nat) (s : State) : Out :=
  let w (i : Nat) : Word := s.srcS (BitVec.ofNat 5 (8 * a.toNat + i))
  let c := copyOf fn imm dlt h w
  let gr := s.grid s.warp.grid
  let claim := (gr.launch.scratch + segSize - 1) / segSize * segSize
  if memoryBlocked s then s.stall
  else match checkCopy s false s.scratchOk claim (if gr.launch.coop then some gr.groups.length else none) c with
  | some (reason, operand, v) => takeTrap causeCopyOperand (BitVec.ofNat 32 (reason + 16 * operand)) (BitVec.ofNat 32 v) s
  | none =>
    let t := (List.range 8).foldl (fun t i => t.foldStore (w i) 0) s
    if c.len = 0 ∨ 2 ≤ s.snap.chkrole.toNat then t.ok else startJob (.copy c) (t.markCopy c)

/-- CPY (R301). -/
def execCpy (a h : BitVec 2) (s : State) : Out := issueCopy 0 a 0 0 h.toNat s
/-- CPYMC (R301, R303). -/
def execCpymc (a : BitVec 2) (i : BitVec 8) (h : BitVec 2) (s : State) : Out := issueCopy 1 a i.toNat 0 h.toNat s
/-- CPYB (R301). -/
def execCpyb (a h : BitVec 2) (s : State) : Out := issueCopy 2 a 0 0 h.toNat s
/-- CPYOUT (R301). -/
def execCpyout (a h : BitVec 2) (s : State) : Out := issueCopy 3 a 0 0 h.toNat s
/-- CPYPAR (R301). -/
def execCpypar (a : BitVec 2) (l : BitVec 1) (h : BitVec 2) (s : State) : Out := issueCopy 4 a 0 l.toNat h.toNat s
/-- CPYGF (R301). -/
def execCpygf (a : BitVec 2) (i : BitVec 8) (l : BitVec 1) (h : BitVec 2) (s : State) : Out :=
  issueCopy 5 a i.toNat l.toNat h.toNat s
/-- CPYPEER (R301). -/
def execCpypeer (a h : BitVec 2) (s : State) : Out := issueCopy 6 a 0 0 h.toNat s

/-- CHN (R306). -/
def execChn (a : BitVec 4) (s : State) : Out :=
  let va := (s.srcPair a).toNat
  let bad (reason : Nat) : Out := takeTrap causeCopyOperand (BitVec.ofNat 32 reason) (BitVec.ofNat 32 va) s
  if memoryBlocked s then s.stall
  else if va % 64 ≠ 0 then bad 1
  else if ownBase < va + 64 then bad 2
  else
    let t := (s.foldStore (loHalf (s.srcPair a)) 0).foldStore (hiHalf (s.srcPair a)) 0
    if 2 ≤ s.snap.chkrole.toNat then t.ok else startJob (.chain va 0 s.banks) t

/-! ## The engine's reads and writes, by words or by 16 bytes (R267, R303, R304) -/

/-- Where a unit of a copy is, or why it cannot be reached now or at all; `away` is a wait for a gang that does not run. -/
inductive UnitRes where
  | ok (l : Loc)
  | wait
  | away
  | service (va : Nat) (write : Bool)
  | fail (cause va : Nat) (extra : Word)
  deriving DecidableEq, Repr

/-- The agent of a job; and who asks for the lines that it reads, and for those that it writes with a copy's hint (R250,
R300). -/
def EngineJob.agent (j : EngineJob) (cl : Nat) : Agent :=
  { ctx := j.ctx, grid := j.grid, uid := j.warp.getD 0, die := dieOfCluster cl, role := j.role, span := j.span, stamp := j.stamp }
def EngineJob.reader (j : EngineJob) (cl : Nat) : TokUser := { poolUser cl j.ctx 1 with stamp := j.stamp }
def EngineJob.writer (j : EngineJob) (cl : Nat) (c : Copy) : TokUser := poolUser cl j.ctx (BitVec.ofNat 2 c.h)
/-- The physical lines of some bytes at a place. -/
def Loc.lines (l : Loc) (n : Nat) : List Nat := match l with
  | .phys a => linesOf a n
  | _ => []

/-- Whether a job is to stop, with its context's injection or because its gang is being saved (R371, R385). -/
def State.stopping (s : State) (j : EngineJob) : Bool :=
  (s.ctx j.ctx).injectionStopped || (j.node.isNone && (s.gang j.gang).asked)
/-- The byte at which a copy that is to stop does so: the next 512-byte boundary of its source (R371, R407, R477), or its
start where none of it has been performed: it is not begun (R385). -/
def EngineJob.boundary (j : EngineJob) (c : Copy) : Nat :=
  if j.pos = 0 ∧ j.ahead = [] ∧ j.got = [] then 0 else j.pos + (512 - (c.src + j.pos % c.len) % 512) % 512
/-- Whether a fabric-bound copy may not go on to byte `q`. -/
def State.fabricHeld (s : State) (j : EngineJob) (c : Copy) (q : Nat) : Bool := s.stopping j && decide (j.boundary c ≤ q)

/-- The place of the `n` bytes at `va` of a copy, for byte `q` of what it delivers. -/
def State.unitAt (s : State) (j : EngineJob) (c : Copy) (q va n : Nat) (write : Bool) : UnitRes :=
  let bad : UnitRes := .fail causeCopyFault va 0
  match windowOf va with
  | .own o =>
    let g := s.gang j.gang
    match g.segOf o with
    | some seg => if (s.segment g.cluster seg).mode = .scratch then .ok (.sram (g.place o)) else bad
    | none => bad
  | .peer cl o =>
    match s.peerTarget j.ctx cl o with
    | .sram a => if !write && j.halt.any (fun b => decide (b ≤ q)) then .away else .ok (.sram a)
    | .saved h off fifo => if fifo then bad else if write then .ok (.logged h off) else .away
    | _ => bad
  | .glob =>
    match s.translate j.ctx va (if write then .write else .read) with
    | .phys a =>
      match if write then s.stableOf j.ctx j.grid va n (some a) else none with
      | some i => .fail causeStableViolation va (BitVec.ofNat 32 (i * 2 ^ 21))
      | none => if (isHost a || isPeer a) && s.fabricHeld j c q then .wait else .ok (.phys a)
    | .recoverable => .service va write
    | _ => match if write then s.stableOf j.ctx j.grid va n none else none with
      | some i => .fail causeStableViolation va (BitVec.ofNat 32 (i * 2 ^ 21))
      | none => bad
  | _ => bad

/-- The product in GF(2^8) with the polynomial 0x11D, over the low `n` bits of `c` (R301). -/
def gfMul (c x : Nat) : Nat → Nat
  | 0 => 0
  | n + 1 =>
    let x2 := if 128 ≤ x then (2 * x) ^^^ 0x11D else 2 * x
    (if c % 2 = 1 then x else 0) ^^^ gfMul (c / 2) x2 n
/-- A destination byte from its prior value, the source and the old data (R301). -/
def copyByte (c : Copy) (d x o : Byte) : Byte :=
  let y := if copyOld c then o ^^^ x else x
  match c.fn with
  | 4 => d ^^^ y
  | 5 => d ^^^ BitVec.ofNat 8 (gfMul c.imm y.toNat 8)
  | _ => x

/-- The gangs of a grid that a CPYMC delivers to, by number: each that holds a member block, once (R303). -/
def State.receivers (s : State) (j : EngineJob) (imm : Nat) : List Nat :=
  let gr := s.grid j.grid
  ((gr.groups.getD imm []).map fun b => b / gr.launch.gang).eraseDups
/-- The handle of a grid's gang, by number, if it has been made. -/
def State.gangNumber (s : State) (j : EngineJob) (n : Nat) : Option Nat := (s.grid j.grid).gangs[n]?
/-- The bytes that a copy delivers in all: a CPYMC its length to each receiver, one after the other. -/
def State.copyTotal (s : State) (j : EngineJob) (c : Copy) : Nat :=
  if c.fn = 1 then (s.receivers j c.imm).length * c.len else c.len

/-- A unit of a CPYMC delivered to one gang: its bytes, and their count on its object; a saved gang's go to the
arrival log. Nothing where the gang has no scratch there any more. An entry of the receiver always reads what has been
delivered, as that is no store or copy of its warp. DESIGN CHOICE (log 28). -/
def State.deliver (s : State) (ag : Agent) (c : Copy) (h off : Nat) (bs : List Byte) : Option State :=
  let g := s.gang h
  let n := bs.length
  match g.phase with
  | .running =>
    match g.segOf off with
    | some seg =>
      if (s.segment g.cluster seg).mode ≠ .scratch then none
      else
        let (t, hz) := s.touch ag [⟨.sram (g.place off), ownBase + off, n⟩]
        let t := (if hz then t.tick n else t).writeSram (g.place off) (if hz then s.freeBytes n else bs)
        some (if c.ben then t.countOn ag (g.place c.bar) c.bar n else t)
    | none => none
  | .saving | .saved | .restoring =>
    if s.logicalMode g (off / segSize) ≠ .scratch then none
    else
      let t := s.appendLog ag (ownBase + off) { kind := 0, gang := h, off := off, mask := 2 ^ n - 1, data := wordsOfBytes 16 bs }
      some (if c.ben then t.appendLog ag (ownBase + off) { kind := 2, gang := h, off := c.bar, mask := n, data := [] } else t)
  | _ => none

/-- A hazard on B slots that a CPYB writes: the state after, and whether there is one (R173). -/
def State.touchB (s : State) (core word : Nat) : State × Bool :=
  let hit (e : MEntry) : Bool := e.core == core && decide (e.bword ≤ word) && decide (word < e.bword + e.bwords)
  if s.allWarps.any fun w => w.queued.any hit then (s.markHazard hit, true) else (s, false)
/-- A unit at byte `p` of a CPYB: words of the B-store (R301), free ones where it is a hazard (R173). -/
def State.writeB (s : State) (core w p : Nat) (bs : List Byte) : State :=
  let word := w + p / 512
  let (t, hz) := s.touchB core word
  let ws := if hz then t.freeWords (bs.length / 4) else wordsOfBytes bs.length bs
  let t := if hz then t.tick (bs.length / 4) else t
  { t with bstore := ws.zipIdx.foldl (fun m q => SMap.put m ((core * 128 + p % 512 / 4 + q.2) * 16384 + word) q.1) t.bstore }

/-- Whether the object that a copy of a gang counts on lies in its claimed scratch. -/
def State.objectOk (s : State) (h off : Nat) : Bool := match (s.gang h).segOf off with
  | some seg => (s.segment (s.gang h).cluster seg).mode == .scratch
  | none => false
/-- Bytes that a copy has written counted on its gang's object: at once, or with the commit of the version that holds them
(R269, R274). -/
def State.countCopy (s : State) (ag : Agent) (j : EngineJob) (c : Copy) (l : Loc) (n : Nat) : State :=
  if !s.objectOk j.gang c.bar then s else
  match l with
  | .phys a =>
    if ag.role = 0 then s.countOn ag ((s.gang j.gang).place c.bar) c.bar n
    else { s with versions := s.versions.map fun (v : Version) =>
      (if v.uid = ag.uid ∧ v.line = a / 128 ∧ v.span = ag.span then { v with counted := v.counted ++ [(j.gang, c.bar, n)] } else v) }
  | _ => s.countOn ag ((s.gang j.gang).place c.bar) c.bar n

/-- The lines of a unit's destination asked for: held in a checked run where the version store has room, else where they
may be written (R229, R250, R330). -/
def State.gateUnit (s : State) (ag : Agent) (u : TokUser) (lines : List Nat) : State × Bool :=
  if ag.role = 0 then s.askWrites u lines else s.makeRoomFor ag lines

/-- Whether a place of a job lies in a segment whose mode changed while the job was in flight (R207). -/
def EngineJob.spoils (j : EngineJob) (l : Loc) : Bool := match l with
  | .sram a => j.spoilt.contains (a / segSize)
  | _ => false
/-- The source and old data of `n` bytes of a copy at byte `q` of what it delivers, read now or before: the state after
it and the bytes, or why they cannot be read. Bytes of an entry in flight are free values (R173, R194). -/
def copyRead (cl : Nat) (j : EngineJob) (c : Copy) (q n : Nat) (s : State) : State × (List Byte × List Byte ⊕ UnitRes) :=
  let ag := j.agent cl
  let p := q % c.len
  match j.got.find? fun g => g.1 == q with
  | some g => (s, .inl (g.2.take 4, g.2.drop 4))
  | none =>
    match s.unitAt j c q (c.src + p) n false, (if copyOld c then s.unitAt j c q (c.old + p) n false else .ok (.refused 0 0)) with
    | .ok ls, .ok lo =>
      match s.askReads (j.reader cl) (ls.lines n ++ lo.lines n).eraseDups with
      | (t, none) => (t, .inr .wait)
      | (t, some kept) =>
        let old : List Piece := if copyOld c then [⟨lo, c.old + p, n⟩] else []
        let t := t.noteUsed j.ctx .read (⟨ls, c.src + p, n⟩ :: old)
        let (u, hz) := t.touch ag (⟨ls, c.src + p, n⟩ :: old)
        if hz || j.spoils ls || j.spoils lo then (u.tick (2 * n), .inl (u.freeBytes n, (List.range n).map fun i => Config.freeByte (u.fresh + n + i)))
        else (u, .inl (u.readPiece ag ⟨ls, c.src + p, n⟩ kept, if copyOld c then u.readPiece ag ⟨lo, c.old + p, n⟩ kept else []))
    | .ok _, r => (s, .inr r)
    | r, _ => (s, .inr r)
/-- Words read and kept for their writes (R267). -/
def EngineJob.keep (j : EngineJob) (q n : Nat) (src old : List Byte) : EngineJob :=
  { j with got := (List.range (n / 4)).map (fun i => (q + 4 * i, (src.drop (4 * i)).take 4 ++ (old.drop (4 * i)).take 4)) ++
      j.got.filter fun g => decide (g.1 < q) || decide (q + n ≤ g.1) }

/-- One unit of a copy whose bytes have been read is written, `n` bytes from byte `q` of what it delivers: the state after
it, and whether it was, or why not. `f` maps source bytes to what is written where the copy is a chain's FUNC step.
DESIGN CHOICE (log 12). -/
def copyWrite (cl : Nat) (c : Copy) (f : List Byte → List Byte) (j : EngineJob) (q n : Nat) (src old : List Byte) (s : State) : State × Option UnitRes :=
  let ag := j.agent cl
  let p := q % c.len
  let src := f src
  let counted (l : Loc) (t : State) : State := if c.ben then t.countCopy ag j c l n else t
  if c.fn = 6 then
    if (SMap.get s.peers c.peer {}).state ≠ 1 then (s, some (.fail causeCopyFault (c.dst + p) 0))
    else if s.fabricHeld j c q then (s, some .wait)
    else
      let a := 2 ^ 51 + c.peer * 2 ^ 42 + (c.dst + p) % 2 ^ 42
      let s := s.noteHeaders ag [⟨.phys a, c.dst + p, n⟩]
      (counted (.refused 0 0) { s with mem := s.mem.writeBytes a src }, none)
  else if c.fn = 2 then (counted (.refused 0 0) (s.writeB j.core c.dst p src), none)
  else if c.fn = 1 then
    match s.gangNumber j ((s.receivers j c.imm).getD (q / c.len) 0) with
    | none => (s, none)
    | some h =>
      let lost := j.spoils (.sram ((s.gang h).place (c.dst + p)))
      match (if lost then s.tick n else s).deliver ag c h (c.dst + p) (if lost then s.freeBytes n else src) with
      | some t => (t, none)
      | none => (s, some (.fail causeCopyFault (ownBase + c.dst + p) 0))
  else
    match s.unitAt j c q (c.dst + p) n true with
    | .ok ld =>
      let wag := if c.fn = 4 ∨ c.fn = 5 then ag.unheld else ag
      match s.gateUnit wag (j.writer cl c) (ld.lines n) with
      | (t, false) => (t, some .wait)
      | (t, true) =>
        let prior := t.readPiece ag ⟨ld, c.dst + p, n⟩
        let out := (List.range n).map fun i => copyByte c (prior.getD i 0) (src.getD i 0) (old.getD i 0)
        let (u, hz) := (t.noteUsed j.ctx .write [⟨ld, c.dst + p, n⟩]).touch ag [⟨ld, c.dst + p, n⟩]
        let hz := hz || j.spoils ld
        let v := (if hz then u.tick n else u).writePiece wag ⟨ld, c.dst + p, n⟩ (if hz then u.freeBytes n else out)
        (if c.ben then v.countCopy wag j c ld n else v, none)
    | r => (s, some r)

/-- A job whose gang is to be saved and that has to wait for another gang: where it stops (R477). -/
def State.halted (s : State) (j : EngineJob) (c : Copy) : EngineJob :=
  if j.node.isNone ∧ (s.gang j.gang).asked ∧ j.halt.isNone then { j with halt := some (j.boundary c) } else j

/-- The words of a job's copy from byte `lo` to byte `hi` that have not been performed, whole units together. -/
def EngineJob.units (j : EngineJob) (total lo hi : Nat) : List (Nat × Nat) :=
  (List.range ((total - j.pos / 16 * 16) / 16)).flatMap fun u =>
    let q := j.pos / 16 * 16 + 16 * u
    let ws := ((List.range 4).map fun i => q + 4 * i).filter fun x =>
      decide (j.pos ≤ x) && !j.ahead.contains x && decide (lo ≤ x) && decide (x < hi)
    if ws.length = 4 ∧ ¬ j.got.any (fun g => decide (q ≤ g.1) && decide (g.1 < q + 16)) then [(q, 16)]
    else ws.map fun x => (x, 4)

/-- The words past `pos` that have been performed taken into it. -/
def EngineJob.absorb : Nat → EngineJob → EngineJob
  | 0, j => j
  | k + 1, j => if j.ahead.contains j.pos then EngineJob.absorb k { j with pos := j.pos + 4, ahead := j.ahead.erase j.pos } else j
/-- A unit of a job performed. -/
def EngineJob.mark (j : EngineJob) (q n : Nat) : EngineJob :=
  let j := { j with got := j.got.filter fun g => decide (g.1 < q) || decide (q + n ≤ g.1) }
  if q = j.pos then EngineJob.absorb j.ahead.length { j with pos := q + n }
  else { j with ahead := j.ahead ++ (List.range (n / 4)).map fun i => q + 4 * i }

/-- Units of a copy performed in their order: the state and the job after them, and what stopped them. -/
def copyUnits (cl : Nat) (c : Copy) (f : List Byte → List Byte) : List (Nat × Nat) → EngineJob → State → State × EngineJob × Option UnitRes
  | [], j, s => (s, j, none)
  | q :: qs, j, s =>
    match copyRead cl j c q.1 q.2 s with
    | (t, .inr r) => (t, j, some r)
    | (t, .inl (src, old)) =>
      match copyWrite cl c f j q.1 q.2 src old t with
      | (u, none) => copyUnits cl c f qs (j.mark q.1 q.2) u
      | (u, some r) => (u, j.keep q.1 q.2 src old, some r)
/-- Words of a copy read and kept for their writes (R267). -/
def readUnits (cl : Nat) (c : Copy) : List Nat → EngineJob → State → State × EngineJob × Option UnitRes
  | [], j, s => (s, j, none)
  | q :: qs, j, s =>
    match copyRead cl j c q 4 s with
    | (t, .inl (src, old)) => readUnits cl c qs (j.keep q 4 src old) t
    | (t, .inr r) => (t, j, some r)
/-- What an engine event does of a copy: all that remains, or with `b` the words from byte `w` on, `n` bytes of
them, whose sources are only read where `v` is 1. -/
def runUnits (cl : Nat) (c : Copy) (f : List Byte → List Byte) (j : EngineJob) (s : State) : State × EngineJob × Option UnitRes :=
  let total := s.copyTotal j c
  let lo := if s.ev.b then s.ev.w.toNat else 0
  let us := j.units total lo (if s.ev.b then lo + s.ev.n else total)
  if s.ev.b ∧ s.ev.v = 1 then readUnits cl c (us.flatMap fun q => (List.range (q.2 / 4)).map fun i => q.1 + 4 * i) j s
  else copyUnits cl c f us j s

/-- The units that remain of a stopped copy are undefined: a free value in each byte that can be reached (R304). -/
def scrambleUnits (cl : Nat) (j : EngineJob) (c : Copy) : List (Nat × Nat) → State → State
  | [], s => s
  | q :: qs, s =>
    let ag := j.agent cl
    let p := q.1 % c.len
    let bs := s.freeBytes q.2
    let s := s.tick q.2
    let s :=
      if c.fn = 6 then { s with mem := s.mem.writeBytes (2 ^ 51 + c.peer * 2 ^ 42 + (c.dst + p) % 2 ^ 42) bs }
      else if c.fn = 2 then s.writeB j.core c.dst p bs
      else if c.fn = 1 then
        match s.gangNumber j ((s.receivers j c.imm).getD (q.1 / c.len) 0) with
        | some h => (s.deliver ag { c with ben := false } h (c.dst + p) bs).getD s
        | none => s
      else match s.unitAt j c q.1 (c.dst + p) q.2 true with
        | .ok l => s.writePiece ag ⟨l, c.dst + p, q.2⟩ bs
        | _ => s
    scrambleUnits cl j c qs s
/-- The object at an offset of a gang's scratch clobbered, where the gang runs or in its saved image (R297). -/
def State.clobberOf (s : State) (h off : Nat) : State :=
  let g := s.gang h
  if g.phase = .running then s.clobber (g.place off) 16
  else s.onGang h fun g => { g with image := g.image.map fun (w : Warp) => match w.park with
    | .barrier _ _ o pc none => if o.toNat < off + 16 ∧ off < o.toNat + 16 then w.wakeWithTrap causeBarrierClobbered o 0 pc else w
    | _ => w }
/-- The objects that a copy counts on clobbered: of its gang, or of each of its receivers (R304). -/
def State.clobberCounted (s : State) (j : EngineJob) (c : Copy) : State :=
  if !c.ben then s
  else (if c.fn = 1 then (s.receivers j c.imm).filterMap (s.gangNumber j) else [j.gang]).foldl (fun s h => s.clobberOf h c.bar) s
/-- A copy or chain step stopped where its job stands. -/
def State.stopCopy (s : State) (cl : Nat) (j : EngineJob) (c : Copy) : State :=
  let total := s.copyTotal j c
  (scrambleUnits cl j c (j.units total 0 total) s).clobberCounted j c
/-- The byte of its source at which a job's first word stands that has not been performed. -/
def EngineJob.next (j : EngineJob) (c : Copy) : Nat := j.pos % c.len

/-! ## A context that is being saved (R372, R384) -/

/-- A chain step as its 16 words give it. -/
def stepCopy (d : List Word) : Copy :=
  let w (i : Nat) : Word := d.getD i 0
  { fn := if fld (w 0).toNat 28 4 = 2 then 4 else 3, src := (pair (w 1) (w 2)).toNat, dst := (pair (w 3) (w 4)).toNat
    len := (w 5).toNat, ben := (w 6).getLsbD 31, bar := (w 6).toNat % 2 ^ 31, h := (w 0).toNat % 4 }
/-- The words of a step that have been read, once all 16 have. -/
def EngineJob.stepWords (j : EngineJob) : Option (List Word) := if j.step.length = 16 then some (j.step.map (·.2)) else none
/-- The copy that a job performs: its own, or that of the step that its chain has read. -/
def EngineJob.current (j : EngineJob) : Option Copy := match j.job with
  | .copy c => some c
  | .chain _ _ _ => j.stepWords.map stepCopy
/-- The SRAM byte that a scratch address of a job leads to. -/
def State.sramOf (s : State) (j : EngineJob) (va : Nat) : Option Nat := match windowOf va with
  | .own o => ((s.gang j.gang).segOf o).map fun _ => (s.gang j.gang).place o
  | .peer cl o => match s.peerTarget j.ctx cl o with
    | .sram a => some a
    | _ => none
  | _ => none
/-- The parts in a segment of SRAM of `n` bytes from `va` on. -/
def inSegment (place : Nat → Option Nat) (seg va n : Nat) : List (Nat × Nat) :=
  (List.range (n / segSize + 2)).filterMap fun i =>
    let lo := max va ((va / segSize + i) * segSize)
    let len := min (va + n) ((va / segSize + i + 1) * segSize) - lo
    (place lo).bind fun a => if 0 < len ∧ a / segSize = seg then some (a, len) else none
/-- What a job's copy reads, and what it writes, in a segment of SRAM. -/
def State.jobReads (s : State) (j : EngineJob) (seg : Nat) : List (Nat × Nat) := match j.current with
  | some c => inSegment (s.sramOf j) seg c.src c.len ++ if copyOld c then inSegment (s.sramOf j) seg c.old c.len else []
  | none => []
def State.jobWrites (s : State) (j : EngineJob) (seg : Nat) : List (Nat × Nat) := match j.current with
  | some c =>
    if c.fn = 1 then ((s.receivers j c.imm).filterMap (s.gangNumber j)).flatMap fun h =>
      inSegment (fun o => ((s.gang h).segOf o).map fun _ => (s.gang h).place o) seg c.dst c.len
    else if copyDstAddr c.fn ∧ c.fn ≠ 6 then inSegment (s.sramOf j) seg c.dst c.len else []
  | none => []
/-- Whether a copy or chain of an engine is stopped by a switch or a save, and so is saved and not waited for: a
fabric-bound one at a boundary of its source, or one whose next read is of the scratch of a gang that does not run
(R371, R477). DEDUCED (log 24). -/
def State.jobHeld (s : State) (j : EngineJob) : Bool :=
  let held (c : Copy) : Bool :=
    let at_ (va : Nat) (write : Bool) : Bool := match s.unitAt j c j.pos (va + j.next c) 4 write with
      | .wait | .away => true
      | _ => false
    (c.fn == 6 && !j.sent && s.fabricHeld j c j.pos) || at_ c.src false || (copyOld c && at_ c.old false)
      || (copyDstAddr c.fn && c.fn != 6 && at_ c.dst true)
  match j.job with
  | .copy c => held c
  | .chain va _ _ =>
    match j.stepWords with
    | some d => held (stepCopy d)
    | none => s.stopping j && (match s.translate j.ctx va .read with
      | .phys a => isHost a || isPeer a
      | _ => false)

/-- A timed record done: its status, once (R384). -/
def TimedRec.finish (t : TimedRec) (status count : Nat) : TimedRec :=
  if t.done.isSome then t else { t with done := some status, count := if t.starts then count else 0 }

/-- A SAVING context becomes SAVED once the scheduler has it that every gang is saved or retired, and its copies are done or
held; its PREEMPT records are done (R369, R372, R384, R388). -/
def State.trySaved (s : State) (c : Nat) : State :=
  let busy := s.gangs.any fun g => g.2.ctx == c && (g.2.phase == .running || g.2.phase == .offered || g.2.phase == .restoring)
  let told := s.msgs.any fun m => (m.kind == .saved || m.kind == .retired) && (s.gang m.gang).ctx == c
  let copies := s.clusters.any fun k => k.2.engine.any fun j => j.ctx == c && j.node.isSome && !j.stopped && !s.jobHeld j
  if (s.ctx c).phase = .saving ∧ ¬ busy ∧ ¬ told ∧ ¬ copies then
    let n := (s.ctx c).saveDone
    { s with timed := s.timed.map fun (t : TimedRec) => (if t.action = 1 ∧ t.acted ∧ t.target = c then t.finish 0 n else t) }.onCtx c fun x =>
      { x with phase := .saved }
  else s

/-! ## Completion (R303, R304, R308) -/

/-- A job changed, and one taken out of its queue. -/
def State.onJob (s : State) (cl m : Nat) (f : EngineJob → EngineJob) : State :=
  s.onCluster cl fun c => { c with engine := c.engine.modify m f }
def State.dropJob (s : State) (cl m : Nat) : State :=
  s.onCluster cl fun c => { c with engine := c.engine.eraseIdx m }
/-- A job over: C falls for its warp; a node gets its status: 0 OK, 10 GRID_LOST (R349, R354). -/
def State.endJob (s : State) (cl m : Nat) (j : EngineJob) (failed : Bool) : State :=
  let s := s.dropJob cl m
  let s := match j.warp with
    | some u => s.onUid u fun w => { w with regs := { w.regs with cnt := { w.regs.cnt with c := w.regs.cnt.c - 1 } } }
    | none => s
  match j.node with
  | some n => s.onNode n fun x => { x with finish := x.finish.or (some (if failed then 10 else 0)) }
  | none => s
/-- A failure of a job latched against its warp. -/
def State.latchJob (s : State) (j : EngineJob) (cause va : Nat) (extra : Word) : State :=
  match j.warp with
  | some u => s.onUid u fun w => w.latchTrap cause (adr0 va) (adr1 va ||| extra)
  | none => s

/-- Whether the events of the warp before the job have been performed: its accesses, and the fence of a segment change
(R260, R267). -/
def State.jobReady (s : State) (j : EngineJob) : Bool :=
  match j.warp with
  | some u => match s.warpOf u with
    | some w => !(w.out.any fun a => decide (a.stamp < j.stamp) && !a.over)
        && !((s.cluster w.cluster).changes.any fun c => c.warp == some u && decide (c.stamp < j.stamp))
    | none => true
  | none => true

/-- A job held by a page request that the driver answers (R304, R416). -/
def State.serviceJob (s : State) (cl m : Nat) (j : EngineJob) (va : Nat) (write : Bool) : State :=
  let q := openRequest j.ctx va (if write then 5 else 4) s
  q.1.onJob cl m fun j => { j with waiting := some q.2 }

/-- How far a job has come. -/
def EngineJob.stands (x j : EngineJob) : EngineJob := { x with pos := j.pos, ahead := j.ahead, got := j.got, step := j.step, halt := j.halt }
/-- A copy of the engine goes on as the event says. With its last word it completes; a CPYPEER then waits for its
acknowledgment. -/
def runCopy (cl m : Nat) (j : EngineJob) (c : Copy) (s : State) : State :=
  let (t, k, r) := runUnits cl c id j s
  let t := t.onJob cl m fun x => x.stands k
  match r with
  | none =>
    if k.pos < s.copyTotal j c then t
    else if c.fn = 6 then t.onJob cl m fun j => { j with sent := true }
    else t.endJob cl m j false
  | some .wait => t.trySaved j.ctx
  | some .away => (t.onJob cl m fun x => t.halted x c).trySaved j.ctx
  | some (.service va w) => t.serviceJob cl m j va w
  | some (.fail cause va extra) => ((t.stopCopy cl k c).latchJob j cause va extra).endJob cl m j true
  | some (.ok _) => t

/-- A copy or chain step whose grid or context has gone runs to the next 512-byte boundary of its source as far as its pages
and scratch are still there, and stops: what it has not written is undefined (R407). -/
def runStopped (cl m : Nat) (j : EngineJob) (c : Copy) (f : List Byte → List Byte) (s : State) : State :=
  let (t, k, r) := copyUnits cl c f (j.units (s.copyTotal j c) 0 (min (j.boundary c) (s.copyTotal j c))) j s
  if r = some .wait then t.onJob cl m fun x => x.stands k
  else (t.stopCopy cl k c).endJob cl m j true

/-- COPY_COMPLETE: copy `m` of a cluster's engine performs its writes, all that remain or those that `b`, `w`, `n`
and `v` name (R267, R303). -/
def execEvCopyComplete (s : State) : Out :=
  let cl := s.ev.k
  let m := s.ev.m
  .next (match (s.cluster cl).engine[m]? with
    | some j => match j.job with
      | .copy c =>
        if j.stopped then runStopped cl m j c id s
        else if j.waiting.isSome || j.sent || !s.jobReady j then s
        else runCopy cl m j c s
      | .chain _ _ _ => s
    | none => s)

/-! ## Chains (R307, R308) -/

/-- Whether an address is in own scratch. -/
def inOwn (va : Nat) : Bool := match windowOf va with
  | .own _ => true
  | _ => false
/-- Whether a step is malformed (R308); a CHAIN node's may not name own scratch or count (R354). -/
def stepMalformed (node : Bool) (d : List Word) : Bool :=
  let w (i : Nat) : Word := d.getD i 0
  let c := stepCopy d
  let op := fld (w 0).toNat 28 4
  decide (2 < op) || (op != 1 && fld (w 0).toNat 24 3 != 0) || fld (w 0).toNat 2 22 != 0 || w 7 != 0
    || (List.range 6).any (fun i => w (10 + i) != 0) || fld (w 6).toNat 23 8 != 0
    || c.src % 16 != 0 || c.dst % 16 != 0 || c.len % 16 != 0 || decide (2 ^ 30 < c.len)
    || (c.ben && c.bar % 16 != 0)
    || (!(w 0).getLsbD 27 && (pair (w 8) (w 9)).toNat % 64 != 0)
    || (c.len != 0 && rangesMeet c.src c.dst c.len)
    || (node && (inOwn c.src || inOwn c.dst || c.ben))
/-- The words of a FUNC step: each goes through a table (R155, R307). -/
def mapTable (words : Nat → Nat) (bs : List Byte) : List Byte :=
  bytesOfWords ((wordsOfBytes bs.length bs).map fun w => BitVec.ofNat 32 (evalTable words w.toNat).bits)

/-- What a step does to the words that it reads. -/
def State.stepMap (s : State) (j : EngineJob) (banks : BitVec 9) (d : List Word) : List Byte → List Byte :=
  let w0 := (d.getD 0 0).toNat
  let tid := fld w0 24 3
  if fld w0 28 4 = 1 then mapTable ((s.ctx j.ctx).fnWord tid (banks.getLsbD tid)) else id

/-- CHAIN_DESCRIPTOR latched with the step's address, and the chain over. -/
def State.badStep (s : State) (cl m : Nat) (j : EngineJob) (va : Nat) : State :=
  (s.latchJob j causeChainDescriptor va 0).endJob cl m j true

/-- A step that has been read runs as the event says; with its last word the chain goes on to the next, or
completes. One that counts on an object outside its gang's claimed scratch stops as at a refused target (R304).
DEDUCED (log 12). -/
def runStep (cl m : Nat) (j : EngineJob) (va steps : Nat) (banks : BitVec 9) (d : List Word) (s : State) : State :=
  let c := stepCopy d
  let w0 := (d.getD 0 0).toNat
  if stepMalformed j.node.isSome d then
    let named := decide (c.dst % 16 = 0) && decide (c.len ≤ 2 ^ 30)
    (if named then s.stopCopy cl j { c with ben := false } else s).badStep cl m j va
  else if c.ben ∧ ¬ s.objectOk j.gang c.bar then
    ((s.stopCopy cl j { c with ben := false }).latchJob j causeCopyFault (ownBase + c.bar) 0).endJob cl m j true
  else
    let f := s.stepMap j banks d
    let esc : State → State := match j.warp with
      | some u => fun s => s.onUid u fun w =>
        if w.regs.chkrole = 1 then { w with span := { w.span with
          escaped := w.span.escaped || (c.fn == 4 && !inOwn c.dst)
          scratch := w.span.scratch || inOwn c.dst || c.ben } } else w
      | none => id
    let (t, k, r) := runUnits cl c f j s
    let t := esc (t.onJob cl m fun x => x.stands k)
    match r with
    | none =>
      if k.pos < c.len then t
      else if w0.testBit 27 then t.endJob cl m j false
      else t.onJob cl m fun j => { j with
        pos := 0
        step := []
        spoilt := []
        job := .chain (pair (d.getD 8 0) (d.getD 9 0)).toNat (steps + 1) banks }
    | some .wait => t.trySaved j.ctx
    | some .away => (t.onJob cl m fun x => t.halted x c).trySaved j.ctx
    | some (.service x w) => t.serviceJob cl m j x w
    | some (.fail cause x extra) => ((t.stopCopy cl k c).latchJob j cause x extra).endJob cl m j true
    | some (.ok _) => t

/-- Words of the next step of a chain read by its engine: those that remain, or with `b` those that the mask `w` names
(R259, R267, R307). -/
def EngineJob.readStep (j : EngineJob) (ev : EvArgs) (bs : List Byte) : EngineJob :=
  { j with step := (List.range 16).foldl (fun m i =>
      if (SMap.find m i).isSome ∨ (ev.b ∧ ¬ ev.w.getLsbD i) then m
      else SMap.put m i (BitVec.ofNat 32 (wordOfBytes ((bs.drop (4 * i)).take 4)))) j.step }

/-- CHAIN_STEP: chain `m` of a cluster's engine reads its next step, word by word, and performs its words, all that remain
or those that `b`, `w`, `n` and `v` name (R267, R308); the read is not made across the fabric while the chain is to stop
(R385). -/
def execEvChainStep (s : State) : Out :=
  let cl := s.ev.k
  let m := s.ev.m
  .next (match (s.cluster cl).engine[m]? with
    | some j => match j.job with
      | .copy _ => s
      | .chain va steps banks =>
        if j.stopped then match j.stepWords with
          | some d => runStopped cl m j (stepCopy d) (s.stepMap j banks d) s
          | none => s.endJob cl m j true
        else if j.waiting.isSome || !s.jobReady j then s
        else match j.stepWords with
        | some d => runStep cl m j va steps banks d s
        | none =>
          if 4096 ≤ steps ∨ va % 64 ≠ 0 then s.badStep cl m j va
          else match windowOf va with
          | .glob =>
            (match s.translate j.ctx va .read with
            | .phys a =>
              if s.stopping j ∧ (isHost a ∨ isPeer a) then s.trySaved j.ctx
              else match s.askReads (j.reader cl) (linesOf a 64) with
                | (t, none) => t
                | (t, some kept) =>
                  let (t, hz) := t.touch (j.agent cl) [⟨.phys a, va, 64⟩]
                  let k := j.readStep s.ev (if hz then t.freeBytes 64 else t.readPhys (j.agent cl) a 64 kept)
                  let t := ((if hz then t.tick 64 else t).noteXlate j.ctx va a .read).onJob cl m fun _ => k
                  (match k.stepWords with
                  | some d => if s.ev.b then t else runStep cl m k va steps banks d t
                  | none => t)
            | .recoverable => s.serviceJob cl m j va false
            | _ => (s.latchJob j causeCopyFault va 0).endJob cl m j true)
          | _ => s.badStep cl m j va
    | none => s)

end Sys2Proof.Machine
end

