-- ==== Sys2Proof/Machine/Loop.lean ====
section
/-! DEFINITION. Almond, the loop sequencer (R133 to R136): the descriptor, the iteration queue, NEXTIT,
BRIT and LSTOP. LSTART, which reads memory, stands with the loads. -/

namespace Sys2Proof.Machine

/-- Word `i` of a descriptor. -/
def dword (d : List Word) (i : Nat) : Word := d.getD i 0
/-- LEVELS and PERMITS of a descriptor (R133). -/
def descLevels (d : List Word) : Nat := (dword d 0).toNat % 4
def descPermits (d : List Word) : Nat := fld (dword d 0).toNat 4 4
/-- The count field of a level, as written (count − 1). -/
def descCntField (d : List Word) (l : Nat) : Nat := fld (dword d (1 + l / 2)).toNat (12 * (l % 2)) 12
/-- The count of a level; an unused level counts once. -/
def descCount (d : List Word) (l : Nat) : Nat := if l ≤ descLevels d then descCntField d l + 1 else 1
/-- Whether a descriptor is malformed (R133). -/
def descMalformed (d : List Word) : Bool :=
  fld (dword d 0).toNat 8 24 != 0 || fld (dword d 0).toNat 2 2 != 0
    || fld (dword d 1).toNat 24 8 != 0 || fld (dword d 2).toNat 24 8 != 0
    || dword d 13 != 0 || dword d 14 != 0 || dword d 15 != 0
    || descPermits d == 0 || decide (8 < descPermits d)
    || [1, 2, 3].any fun l => decide (descLevels d < l) &&
        (descCntField d l != 0 || dword d (5 + l) != 0 || dword d (9 + l) != 0)

/-- The tuple of the next iteration, level 0 fastest. -/
def nextTuple (d : List Word) : List Nat → Nat → List Nat
  | [], _ => []
  | i :: rest, l => if i + 1 < descCount d l then (i + 1) :: rest else 0 :: nextTuple d rest (l + 1)
/-- The tuple `n` iterations further. -/
def tupleAfter (d : List Word) : Nat → List Nat → List Nat
  | 0, t => t
  | n + 1, t => tupleAfter d n (nextTuple d t 0)

/-- The queue entry of a tuple (R134). -/
def nestEntry (d : List Word) (t : List Nat) : Vector Word 4 :=
  let i (l : Nat) : Nat := t.getD l 0
  let off (base str : Nat) : Word :=
    [0, 1, 2, 3].foldl (fun a l => a + BitVec.ofNat 32 (i l) * dword d (str + l)) (dword d base)
  let first (l : Nat) : Bool := decide (l ≤ descLevels d) && (List.range (l + 1)).all fun k => i k == 0
  let last (l : Nat) : Bool :=
    decide (l ≤ descLevels d) && (List.range (l + 1)).all fun k => i k + 1 == descCount d k
  let bits (f : Nat → Bool) : Nat := [0, 1, 2, 3].foldl (fun a l => a + if f l then 2 ^ l else 0) 0
  #v[off 3 5, off 4 9,
     BitVec.ofNat 32 (bits last * 2 ^ 28 + bits first * 2 ^ 24 + i 1 * 2 ^ 12 + i 0),
     BitVec.ofNat 32 (i 3 * 2 ^ 12 + i 2)]

/-- A nest as LSTART loads it from its descriptor (R135). -/
def nestOf (d : List Word) : Nest :=
  { desc := d, tuple := [0, 0, 0, 0]
    remain := descCount d 0 * descCount d 1 * descCount d 2 * descCount d 3 }

/-- Almond writes one entry while a permit and an unqueued iteration remain (R134). -/
def Nest.fill (n : Nest) : Nest :=
  if n.queue.length < descPermits n.desc ∧ n.queue.length < n.remain then
    { n with queue := n.queue ++ [nestEntry n.desc (tupleAfter n.desc n.queue.length n.tuple)] }
  else n

/-- What is kept of a nest at pre-emption and in a checkpoint: the queue is not saved, and is refilled (R136). -/
def Nest.saved (n : Nest) : Nest := { n with queue := [] }

/-- NEXTIT into the four scalars from 4 × d up; an empty queue stalls it (R134, R135). -/
def execNextit (d : BitVec 3) (s : State) : Out :=
  match s.warp.nest with
  | none => takeTrap causeLoopIdle 1 0 s
  | some n =>
    if n.remain = 0 then takeTrap causeLoopEmpty 1 0 s
    else match n.queue with
      | [] => s.stall
      | e :: rest =>
        ((s.onRegs fun r => (((r.setSn (4 * d.toNat) e[0]).setSn (4 * d.toNat + 1) e[1]).setSn
            (4 * d.toNat + 2) e[2]).setSn (4 * d.toNat + 3) e[3]).onWarp fun w =>
          { w with nest := some { n with queue := rest, remain := n.remain - 1, tuple := nextTuple n.desc n.tuple 0 } }).ok

/-- BRIT (R135). -/
def execBrit (o : BitVec 17) (s : State) : Out :=
  match s.warp.nest with
  | some n =>
    if n.remain = 0 then (s.onWarp fun w => { w with nest := none }).ok else s.transfer o.toInt
  | none => s.ok
/-- LSTOP (R135). -/
def execLstop (s : State) : Out := (s.onWarp fun w => { w with nest := none }).ok

/-- ALMOND_ENTRY: Almond writes one entry into the queue of the warp in the focus (R134). -/
def execEvAlmondEntry (s : State) : Out :=
  .next (s.onWarp fun w => { w with nest := w.nest.map Nest.fill })

end Sys2Proof.Machine
end

