-- ==== Sys2Proof/Machine/Sync.lean ====
section
/-! DEFINITION. LSTART, condition monitors, barrier objects, and the events by which outstanding loads and
stores are performed (R135, R253, R254, R283, R286, R292 to R299, R328, R330). -/

namespace Sys2Proof.Machine

/-! ## LSTART (R135) -/

/-- The aligned bytes of a read that an instruction makes at its issue: their physical address, where nothing outstanding
holds the read back, or how the instruction ends. A shadow or tiebreak takes them from its log, and waits for nothing
(R331), unless they are stable. -/
def readAtIssue (acq : Bool) (va n : Nat) (s : State) (k : Nat → State → Out) : Out :=
  let logged : Bool := decide (2 ≤ s.snap.chkrole.toNat) && !s.allStable [(0, [⟨.phys 0, va, n⟩])]
  match s.translate s.warp.ctx va .read with
  | .fail p => takeTrap causePageFault (adr0 va) (faultInfo va false p) s
  | .recoverable => if logged then k 0 s else parkFault va 0 s
  | .phys a =>
    let rs : List (Nat × List Piece) := [(0, [⟨.phys a, va, n⟩])]
    if logged then k a s
    else if fabricStopped s rs then s.parkAtIssue .fabric
    else if issueClear s { kind := .load 2 0 1, acquire := acq, lanes := laneAccs rs fun _ => [] } then k a (s.noteAll .read rs)
    else s.stall

/-- LSTART (R135, R136). The 64 bytes of the descriptor are read at one instant, once their line may be read.
DESIGN CHOICE (log 21). -/
def execLstart (a : BitVec 4) (s : State) : Out :=
  let va := (s.srcPair a).toNat
  let start (d : List Word) (t : State) : Out :=
    if descMalformed d then takeTrap causeLoopDescriptor 0 0 t
    else (t.onWarp fun w => { w with nest := some (nestOf d) }).ok
  if s.warp.nest.isSome then takeTrap causeLoopBusy 0 0 s
  else match windowOf va with
    | .none => takeTrap causeAddressWindow (adr0 va) (adr1w va) s
    | .glob =>
      if va % 64 ≠ 0 then takeTrap causeMisaligned (adr0 va) (adr1 va) s
      else readAtIssue false va 64 s fun pa t =>
        let stable := t.allStable [(0, [⟨.phys pa, va, 64⟩])]
        if 2 ≤ t.snap.chkrole.toNat ∧ ¬ stable then t.viaLog 4 (List.replicate 16 0) start
        else match t.askReads { clusterUser t.warp.cluster t.warp.ctx 1 with stamp := t.warp.readStamp } (linesOf pa 64) with
          | (u, none) => u.stall
          | (u, some kept) =>
            let (u, hz) := u.touch u.warp.agent [⟨.phys pa, va, 64⟩]
            let d := if hz then u.freeWords 16 else wordsOfBytes 64 (u.readPhys u.warp.agent pa 64 kept)
            let u := if hz then u.tick 16 else u
            if stable then start d u else u.viaLog 4 d start
    | _ => takeTrap causeLoopDescriptor 0 0 s

/-! ## Condition monitors (R253, R254, R292) -/

/-- Whether every record of the slice is taken on the warp's die, so that the monitor polls (R253). -/
def recordsFull (s : State) (a : Nat) : Bool :=
  decide (256 ≤ s.allWarps.countP fun w => match w.park with
    | .monitor p _ _ _ polled => !polled && w.die == s.warp.die && poolSlice (p / 128) == poolSlice (a / 128)
    | _ => false)
/-- The word that a warp's monitor reads, once the pool of its die has a token for the line, and the state after (R253,
R254). -/
def State.monitorRead (s : State) (w : Warp) (p : Nat) : State × Option Word :=
  match s.askReads { stackUser w.die w.ctx with stamp := w.monitorStamp } (linesOf p 4) with
  | (t, none) => (t, none)
  | (t, some kept) =>
    let (u, hz) := t.touch w.agent [⟨.phys p, 2 ^ 63, 4⟩]
    let v := if hz then u.freeWord else BitVec.ofNat 32 (wordOfBytes (u.readPhys { ctx := w.ctx } p 4 kept))
    (if hz then u.tick else u, some v)
/-- The monitor of the warp in the focus reads its word, where it can, and evaluates it (R254). -/
def State.pollMonitor (s : State) (p : Nat) : State :=
  match s.monitorRead s.warp p with
  | (t, some v) => t.onWarp fun w => w.evaluate v
  | (t, none) => t

/-- MWAIT (R292): it acts once for the warp, and its waking read is an acquire. -/
def execMwait (f : BitVec 4) (d a : BitVec 5) (b : BitVec 4) (s : State) : Out :=
  let va := (s.srcPair b).toNat
  let replay : Out := s.viaLog 3 [0] fun v u => (u.setS d (v.headD 0)).ok
  s.opensSpan <|
    if memoryBlocked s || !roomA s then s.stall
    else if va % 4 ≠ 0 then takeTrap causeMisaligned (adr0 va) (adr1 va) s
    else match windowOf va with
      | .glob =>
        (match s.translate s.warp.ctx va .read with
        | .phys pa =>
          if isHost pa || isPeer pa then takeTrap causeMonitorTarget (adr0 va) (adr1w va) s
          else if 2 ≤ s.snap.chkrole.toNat then replay
          else readAtIssue true va 4 s fun pa t =>
              let t := (t.advance.addA 1).forget t.warp.monitorStamp
              .next ((t.onWarp fun w =>
                { w with park := .monitor pa f.toNat (s.srcS a) d.toNat (recordsFull s pa) }).pollMonitor pa)
        | .fail p => takeTrap causePageFault (adr0 va) (faultInfo va false p) s
        | .recoverable => if 2 ≤ s.snap.chkrole.toNat then replay else parkFault va 0 s)
      | _ => takeTrap causeMonitorTarget (adr0 va) (adr1w va) s

/-- MONITOR_POLL: the monitor of the warp in the focus reads its word and evaluates it (R253, R254). -/
def execEvMonitorPoll (s : State) : Out :=
  .next (match s.warp.park with
    | .monitor p _ _ _ _ => s.pollMonitor p
    | _ => s)

/-! ## Barrier objects (R293 to R299) -/

/-- The object that a scalar names in own scratch (R295): its SRAM byte, or the trap. DEDUCED (log 22). -/
def withObject (off : Word) (s : State) (k : Nat → Out) : Out :=
  let o := off.toNat
  let g := s.gang s.warp.gang
  if o % 16 ≠ 0 then takeTrap causeMisaligned off s.freeWord s.tick
  else match g.segOf o with
    | none => takeTrap causeScratchRange off s.freeWord s.tick
    | some seg =>
      if (s.segment g.cluster seg).mode = .scratch then k (sramAddr g.cluster seg (o % segSize))
      else takeTrap causeScratchRange off s.freeWord s.tick

/-- The access of a BAR function on an object. -/
def objAccess (kind : AccKind) (a : Nat) (off : Word) (rel acq : Bool) : Access :=
  { kind := kind, release := rel, acquire := acq
    lanes := [{ lane := 0, va := ownBase + off.toNat, pieces := [⟨.sram a, ownBase + off.toNat, 16⟩] }] }

/-- A BAR function that counts in S: a shadow or tiebreak performs none, so that S rises and falls at once (R333). -/
def issueBar (a : Access) (s : State) : Out :=
  if 2 ≤ s.snap.chkrole.toNat then s.ok else ((s.scratchMark.addAccess a).addS 1).ok

/-- BINIT (R295). -/
def execBinit (a b : BitVec 5) (s : State) : Out :=
  if memoryBlocked s || !roomS s then s.stall
  else withObject (s.srcS a) s fun o =>
    let n := (s.srcS b).toNat
    if n = 0 ∨ 65535 < n then takeTrap causeBarrierCount (s.srcS a) 0 s
    else issueBar (objAccess (.binit n) o (s.srcS a) false false) s

/-- An arrival that closes its span in a checked run, or joins the warp's accesses; one at a peer escapes (R337). The closing
one is held with its span at once: S rises and falls together (R320, R322). -/
def issueArrival (closes : Bool) (a : Access) (s : State) : Out :=
  if closes ∧ s.snap.chkrole ≠ 0 then
    ((if a.kind = .barrive true then s.scratchMark.escape else s.scratchMark).closeSpan .none (some a)).ok
  else issueBar a s

/-- BARRIVE (R295); in a checked block it ends the span unless the gang has one block (R299). -/
def execBarrive (a : BitVec 5) (s : State) : Out :=
  if memoryBlocked s || !roomS s then s.stall
  else withObject (s.srcS a) s fun o =>
    issueArrival ((s.grid s.warp.grid).launch.gang ≠ 1) (objAccess (.barrive false) o (s.srcS a) true false) s

/-- BARRIVE.PEER (R295): the cluster and the offset of the object in the form of R287. -/
def execBarrivePeer (a : BitVec 5) (s : State) : Out :=
  let w := (s.srcS a).toNat
  let off := w % 2 ^ 23
  if memoryBlocked s || !roomS s then s.stall
  else if 192 ≤ fld w 23 9 then takeTrap causeAddressWindow (s.srcS a) 0 s
  else if off % 16 ≠ 0 then takeTrap causeMisaligned (s.srcS a) 0 s
  else
    let va := peerBase + fld w 23 9 * sramSize + off
    let ps : List Piece := [⟨s.peerLoc s.warp.ctx false va (fld w 23 9) off, va, 16⟩]
    issueArrival true { kind := .barrive true, release := true, lanes := [{ lane := 0, va := va, pieces := ps }] } s

/-- BEXPECT (R295). -/
def execBexpect (a b : BitVec 5) (s : State) : Out :=
  if memoryBlocked s || !roomS s then s.stall
  else withObject (s.srcS a) s fun o =>
    issueBar (objAccess (.bexpect (s.srcS b).toNat) o (s.srcS a) false false) s
/-- BINVAL (R295). -/
def execBinval (a : BitVec 5) (s : State) : Out :=
  if memoryBlocked s || !roomS s then s.stall
  else withObject (s.srcS a) s fun o => issueBar (objAccess .binval o (s.srcS a) false false) s

/-- Whether a waiter on an object finds its segment's 64 tracked objects taken (R298). -/
def objectsFull (s : State) (a : Nat) : Bool :=
  let objs := (s.allWarps.filterMap fun w => match w.park with
    | .barrier o _ _ _ none => if o / segSize = a / segSize then some o else none
    | _ => none).eraseDups
  decide (64 ≤ objs.length) && !objs.contains a

/-- BWAIT (R295, R296, R298): it reads the object at issue, an acquire of the phase there or where it wakes, so that it
follows the warp's earlier releases (R265). -/
def execBwait (a b : BitVec 5) (s : State) : Out :=
  let off := s.srcS a
  let par := (s.srcS b).getLsbD 0
  if memoryBlocked s then s.stall
  else withObject off s fun o =>
    if 2 ≤ s.snap.chkrole.toNat then s.ok
    else if !issueClear s (objAccess (.load 2 0 1) o off false true) then s.stall
    else if !s.objVal o then takeTrap causeBarrierInvalid off 3 s
    else if s.objPh o ≠ par then s.ok
    else .next (s.advance.onWarp fun w =>
      { w with park := .barrier o par off s.grp.pc (if objectsFull s o then some (s.objWord o 3) else none) })

/-- BTRY (R295, R296). -/
def execBtry (a b d : BitVec 5) (s : State) : Out :=
  if memoryBlocked s || !roomL s then s.stall
  else withObject (s.srcS a) s fun o =>
    s.issueLogged 0 1 [0] (objAccess (.btry d.toNat ((s.srcS b).getLsbD 0)) o (s.srcS a) false true) fun t => (t.addL 1).ok

/-- BARRIER_POLL: a waiter past the tracked objects reads its object again (R298): it goes on when the phase
has changed, and raises BARRIER_CLOBBERED when VAL is 0 or when PHNO has changed with PH at its parity. -/
def execEvBarrierPoll (s : State) : Out :=
  .next (match s.warp.park with
    | .barrier o par off pc (some n) =>
      if !s.objVal o then s.onWarp fun w => w.wakeWithTrap causeBarrierClobbered off 0 pc
      else if s.objPh o ≠ par then s.onWarp Warp.wake
      else if s.objWord o 3 ≠ n then s.onWarp fun w => w.wakeWithTrap causeBarrierClobbered off 0 pc
      else s
    | _ => s)

/-! ## Events of the memory pipe -/

/-- A TBLLOAD waits while a chain, or a span that is running or awaits its verdict, is bound to the bank it
would overwrite, or a matrix entry to its log table (R333, R421). -/
def bankBusy (s : State) (ctx : Nat) (bit : Nat) : Bool :=
  let target := !(s.ctx ctx).bank.getLsbD bit
  (s.clusters.any fun c => c.2.engine.any fun j => match j.job with
    | .chain _ _ b => j.binds && j.ctx == ctx && b.getLsbD bit == target
    | _ => false)
  || (bit == 8 && s.cores.any fun c => c.2.mq.any fun e => e.ctx == ctx && e.bank == some target)
  || (s.votes.any fun v => v.ctx == ctx && v.bank.getLsbD bit == target)
  || (s.allWarps.any fun w => w.ctx == ctx && w.regs.chkrole != 0 && w.uid != s.warp.uid && w.span.bank.getLsbD bit == target)

/-- Where a bank of a table lies in its context's table image, and its words there in pieces of 16 bytes or fewer: the function
tables by number and bank, then the log tables (R419). DESIGN CHOICE (log 26). -/
def imagePieces (tblimg tid : Nat) (log bank : Bool) (ws : List Word) : List (Nat × List Byte) :=
  let k := if bank then 1 else 0
  let at_ := tblimg + if log then 16 * 4112 + 8 * k else (2 * tid + k) * 4112
  (List.range ((ws.length + 3) / 4)).map fun i => (at_ + 16 * i, bytesOfWords ((ws.drop (4 * i)).take 4))
/-- A function or log table written into its inactive bank, which the context's table image holds too; an image that cannot be
reached tears the context down (R419, R421, R447). DESIGN CHOICE (log 26). -/
def loadTable (tid : Nat) (log : Bool) (ws : List Word) (s : State) : State :=
  let ctx := s.warp.ctx
  let bank := !(s.ctx ctx).bank.getLsbD (if log then 8 else tid)
  let img := (s.ctx ctx).tblimg.toNat
  let s := if img = 0 then s else s.writeOrTearDown ctx (imagePieces img tid log bank ws)
  if log then
    let t : LogTab := Vector.ofFn fun i => (ws.getD (i.val / 2) 0).extractLsb' (16 * (i.val % 2)) 16
    s.onCtx ctx fun c => if bank then { c with log1 := t } else { c with log0 := t }
  else
    let base := (2 * tid + (if bank then 1 else 0)) * 1028
    s.onCtx ctx fun c => { c with fn := ws.zipIdx.foldl (fun m q => SMap.put m (base + q.2) q.1) c.fn }

/-- LOAD_RETURN: the `k`-th outstanding operation of the focus warp that counts in L is performed, or a part
of its lanes, where the preserved pairs let it, and its results reach their destination (R265, R283, R296, R312, R421). -/
def execEvLoadReturn (s : State) : Out :=
  let k := s.ev.k
  let lower (t : State) : State := t.addL (-1)
  .next (match s.warp.out[k]? with
    | none => s
    | some a =>
      match a.kind with
      | .load _ _ _ | .sload _ =>
        if a.lanes.isEmpty then s.landAt k a lower
        else if s.canPerform k then
          match s.sentBack a (s.chosen k a) with
          | some h => s.parkFar a h
          | none =>
            let (t, b) := s.readLanes k a
            t.landAt k b lower
        else s
      | .btry _ par =>
        if a.lanes.isEmpty then s.landAt k a lower
        else if s.canPerform k && !(s.chosen k a).isEmpty then
          match a.lanes with
          | ⟨_, _, va, ⟨.sram o, _, _⟩ :: _, _, _, _, _, _, _, _⟩ :: _ =>
            let (s, ls) := s.touchLanes (s.warp.agentOf a) a.lanes
            let read (v : Word) (t : State) : State :=
              let hz := ls.any fun l => l.hazard
              let v := if hz then t.freeWord else v
              (if hz then t.tick else t).landAt k { a with lanes := [], got := [(0, [v])], due := [0] } lower
            if s.objVal o then read (if s.objPh o ≠ par then 1 else 0) s
            else read 0 (s.latch (s.warp.agentOf a) causeBarrierInvalid (BitVec.ofNat 32 (va - ownBase)) 4)
          | _ => s
        else s
      | .scalar _ v => s.landAt k (if a.got.isEmpty then { a with got := [(0, [v])], due := [0] } else a) lower
      | .tblload tid log =>
        let earlier := (s.warp.out.take k).any fun e => e.kind == .tblload tid log
        if s.canPerform k && !earlier && !bankBusy s s.warp.ctx (if log then 8 else tid) then
          let (t, b) := s.readLanes k a
          if b.lanes.isEmpty then
            let ws := (List.range b.got.length).flatMap fun i => (b.got.lookup (4 * i)).getD []
            let u := loadTable tid log ws t
            if u.warp.park = .vacant then u else (u.finish k).addL (-1)
          else t.onAccess k fun _ => b
        else s
      | _ => s)

/-- An operation on a barrier object in own scratch performed (R295); where the object lies in a region of a matrix entry
in flight, its bytes are free (R173). -/
def onObject (ag : Agent) (a : Access) (f : Nat → State → State) (s : State) : State :=
  match a.lanes with
  | ⟨_, _, _, ⟨.sram o, _, _⟩ :: _, _, _, _, _, _, _, _⟩ :: _ =>
    let (t, ls) := s.touchLanes ag a.lanes
    let u := f o t
    if ls.any fun l => l.hazard then { u.tick 16 with sram := u.sram.writeBytes o (u.freeBytes 16) } else u
  | _ => s
/-- A failure of an operation on an object latched, with the function's number (R295 to R297). -/
def latchObject (ag : Agent) (a : Access) (fn : Word) (r : State × Option Nat) : State :=
  match r with
  | (t, some c) => t.latch ag c (BitVec.ofNat 32 (((a.lanes.head?.map (·.va)).getD 0) % sramSize)) fn
  | (t, none) => t

/-- The data of some entries of a store written: held in the version store, or where their lines may be written (R229, R327). -/
def storeLanes (k : Nat) (a : Access) (ls : List LaneAcc) (s : State) : State :=
  let ag := s.warp.agentOf a
  let asked := physLines ls
  let (t, ls) := if ag.role = 0 then s.grantLanes (s.warp.user a) ls else (s, ls)
  let (t, ls) := t.touchLanes ag ls
  let (t, ls) := t.freeData ls
  let u := t.performStores ag a ls
  let after := ls.map fun l => { l with seen := (t.part l).foldl (fun m i => SMap.put m i 0) l.seen }
  let done := after.filter fun l => l.seen.length == l.width
  let rest := (a.lanes.map fun l => match after.find? fun x => x.key == l.key with
      | some x => { l with seen := x.seen }
      | none => l).filter fun l => !(done.any fun x => x.key == l.key)
  let left := physLines rest
  let sent (a : Access) : List Nat := if ag.role = 0 ∧ a.kind ≠ .discard then (a.sent ++ asked).eraseDups.filter left.contains else []
  if rest.isEmpty then (u.finish k).addS (-1) else u.onAccess k fun a => { a with lanes := rest, waits := false, sent := sent a }

/-- The effect of an operation that counts in S, `ls` the entries that the event performs. -/
def performS (k : Nat) (a : Access) (ls : List LaneAcc) (s : State) : State :=
  let ag := s.warp.agentOf a
  let done (t : State) : State := (t.finish k).addS (-1)
  match a.kind with
  | .store _ _ | .sstore | .discard | .deposit => storeLanes k a ls s
  | .binit n => done (s |> onObject ag a fun o t =>
      let t := t.clobber o 16
      (((t.setObj o 0 (BitVec.ofNat 32 (2 ^ 31 + n))).setObj o 1 (BitVec.ofNat 32 n)).setObj o 2 0).setObj o 3 0)
  | .barrive peer =>
    if peer then
      let va := ((a.lanes.head?.map (·.va)).getD peerBase) - peerBase
      let (t, ls) := s.touchLanes ag a.lanes
      let u := t.escape.peerArrive ag (va / sramSize) (va % sramSize)
      done (ls.foldl (fun u l => l.pieces.foldl (fun u p => u.spoilObject l.hazard p) u) u)
    else done (s |> onObject ag a fun o t => latchObject ag a 1 (t.arrive o))
  | .bexpect n => done (s |> onObject ag a fun o t => latchObject ag a 2 (t.expectBytes o (BitVec.ofNat 32 n)))
  | .binval => done (s |> onObject ag a fun o t => (t.clobber o 16).setObj o 0 (t.objWord o 0 &&& 0x7FFFFFFF))
  | .wback => done (s.cleanLines (physLines a.lanes))
  | _ => s

/-- A held store tried: it is performed when the version store has room, under RELEASE after committing the
oldest spans; else it waits (R328, R330). -/
def holdStore (k : Nat) (a : Access) (s : State) : State :=
  let ls := s.storesNow k a
  match s.makeRoomFor (s.warp.agentOf a) (if a.kind = .wback then [] else physLines ls) with
  | (t, true) => if ls.isEmpty ∧ ¬ a.lanes.isEmpty then t else performS k a ls t
  | (t, false) => t.onAccess k fun a => { a with waits := true }

/-- STORE_PERFORMED: the `k`-th outstanding operation of the focus warp that counts in S is performed or held,
where the preserved pairs let it (R265, R283, R286, R322). -/
def execEvStorePerformed (s : State) : Out :=
  .next (match s.warp.out[s.ev.k]? with
    | some a => if !a.waits && s.canPerform s.ev.k then holdStore s.ev.k a s else s
    | none => s)

/-- HELD_STORE: a held store that waits is accepted once there is room (R328, R330). -/
def execEvHeldStore (s : State) : Out :=
  .next (match s.warp.out[s.ev.k]? with
    | some a => if a.waits then holdStore s.ev.k a s else s
    | none => s)

end Sys2Proof.Machine
end

