-- ==== Sys2Proof/Machine/Wait.lean ====
section
/-! DEFINITION. WAITC, block and group barriers, EXIT and YIELD (R127, R130 to R132, R413, R414, R430, R431),
and the group-table reads GRPRD. -/

namespace Sys2Proof.Machine

/-! ## WAITC (R430, R431) -/

/-- Whether the counters before the group are at or below the limits. -/
def withinLimits (c : Counters) (l s y m a : BitVec 5) : Bool :=
  decide (c.l.toNat ≤ l.toNat) && decide (c.s.toNat ≤ s.toNat) && decide (c.c.toNat ≤ y.toNat)
    && decide (c.m.toNat ≤ m.toNat) && decide (c.a.toNat ≤ a.toNat)
/-- The entries in flight before the group but for the last `n`. -/
def covered (flights : List MEntry) (first n : Nat) (e : MEntry) : Bool :=
  let old := flights.filter fun f => decide (f.id < first)
  (old.take (old.length - n)).any fun f => f.id == e.id

/-- WAITC: a latched trap in its place; the counters within their limits; else a blocking point where it
waits on a far load or a held store, and a stall otherwise. -/
def execWaitc (l r y m a : BitVec 5) (s : State) : Out :=
  let c := s.snap.cnt
  s.takeLatch <|
    if withinLimits c l r y m a then
      s.cover (covered s.warp.flights s.grp.entry m.toNat) fun t => t.ok
    else if l.toNat < c.l.toNat ∧ s.warp.out.any (fun x => x.far && x.kind.loads) then s.parkAtIssue (.far [])
    else if r.toNat < c.s.toNat ∧ s.warp.out.any (fun x => x.waits) then s.parkAtIssue .held
    else s.stall

/-! ## Block and group barriers (R131, R132) -/

/-- How both barriers issue: a checked span ends with the arrival last; otherwise the warp parks and
arrives, as a release, once its accesses are performed. -/
def barrierIssue (c : Closing) (p : Park) (s : State) : Out :=
  if s.snap.chkrole ≠ 0 then (s.closeSpan c none).ok
  else
    let t := s.advance.onWarp fun w => { w with park := p, arriving := true }
    .next (t.tryArrive t.warp.uid)

/-- BSYNC (R131, R132). -/
def execBsync (s : State) : Out :=
  if s.warp.stack.any (fun e => e.deferred) then takeTrap causeIllegalConvergence s.depth 0 s
  else barrierIssue .bsync .bsync s

/-- GSYNC (R131, R132). -/
def execGsync (g : BitVec 8) (s : State) : Out :=
  let gr := s.grid s.warp.grid
  if s.warp.stack.any (fun e => e.deferred) then takeTrap causeIllegalConvergence s.depth 0 s
  else if ¬ gr.launch.coop ∨ gr.groups.length ≤ g.toNat then takeTrap causeGroupId (g.setWidth 32) 0 s
  else if ¬ (gr.groups.getD g.toNat []).contains (s.linearBlock s.warp) then takeTrap causeGroupNotMember (g.setWidth 32) 0 s
  else barrierIssue (.gsync g.toNat) (.gsync g.toNat) s

/-! ## YIELD and EXIT (R127, R130) -/

/-- YIELD parks where a switch is pending or its gang is being moved. -/
def execYield (s : State) : Out :=
  if s.snap.chkrole.toNat < 2 ∧ ((s.ctx s.warp.ctx).switchPending ∨ (s.gang s.warp.gang).moved) then
    .next (s.advance.onWarp fun w => { w with park := .yield, held := true })
  else s.ok

/-- EXIT stops the warp, which then waits for its counters; in a checked block its span ends first. -/
def execExit (s : State) : Out :=
  if s.snap.chkrole ≠ 0 then (s.closeSpan .exit none).ok
  else .next (s.advance.onWarp fun w => { w with park := .exiting })

/-- The latch index of a cause (R391). -/
def latchIndex (cause : Nat) : Nat :=
  match cause with
  | 25 => 1
  | 30 => 2
  | 31 => 3
  | 34 => 4
  | 35 => 5
  | 38 => 6
  | 39 => 7
  | 40 => 8
  | 41 => 9
  | 45 => 10
  | 47 => 11
  | _ => 0

/-- The record of a warp that exits with a latch set (R391, R426). -/
def State.exitRecord (s : State) (w : Warp) : State :=
  match w.latch with
  | none => s
  | some l =>
    s.report (s.gridRec w.grid (if latchIndex l.cause = 1 then 3 else 21) 1
      (l.address ++ [BitVec.ofNat 32 (latchIndex l.cause), 0, 0] ++ s.warpWords w))

/-- A gang whose warps have all exited: its segments are freed and RETIRED goes up the command link (R127,
R361). -/
def State.retireGang (s : State) (h : Nat) : State :=
  let g := s.gang h
  if s.allWarps.any fun w => w.gang == h && w.park != .vacant && w.park != .exited && w.regs.chkrole.toNat < 2 then s
  else if g.phase = .retired then s
  else
    let gone (w : Warp) : Bool := w.gang == h && w.park == .exited
    let places := (s.warps.filter gone).map Warp.placeOnly
    let s := (s.freeSegments h).onGang h fun g => { g with phase := .retired, segs := [], image := [], imageJobs := [] }
    { s with
      warp := s.warp.vacate gone
      others := s.others.filter fun w => !gone w }.post
        { cluster := g.cluster, kind := .retired, gang := h, places := places, segs := g.segs }

/-- A warp ends (R127, R131): its loads are discarded, its latch is reported, it counts as arrived at the
barriers of its block, and its gang may retire. -/
def State.endWarp (s : State) (w : Warp) : State :=
  let b := s.linearBlock w
  let s := s.exitRecord w
  let s := s.onUid w.uid fun x => { x with park := .exited, out := [], flights := [], stale := [] }
  let s := (s.onGrid w.grid fun g => { g with exited := SMap.upd g.exited b 0 (· + 1) }).openBsync w.grid b
  let groups := (s.grid w.grid).groups
  let s := (List.range groups.length).foldl (fun s i => if (groups.getD i []).contains b then s.openGsync w.grid i else s) s
  s.retireGang w.gang

/-- EXIT_COMPLETE: the exiting warp in the focus ends once its counters S, C, M and A are 0 (R127). -/
def execEvExitComplete (s : State) : Out :=
  let c := s.warp.regs.cnt
  .next (if s.warp.park = .exiting ∧ c.s = 0 ∧ c.c = 0 ∧ c.m = 0 ∧ c.a = 0 then s.endWarp s.warp else s)

/-! ## Group-table reads (R414) -/

/-- An entry of the group table, or GROUP_ID. -/
def withGroup (a : BitVec 5) (s : State) (k : List Nat → Out) : Out :=
  let gr := s.grid s.warp.grid
  let g := s.srcS a
  if ¬ gr.launch.coop ∨ gr.groups.length ≤ g.toNat then takeTrap causeGroupId (g &&& 0xFF) 0 s
  else k (gr.groups.getD g.toNat [])

/-- GRPRD.CNT (R414). -/
def execGrprdCnt (d a : BitVec 5) (s : State) : Out :=
  withGroup a s fun ms => (s.setS d (BitVec.ofNat 32 ms.length)).ok
/-- GRPRD.MEM (R414). -/
def execGrprdMem (d a b : BitVec 5) (s : State) : Out :=
  withGroup a s fun ms => (s.setS d (match ms[(s.srcS b).toNat]? with
    | some m => BitVec.ofNat 32 m
    | none => 0xFFFFFFFF)).ok
/-- GRPRD.SELF (R414). -/
def execGrprdSelf (d a : BitVec 5) (s : State) : Out :=
  withGroup a s fun ms => (s.setS d (if ms.contains (s.linearBlock s.warp) then 1 else 0)).ok

end Sys2Proof.Machine
end

