-- ==== Sys2Proof/Machine/Cache.lean ====
section
/-! DEFINITION. Cache operations, segment modes, deposits and the table instructions (R207, R309 to R314,
R378, R421, R422). -/

namespace Sys2Proof.Machine

/-! ## Ranges of lines (R310) -/

/-- The range of PREF, WBACK and DISCARD, or COPY_OPERAND. -/
def lineRange (a : BitVec 4) (b : BitVec 5) (s : State) (k : Nat → Nat → Out) : Out :=
  let va := (s.srcPair a).toNat
  let n := (s.srcS b).toNat
  let bad (reason v : Nat) : Out := takeTrap causeCopyOperand (BitVec.ofNat 32 reason) (BitVec.ofNat 32 v) s
  if va % 128 ≠ 0 then bad 1 va
  else if n % 128 ≠ 0 ∨ n < 128 ∨ 2 ^ 24 < n then bad 1 n
  else if ownBase < va + n then bad 2 va
  else k va n

/-- The pages of a range: address and length of each part. -/
def rangeParts (va n : Nat) : List (Nat × Nat) :=
  (List.range ((va + n - 1) / 4096 - va / 4096 + 1)).map fun i =>
    let lo := max va ((va / 4096 + i) * 4096)
    (lo, min (va + n) ((va / 4096 + i + 1) * 4096) - lo)
/-- A range translated as a store's, or how the instruction ends. -/
def withRange (va n : Nat) (write : Bool) (s : State) (k : List Piece → Out) : Out :=
  match translatePieces s true (rangeParts va n) with
  | .ok ps =>
    match if write then stableHit s [(0, ps)] else none with
    | some (va, i) => takeTrap causeStableViolation (adr0 va) (adr1 va ||| BitVec.ofNat 32 (i * 2 ^ 21)) s
    | none => k ps
  | .bad c i0 i1 => takeTrap c i0 i1 s
  | .service va => parkFault va 1 s
  | .waitGang h => s.parkAtIssue (.far [h])

/-- The entries of translated pages, one for each line of a range. -/
def lineLanes (ps : List Piece) (va n : Nat) (data : Nat → List Word) : List LaneAcc :=
  (lineParts va n).filterMap fun q => (ps.find? fun p => decide (p.va ≤ q.2.1) && decide (q.2.1 < p.va + p.len)).bind fun p =>
    match p.loc with
    | .phys a => some { lane := q.1, va := q.2.1, pieces := [⟨.phys (a + (q.2.1 - p.va)), q.2.1, q.2.2⟩], data := data q.2.2 }
    | _ => none

/-- PREF asks for each line that translates, for the cluster cache or with H = 3 for the L2 alone with the default class,
and changes no value and no counter (R310). DESIGN CHOICE (log 30). -/
def execPref (a : BitVec 4) (b : BitVec 5) (h : BitVec 2) (s : State) : Out :=
  let u := if h = 3 then poolUser s.warp.cluster s.warp.ctx 1 else clusterUser s.warp.cluster s.warp.ctx h
  if memoryBlocked s then s.stall else lineRange a b s fun va n =>
    ((lineParts va n).foldl (fun s q => match s.translate s.warp.ctx q.2.1 .read with
      | .phys p => (s.askRead u (p / 128)).1
      | _ => s) s).ok

/-- WBACK counts in S until every line is clean (R310). -/
def execWback (a b : BitVec 5) (s : State) : Out :=
  if memoryBlocked s || !roomS s then s.stall
  else lineRange (a.toNat / 2) b s fun va n => withRange va n false s fun ps =>
    ((s.addAccess { kind := .wback, lanes := [{ lane := 0, va := va, pieces := ps }] }).addS 1).ok

/-- DISCARD writes zero to every byte of the range; it is folded and held as stores of zero words (R310,
R324). -/
def execDiscard (a b : BitVec 5) (s : State) : Out :=
  if memoryBlocked s || !roomS s then s.stall
  else lineRange (a.toNat / 2) b s fun va n => withRange va n true s fun ps =>
    let rs := [(0, ps)]
    if fabricStopped s rs ∧ s.snap.chkrole.toNat < 2 then s.parkAtIssue .fabric
    else
      let ls := lineLanes ps va n fun k => List.replicate (k / 4) 0
      ((((s.noteAll .write rs).foldLanes ls).addAccess { kind := .discard, far := anyFar rs, lanes := ls }).addS 1).ok

/-! ## Segment modes (R207, R311, R312) -/

/-- A logical segment of the warp's gang, or SCRATCH_RANGE with the offset of its first byte. -/
def withSegment (v : Word) (s : State) (k : Nat → Out) : Out :=
  match (s.gang s.warp.gang).segs[v.toNat]? with
  | some seg => k seg
  | none => takeTrap causeScratchRange (v <<< 18) s.freeWord s.tick

/-- The mode of a MODE field. -/
def segModeOf (m : Nat) : SegMode :=
  match m with
  | 0 => .cache
  | 1 => .scratch
  | _ => .fifo

/-- BANKCFG asks for the change; the warp issues no MEMORY word until it is complete (R311). -/
def execBankcfg (a : BitVec 5) (m : BitVec 2) (s : State) : Out :=
  if s.snap.chkrole ≠ 0 then takeTrap causeCheckedForbidden 3 0 s
  else if memoryBlocked s then s.stall
  else withSegment (s.srcS a) s fun seg =>
    let change : SegChange := { segment := seg, mode := segModeOf m.toNat, warp := some s.warp.uid, stamp := s.nextEntry }
    ({ s with nextEntry := s.nextEntry + 1 }.onCluster s.warp.cluster fun c => { c with changes := c.changes ++ [change] }).ok

/-- BANKQ gives the peer-window offset of a logical segment at the gang's first placement (R312). -/
def execBankq (a d : BitVec 5) (s : State) : Out :=
  if memoryBlocked s || !roomL s then s.stall
  else withSegment (s.srcS a) s fun _ =>
    let g := s.gang s.warp.gang
    let v := BitVec.ofNat 32 ((g.firstCluster.getD 0) * 2 ^ 23 + (g.firstSegs.getD (s.srcS a).toNat 0) * 2 ^ 18)
    s.issueLogged 0 1 [0] { kind := .scalar d.toNat v } fun t => (t.addL 1).ok

/-- Memory without the bytes of a range: they read 0. -/
def Memory.clearRange (m : Memory) (a n : Nat) : Memory := m.filter fun c => !(decide (a ≤ c.1) && decide (c.1 < a + n))

/-- Whether a piece lies in a segment of a cluster. -/
def pieceIn (cl seg : Nat) (p : Piece) : Bool :=
  match p.loc with
  | .sram a => a / segSize == cl * 32 + seg
  | .fifo c k => c == cl && k == seg
  | _ => false

/-- A segment's mode changed (R207, R311): pops parked on it raise FIFO_ACCESS, barrier waiters in it are
clobbered, matrix entries that name it are touched, the lanes and bytes in it of accesses and copies in flight across the
change get undefined values, the lines of a way are given back, and the new mode opens empty. -/
def State.setSegMode (s : State) (cl seg : Nat) (m : SegMode) : State :=
  let lo := sramAddr cl seg 0
  let s := (s.mapWarps fun w =>
    if w.park = .fifo seg ∧ w.cluster = cl then w.wakeWithTrap causeFifoAccess s.freeWord (Config.freeWord (s.fresh + 1)) w.pc
    else w).tick 2
  let s := s.clobber lo segSize
  let hit (e : MEntry) : Bool := (e.reads ++ e.writes).any fun r => !r.global && r.spans.any fun p =>
    let g := s.gang e.gang
    g.cluster == cl && (g.segOf p.1 == some seg || g.segOf (p.1 + p.2 - 1) == some seg)
  let s := s.markHazard hit
  let s := s.mapWarps fun w => { w with out := w.out.map fun (a : Access) =>
    { a with lanes := a.lanes.map fun (l : LaneAcc) => (if l.next.any (pieceIn cl seg) then { l with hazard := true } else l) } }
  let k := cl * 32 + seg
  let inFlight := s.clusters.flatMap fun c => c.2.engine
  let wrote := inFlight.flatMap fun j => s.jobWrites j k
  let hurt (j : EngineJob) : Bool := !(s.jobReads j k).isEmpty || !(s.jobWrites j k).isEmpty
  let s := if inFlight.any hurt then { s with clusters := s.clusters.mapVal fun c => { c with
    engine := c.engine.map fun (j : EngineJob) => if hurt j then { j with spoilt := k :: j.spoilt } else j } } else s
  let s := if (s.segment cl seg).mode = .cache then s.closeWay cl else s
  let s := { s with sram := s.sram.clearRange lo segSize }.onSegment cl seg fun g => { g with mode := m, fifo := [], head := 0 }
  if m = .scratch then wrote.foldl (fun s q => (s.tick q.2).writeSram q.1 (s.freeBytes q.2)) s else s

/-- SEGMENT_MODE_CHANGE: change `m` of cluster `k` completes, once the accesses issued before it, with the cluster's
outstanding misses where the segment is a way of its cache, every access of its own warp, and its gang's copies there but for
those that a switch holds, have been performed; with `b`
the driver asks the leaf for a change of segment `n` to mode `v`, which no gang may have claimed (R207). -/
def execEvSegmentModeChange (s : State) : Out :=
  let cl := s.ev.k
  .next (if s.ev.b then
    if s.ev.n < 32 ∧ ¬ (s.segment cl s.ev.n).claimed then
      let change : SegChange := { segment := s.ev.n, mode := segModeOf s.ev.v.toNat, stamp := s.nextEntry }
      { s with nextEntry := s.nextEntry + 1 }.onCluster cl fun c => { c with changes := c.changes ++ [change] }
    else s
  else match (s.cluster cl).changes[s.ev.m]? with
    | none => s
    | some c =>
      let mine := match c.warp with
        | some u => match s.warpOf u with
          | some w => w.out.any fun a => decide (a.stamp < c.stamp) && !a.over
          | none => false
        | none => false
      let older := s.allWarps.any fun w => w.out.any fun a =>
        decide (a.stamp < c.stamp) && a.lanes.any fun l => l.left.any (pieceIn cl c.segment)
      let missing := (s.segment cl c.segment).mode == .cache && s.cohReqs.any fun q => q.holder == cl
      let gang := ((c.warp.bind s.warpOf).map (·.gang)).getD 0
      let copying := c.warp.isSome && s.clusters.any fun k => k.2.engine.any fun j =>
        j.node.isNone && j.gang == gang && decide (j.stamp < c.stamp) && !j.stopped && !s.jobHeld j
          && (!(s.jobReads j (cl * 32 + c.segment)).isEmpty || !(s.jobWrites j (cl * 32 + c.segment)).isEmpty)
      if mine || older || missing || copying then s
      else if c.warp.isNone ∧ (s.segment cl c.segment).claimed then
        s.onCluster cl fun k => { k with changes := k.changes.eraseIdx s.ev.m }
      else (s.setSegMode cl c.segment c.mode).onCluster cl fun k => { k with changes := k.changes.eraseIdx s.ev.m })

/-- ARRIVAL_LOG_APPEND: the `k`-th outstanding operation of the focus warp, aimed at a saved gang, is
appended to the context's arrival log, and S falls (R378, R379). -/
def execEvArrivalLogAppend (s : State) : Out :=
  match s.warp.out[s.ev.k]? with
  | some a =>
    if (s.sentBack a a.lanes).isSome && a.kind.writes then execEvStorePerformed s else .next s
  | none => .next s

/-! ## DEPOSIT (R313, R314) -/

/-- The 48 bytes of a lane's record as words. -/
def depositWords (s : State) (d a lane : Nat) : List Word :=
  let w := s.warp
  let r := w.regs
  let key := laneAt (s.srcV a) lane &&& 0xFFFF
  (List.range 4).map (fun i => laneAt (s.srcV (d + i)) lane) ++
    [key ||| BitVec.ofNat 32 (lane * 2 ^ 16 + r.wid.toNat * 2 ^ 24 + r.gangrank.toNat * 2 ^ 29), w.depositSeq,
     r.bidx, r.bidy, r.bidz, 0, 0, 0]

/-- The physical address of the first of some translated pieces. -/
def firstPhys (ps : List Piece) : Nat :=
  match ps with
  | ⟨.phys a, _, _⟩ :: _ => a
  | _ => 0

/-- The slots of a DEPOSIT: taken from the area's free ones at the pool of the die, once it may write the area's header (R229),
or in a shadow or tiebreak those its primary reserved; with the state after, or the trap. -/
def withSlots (n : Nat) (s : State) (k : List Nat → State → Out) : Out :=
  let gr := s.grid s.warp.grid
  let area := gr.launch.darea
  let trap (cause remain : Nat) : Out := takeTrap cause (BitVec.ofNat 32 n) (BitVec.ofNat 32 remain) s
  if gr.launch.cont = 0 ∨ area = 0 then trap causeDepositNone 0
  else if 2 ≤ s.snap.chkrole.toNat then
    if s.warp.span.slots.length < n then .next s.stopRun
    else k (s.warp.span.slots.take n) (s.onWarp fun w => { w with span := { w.span with slots := w.span.slots.drop n } })
  else
    match translatePieces s true [(area, 8)] with
    | .bad c i0 i1 => takeTrap c i0 i1 s
    | .service va => parkFault va 1 s
    | .waitGang h => s.parkAtIssue (.far [h])
    | .ok ps =>
      let pa := firstPhys ps
      let cap := s.mem.readNat pa 4
      match s.askWrites (poolUser s.warp.cluster s.warp.ctx 1) (linesOf pa 8) with
      | (t, false) => t.stall
      | (s, true) =>
      if cap < gr.slotsUsed + n then takeTrap causeDepositFull (BitVec.ofNat 32 n) (BitVec.ofNat 32 (cap - gr.slotsUsed)) s
      else
        let slots := (List.range n).map (gr.slotsUsed + ·)
        let t := (s.onGrid s.warp.grid fun g => { g with slotsUsed := g.slotsUsed + n }).writePhys s.warp.ctx
          (some s.warp.die) (pa + 4) (bytesOfNat 4 (gr.slotsUsed + n))
        k slots (t.onWarp fun w => if w.regs.chkrole = 1 then { w with span := { w.span with slots := w.span.slots ++ slots } } else w)

/-- DEPOSIT (R313, R314). With EXEC = 0 it makes no access (R281). -/
def execDeposit (d : BitVec 4) (a : BitVec 6) (s : State) : Out :=
  let d := 4 * d.toNat
  let lanes := (allLanes.filter fun l => s.exec.getLsbD l.val).map (·.val)
  s.vnames [(d, 4), (a.toNat, 1)] <|
    let seq (t : State) : State := t.onWarp fun w => { w with depositSeq := w.depositSeq + 1 }
    if memoryBlocked s then s.stall
    else if s.exec = 0 then (seq s).ok
    else if !roomS s then s.stall
    else withSlots lanes.length s fun slots t =>
      let recs := (lanes.zip slots).map fun q => (q.1, (s.grid s.warp.grid).launch.darea + 64 + 48 * q.2)
      match translatePieces s true (recs.flatMap fun q => pageParts q.2 48) with
      | .bad c i0 i1 => takeTrap c i0 i1 s
      | .service va => parkFault va 1 s
      | .waitGang h => s.parkAtIssue (.far [h])
      | .ok ps =>
        match stableHit s [(0, ps)] with
        | some (va, i) => takeTrap causeStableViolation (adr0 va) (adr1 va ||| BitVec.ofNat 32 (i * 2 ^ 21)) s
        | none =>
          if fabricStopped s [(0, ps)] then s.parkAtIssue .fabric else
          let ls : List LaneAcc := recs.map fun q =>
            { lane := q.1
              va := q.2
              data := depositWords s d a.toNat q.1
              pieces := ps.filter fun p => decide (q.2 ≤ p.va) && decide (p.va < q.2 + 48) }
          let u := lanes.foldl (fun u l =>
            ((List.range 4).foldl (fun u i => u.foldStore (laneAt (s.srcV (d + i)) l) 0) u).foldStore (laneAt (s.srcV a.toNat) l) 0) t
          (((seq u).addAccess { kind := .deposit, far := anyFar [(0, ps)], lanes := ls }).addS 1).ok

/-! ## Tables (R421, R422) -/

/-- TBLLOAD of a function table or the log table: its checks, then L rises; a shadow or tiebreak neither
reads nor loads. -/
def issueTblload (a : BitVec 4) (tid : Nat) (log : Bool) (s : State) : Out :=
  let va := (s.srcPair a).toNat
  let n := if log then 8 else 4112
  if !roomL s then s.stall
  else if ownBase < va + n then takeTrap causeAddressWindow (adr0 va) (adr1w va) s
  else if va % 64 ≠ 0 then takeTrap causeMisaligned (adr0 va) (adr1 va) s
  else match translatePieces s false (rangeParts va n) with
    | .bad c i0 i1 => takeTrap c i0 i1 s
    | .service va => parkFault va 0 s
    | .waitGang h => s.parkAtIssue (.far [h])
    | .ok ps =>
      if 2 ≤ s.snap.chkrole.toNat then s.ok
      else if fabricStopped s [(0, ps)] then s.parkAtIssue .fabric
      else
        let acc : Access := { kind := .tblload tid log, far := anyFar [(0, ps)]
                              lanes := lineLanes ps va n fun _ => [] }
        (((s.noteAll .read [(0, ps)]).addAccess acc).addL 1).ok
/-- TBLLOAD (R421). -/
def execTblload (a : BitVec 4) (t : BitVec 3) (s : State) : Out := issueTblload a t.toNat false s
/-- TBLLOAD.LOG (R421). -/
def execTblloadLog (a : BitVec 4) (s : State) : Out := issueTblload a 0 true s

/-- TBLSWAP: once the warp's earlier TBLLOADs have written their banks, the masked banks change over and
GEN advances, for the whole context at once (R422). -/
def execTblswap (l : BitVec 1) (m : BitVec 8) (s : State) : Out :=
  if 2 ≤ s.snap.chkrole.toNat then s.ok
  else if s.warp.out.any (fun a => match a.kind with
    | .tblload _ _ => true
    | _ => false) then s.stall
  else (s.onCtx s.warp.ctx fun c => { c with bank := c.bank ^^^ (l ++ m), gen := c.gen + 1 }).ok

end Sys2Proof.Machine
end

