-- ==== Sys2Proof/Machine/Errors.lean ====
section
/-! DEFINITION. Errors and their containment (R406 to R411): the error logs (R424), windows and thresholds
(R436 to R439), retirement and quarantine, and the groups that are replayed (R404, R405). -/

namespace Sys2Proof.Machine

/-! ## Where an error is (R22, R222, R424) -/

/-- The place of a physical word in HBM4 or DDR-5, the unit by its number (R21). A DDR-5 word is logged in the table of
the home die of its line, not of BD0, whose the controllers are. DESIGN CHOICE (log 36). -/
def memPlace (pa : Nat) : ErrPlace :=
  let x := pa / 128
  if pa < 2 ^ 40 then ⟨homeDie x, 5, 5, homeDie x * 4 + Config.stackHash x % 4, pa⟩
  else ⟨homeDie x, 6, 6, x / 32 % 12, pa⟩
/-- The place that an event names: unit `m` by its number (R21), entry or segment `n`, and `v` the lane, word, offset or
physical address. -/
def errPlace (level m n v : Nat) : ErrPlace :=
  match level with
  | 0 => ⟨dieOfCluster (clusterOfCore (m % 768)), 0, 1, m % 768, n % 4096 * 32 + v % 32⟩
  | 1 => ⟨dieOfCluster (clusterOfCore (m % 768)), 1, 1, m % 768, v % 2 ^ 21⟩
  | 2 => ⟨dieOfCluster (m % 192), 2, 2, m % 192, n % 32 * segSize + v % segSize⟩
  | 3 => ⟨m % 4, 3, 3, m % 4 * 64 + poolSlice (v / 128), v⟩
  | 4 => ⟨homeDie (v / 128), 4, 4, homeDie (v / 128) * 32 + homeSlice (v / 128), v⟩
  | _ => memPlace v

/-- What retirement takes out of use for a location: a pool entry, a B-store, a segment, a way that its line takes, or a
page (R438). -/
def ErrPlace.item (p : ErrPlace) : Nat × Nat :=
  match p.level with
  | 0 => (0, p.unit * 4096 + p.loc / 32)
  | 1 => (1, p.unit)
  | 2 => (2, p.unit * 32 + p.loc / segSize)
  | 3 => (3, p.loc / 128 * 4 + p.die)
  | 4 => (4, p.loc / 128 * 4 + p.die)
  | n => (n, p.loc / 4096)
/-- The location of an entry. -/
def ErrEntry.place (e : ErrEntry) : ErrPlace := ⟨e.die, e.level, e.ukind, e.unit, e.loc.toNat⟩

/-- The entry of the suspect-unit map for a unit, by its kind and number (R21, R425). -/
def suspectIndex (ukind unit : Nat) : Nat :=
  match ukind with
  | 1 => unit
  | 2 => 768 + unit
  | 3 => 960 + unit
  | 4 => 1216 + unit
  | 5 => 1344 + unit
  | 6 => 1360 + unit
  | 7 => 1372 + unit
  | 8 => 1380 + unit
  | _ => 1384 + unit

/-! ## The error logs (R424, R437) -/

def ErrEntry.isAt (e : ErrEntry) (p : ErrPlace) : Bool :=
  e.die == p.die && e.level == p.level && e.ukind == p.ukind && e.unit == p.unit && e.loc == BitVec.ofNat 64 p.loc
def ErrEntry.marked (e : ErrEntry) : Bool := e.ue || e.lasting || e.retired
/-- The table of a die and level. -/
def State.errTable (s : State) (die level : Nat) : List ErrEntry :=
  s.errors.filter fun e => e.die == die && e.level == level
/-- The place in the log of the table's unmarked entry with the oldest LAST. -/
def State.oldestEntry (s : State) (die level : Nat) : Option Nat :=
  (s.errors.zipIdx.filter fun q => q.1.die == die && q.1.level == level && !q.1.marked).foldl
    (fun (r : Option (ErrEntry × Nat)) q => match r with
      | some b => if b.1.last ≤ q.1.last then r else some q
      | none => some q) none |>.map (·.2)

/-- THRESH and WINDOW of a level (R436). -/
def State.winctl (s : State) (level : Nat) : Nat × Nat :=
  let w := (s.dev.winctl.toList.getD level 0).toNat
  (w / 2 ^ 24, w % 2 ^ 24)

/-- One more error at an entry. -/
def ErrEntry.again (e : ErrEntry) (dtb : BitVec 64) (hsec window : Nat) (ue scrub : Bool) : ErrEntry :=
  let fresh := decide (e.window + window ≤ hsec)
  { e with
    ue := e.ue || ue
    scrub := scrub
    last := dtb
    hsec := hsec
    wcnt := if ue then e.wcnt else if fresh then 1 else min 255 (e.wcnt + 1)
    window := if !ue && fresh then hsec else e.window }

/-- Whether a location is out of use before an error of it is logged. A line of L2 or L3 whose way is out of use is cached
in another. DEDUCED (log 36). -/
def State.outOfUse (s : State) (p : ErrPlace) : Bool := p.level != 3 && p.level != 4 && s.retiredUnits.contains p.item
/-- An error put in its table, or none where every entry is marked (R424). -/
def State.logEntry (s : State) (p : ErrPlace) (ue scrub : Bool) : Option State :=
  let h := s.dev.hsec.toNat
  let new : ErrEntry :=
    { die := p.die, level := p.level, ukind := p.ukind, unit := p.unit, loc := BitVec.ofNat 64 p.loc, ue := ue, scrub := scrub
      retired := s.outOfUse p
      wcnt := if ue then 0 else 1, first := s.dtb, last := s.dtb, window := h, hsec := h }
  match s.errors.findIdx? fun e => e.isAt p with
  | some i => some { s with errors := s.errors.modify i fun e => e.again s.dtb h (s.winctl p.level).2 ue scrub }
  | none =>
    if (s.errTable p.die p.level).length < 256 then some { s with errors := s.errors ++ [new] }
    else (s.oldestEntry p.die p.level).map fun i => { s with errors := s.errors.set i new }
/-- An error logged, or counted in the table's OVF. -/
def State.logError (s : State) (p : ErrPlace) (ue scrub : Bool) : State :=
  (s.logEntry p ue scrub).getD (s.onDev fun d => { d with logovf := SMap.upd d.logovf (8 * p.die + p.level) 0 fun n =>
    if n = 65535 then n else n + 1 })

/-! ## Retirement and quarantine (R411, R438) -/

/-- One more retirement at a place: its item is out of use and the entries of the item's locations read RETIRED, those that
`lasting` names LASTING too; NRET of the place's unit rises (R438). DEDUCED (log 36). -/
def State.markRetired (s : State) (p : ErrPlace) (lasting : ErrEntry → Bool) : State :=
  { s with
    errors := s.errors.map fun (e : ErrEntry) =>
      (if e.place.item = p.item then { e with lasting := e.lasting || lasting e, retired := true } else e)
    retiredUnits := if s.outOfUse p then s.retiredUnits else s.retiredUnits ++ [p.item] }.onDev fun d => { d with
      nret := SMap.upd d.nret (suspectIndex p.ukind p.unit) 0 fun n => min 65535 (n + 1) }

/-- The page of an address taken out of use: every translation to it fails, and a QUARANTINE record gives its address. A
second time within 24 hours, or where a location `at_` in it is lasting, it is never returned (R411, R438). -/
def State.quarantinePage (s : State) (a : Nat) (at_ : Option ErrPlace := none) : State :=
  let page := a / 4096
  let p := at_.getD (memPlace a)
  let pa := BitVec.ofNat 64 (page * 4096)
  let h := s.dev.hsec.toNat
  let twice := match SMap.find s.dev.quarTimes page with
    | some t => decide (h < t + 86400)
    | none => false
  let named (e : ErrEntry) : Bool := at_.any fun q => e.isAt q
  if (SMap.find s.quarantine page).isSome then (if at_.isSome then s.markRetired p named else s)
  else
    let s := { s with
      quarantine := SMap.put s.quarantine page false
      ctxs := s.ctxs.mapVal fun c => { c with tlb := c.tlb.filter fun e => decide (page < e.ppage) || decide (e.ppage + e.pages ≤ page) } }
    let s := s.onDev fun d => { d with
      quarTimes := SMap.put d.quarTimes page h
      quarDtb := SMap.put d.quarDtb page s.dtb
      quarAt := SMap.put d.quarAt page a }
    let s := s.report (unitRec 17 0 p.ukind p.unit [loHalf pa, hiHalf pa, 0])
    if at_.isSome || (twice && !s.outOfUse p) then s.markRetired p (fun e => twice || named e) else s

/-- A location retired, and its unit out of use; a line of L2 or L3 is written back with its tokens first (R248, R438). -/
def State.retirePlace (s : State) (p : ErrPlace) : State :=
  let marked (s : State) : State := s.markRetired p fun e => e.isAt p
  match p.level with
  | 0 => marked s
  | 1 => (marked s).fenceCore p.unit 0
  | 2 =>
    let g := s.segment p.unit (p.loc / segSize)
    let s := if g.mode = .cache ∧ ¬ g.claimed then s.closeWay p.unit else s
    (marked s).onSegment p.unit (p.loc / segSize) fun g => { g with retired := true }
  | 3 => marked (s.evictTok (poolOf p.die) (p.loc / 128))
  | 4 => marked (s.evictTok (homeOf p.die) (p.loc / 128))
  | _ => s.quarantinePage p.loc (some p)

/-- The SRAM voltage domain of a place: one for a cluster, one for the L2 of a die (R439). -/
def ErrPlace.domain (p : ErrPlace) : Option Nat :=
  match p.level with
  | 2 => some p.unit
  | 3 => some (192 + p.die)
  | _ => none
def State.domain (s : State) (k : Nat) : Domain := SMap.get s.dev.domains k {}
def State.onDomain (s : State) (k : Nat) (f : Domain → Domain) : State :=
  s.onDev fun d => { d with domains := SMap.upd d.domains k {} f }

/-- The level of a domain. -/
def domainLevel (k : Nat) : Nat := if k < 192 then 2 else 3
/-- SCRUBCTL of a level, and whether its patrol scrub runs (R225). -/
def State.scrubWord (s : State) (level : Nat) : Word := s.dev.scrubctl.toList.getD level 0
def State.scrubs (s : State) (level : Nat) : Bool := (s.scrubWord level).getLsbD 31
def State.putScrub (s : State) (level : Nat) (v : Word) : State :=
  s.onDev fun d => if h : level < 7 then { d with scrubctl := d.scrubctl.set level v h } else d
/-- The firmware raises the scrub rate of a level: PERIOD takes a smaller value, which no rule gives (R225, R439). -/
def State.raiseScrub (s : State) (level : Nat) : State :=
  let v := s.scrubWord level
  let p := fld v.toNat 0 24
  let q := if p < 2 then p else 1 + Config.freeChoice s.fresh % (p - 1)
  ((s.onDev fun d => { d with scrubSaved := if (SMap.find d.scrubSaved level).isSome then d.scrubSaved else SMap.put d.scrubSaved level v }).putScrub
    level (v &&& 0xFF000000 ||| BitVec.ofNat 32 q)).tick
/-- It restores the register's value when it has raised the rate of the level for no other domain (R225). -/
def State.restoreScrub (s : State) (level : Nat) : State :=
  match SMap.find s.dev.scrubSaved level with
  | some v => if s.dev.domains.any fun q => domainLevel q.1 == level && q.2.raised then s
    else (s.putScrub level v).onDev fun d => { d with scrubSaved := SMap.del d.scrubSaved level }
  | none => s

/-- A location at its threshold: retired, or in a domain below nominal re-measured one step higher (R437,
R439). DEDUCED (log 36). -/
def State.crossed (s : State) (p : ErrPlace) : State :=
  let h := s.dev.hsec.toNat
  match p.domain with
  | none => s.retirePlace p
  | some k =>
    let d := s.domain k
    let s := s.onDomain k fun d => { d with crossed := some h }
    if d.steps = 0 then s.retirePlace p
    else
      ({ s with errors := s.errors.map fun (e : ErrEntry) => (if e.isAt p then { e with wcnt := 0, window := h } else e) }.onDomain k
        fun d => { d with steps := d.steps - 1, raised := true }).raiseScrub (domainLevel k)

/-- A corrected error (R223, R437): no visible bit changes; it is logged and counted. -/
def State.corrected (s : State) (p : ErrPlace) (scrub : Bool) : State :=
  match s.logEntry p false scrub with
  | none => s.logError p false scrub
  | some t =>
    match t.errors.find? fun e => e.isAt p with
    | some e => if (t.winctl p.level).1 ≤ e.wcnt ∧ ¬ e.lasting then t.crossed p else t
    | none => t

/-! ## Containment (R406 to R410) -/

/-- Words 8 to 11 of an UNCORRECTABLE record (R426). -/
def uncorrectableWords (level : Word) (loc : Nat) (d : Bool) : List Word :=
  [level, BitVec.ofNat 32 loc, BitVec.ofNat 32 (loc / 2 ^ 32), if d then 1 else 0]
/-- A grid lost to an uncorrectable error. -/
def State.loseOwner (s : State) (g ukind unit : Nat) (detail : List Word) : State :=
  if (s.grid g).lost ∨ (s.grid g).ended then s
  else s.loseGridWith g { s.gridRec g 15 2 detail with ukind := ukind, unit := unit }
/-- An address space torn down with the record of its cause (R408, R409). -/
def State.tearDownFor (s : State) (c : Nat) (r : FaultRec) : State :=
  if (s.ctx c).phase = .none ∨ (s.ctx c).phase = .tornDown then s
  else (s.removeCtx c).report { r with ctx := c, scope := 3 }

/-- Pages that a leaf entry of a size code covers. -/
def leafPages (size : Nat) : Nat :=
  match size with
  | 0 => 1
  | 1 => 16
  | 2 => 512
  | _ => 2 ^ 18
/-- Whether the table at a level, or one below it, maps a physical page. -/
def mapsPage (m : Memory) (page : Nat) : Nat → Nat → Bool
  | level, table => (List.range 1024).any fun i =>
    let e := pte m table i
    let a := fld e 12 40
    e.testBit 0 && (if e.testBit 4 then decide (a ≤ page) && decide (page < a + leafPages (fld e 10 2))
      else match level with
        | 0 => false
        | n + 1 => mapsPage m page n (a * 4096))
/-- The contexts whose tables map a physical page. -/
def State.mappers (s : State) (page : Nat) : List Nat :=
  s.ctxs.filterMap fun c =>
    if c.2.phase ≠ .none ∧ c.2.ptroot.getLsbD 0 ∧ mapsPage s.mem page 3 (fld c.2.ptroot.toNat 12 40 * 4096) then some c.1 else none

/-- Damage in a dirty line or a memory word: every address space that maps the page is torn down, and the page
is quarantined. Where no context maps it, nothing is contained (R406). -/
def State.containPage (s : State) (p : ErrPlace) (pa : Nat) (d : Bool) : State :=
  let r : FaultRec := unitRec 15 0 p.ukind p.unit (uncorrectableWords (BitVec.ofNat 32 p.level) p.loc d)
  let cs := (s.mappers (pa / 4096)).filter fun c => (s.ctx c).phase != .tornDown
  let s := if cs.isEmpty then s.report r else cs.foldl (fun s c => s.tearDownFor c r) s
  s.quarantinePage pa

/-! ## Replay (R404, R405) -/

/-- GROUP_REPLAY: a parity error found before the focus warp's group has changed any state. The group is
fetched and issued again; after 16 in succession its grid is lost (R404, R405). -/
def execEvGroupReplay (s : State) : Out :=
  let w := s.warp
  let core := w.regs.coreid.toNat
  if w.park ≠ .ready then .next s
  else
    let s := s.onCore core fun c => { c with replaycnt := c.replaycnt + 1 }
    let s := { s with others := s.others.map (Warp.unreplayed w.regs.coreid) }.onWarp fun w => { w with
      ibuf := none
      replays := w.replays + 1
      regs := { w.regs with wstat := w.regs.wstat ||| wsREPLAYED } }
    if s.warp.replays < 16 then .next s
    else
      let s := (s.onCore core fun c => { c with limitHit := true }).charge core 16
      .next (s.loseGridWith w.grid { s.gridRec w.grid 18 2 [w.pc.word] with ukind := 1, unit := core })

/-! ## Scrubbing (R225, R411, R439) -/

/-- SCRUB_STEP: the scrubber reads one location of level `n`, and corrects the error that `b` says it found;
with `k` = 1 an access found and corrected it. No value changes and no token moves (R223, R225). -/
def execEvScrubStep (s : State) : Out :=
  let level := s.ev.n % 7
  let p := errPlace level s.ev.m s.ev.w.toNat s.ev.v.toNat
  let scrub := s.ev.k != 1
  .next (if s.ev.b && (s.scrubs p.level || !scrub) then s.corrected p scrub else s)

/-- QUARANTINE_CLEAN: the scrubber rewrites a quarantined page, given by its number, with zeros, and a second
QUARANTINE record marks it clean, when 1 ms has passed since its quarantine (R411). -/
def execEvQuarantineClean (s : State) : Out :=
  let page := s.ev.v.toNat
  .next (match SMap.find s.quarantine page with
    | some false =>
      let due := (SMap.get s.dev.quarDtb page 0).toNat + 1000000
      if s.dtb.toNat < due ∧ s.dtbLimit due < due then s
      else
      let p := memPlace (SMap.get s.dev.quarAt page (page * 4096))
      let pa := BitVec.ofNat 64 (page * 4096)
      let s := { s with
        mem := s.mem.writeBytes (page * 4096) (List.replicate 4096 0)
        memCopy := s.memCopy.filter fun q => q.1 / 32 != page
        quarantine := SMap.put s.quarantine page true
        dtb := if s.dtb.toNat < due then BitVec.ofNat 64 due else s.dtb }
      s.report (unitRec 17 0 p.ukind p.unit [loHalf pa, hiHalf pa, 1])
    | _ => s)

/-- QCLEAR: the driver returns a page to use whose clean record has been written; a lasting page is never
cleared, and any other value is ignored (R411, R438, R446). -/
def execEvQclear (s : State) : Out :=
  let page := s.ev.v.toNat / 4096
  let level := (memPlace (page * 4096)).level
  .next (if s.ev.v.toNat % 4096 = 0 ∧ SMap.find s.quarantine page = some true ∧ ¬ s.retiredUnits.contains (level, page) then
      { s with quarantine := SMap.del s.quarantine page }
    else s)

/-- ADAPTIVE_UNDERVOLTING: the firmware lowers the supply of SRAM domain `k` by one step, at most five below
nominal; after a crossing only once a whole WINDOW at nominal has passed. With `b` it restores a scrub rate that
it had raised (R225, R439). -/
def execEvAdaptiveUndervolting (s : State) : Out :=
  let k := s.ev.k % 196
  let d := s.domain k
  let window := (s.winctl (domainLevel k)).2
  let free := match d.crossed with
    | none => decide (d.steps < 5)
    | some h => decide (d.steps = 0) && decide (h + window ≤ s.dev.hsec.toNat)
  .next (if s.ev.b then (s.onDomain k fun d => { d with raised := false }).restoreScrub (domainLevel k)
    else if free then s.onDomain k fun d => { d with steps := d.steps + 1, crossed := none }
    else s)

end Sys2Proof.Machine
end

