-- ==== Sys2Proof/Machine/Coherence.lean ====
section
/-! DEFINITION. The events of token coherence (R226 to R257): a cluster's read reaches its pool, messages are delivered to
the holders of a line, persistent requests run, requests time out, and a line is recovered. -/

namespace Sys2Proof.Machine

/-! ## Deliveries: message `k` in flight, if it is of the kind -/

/-- Message `k` if it has a type, and the state without it. -/
def State.takeMsg (s : State) (type : Nat) : Option (CohMsg × State) :=
  match s.cohMsgs[s.ev.k]? with
  | some m => if m.type = type then some (m, { s with cohMsgs := s.cohMsgs.eraseIdx s.ev.k }) else none
  | none => none

/-- CLUSTER_READ: cluster `k`'s read of line `v` reaches its pool, which answers it (R246), or asks for a token where no
active entry stands in its way (R218, R235). -/
def execEvClusterRead (s : State) : Out :=
  let cl := s.ev.k
  let x := s.ev.v.toNat
  let h := poolOf (dieOfCluster cl)
  .next (match s.cohReqs.find? fun q => isCluster cl && q.holder == cl && q.line == x && !q.asked with
    | none => s
    | some q =>
      let s := { s with cohReqs := s.cohReqs.replace q { q with asked := true } }
      let p : CohReq := { holder := h, req := cl, line := x, cl := some cl, relayed := true, ctx := q.ctx, hint := q.hint }
      if (s.activeEntry (dieOfHolder h) x).isSome then s.missRead p
      else match (s.useLine h x q.hint).grantRead h cl x q.ctx with
        | some t => t.reacquire h x
        | none => s.missRead p)

/-- A request relayed by a pool to the clusters of its die (R236). -/
def State.relay (s : State) (m : CohMsg) : State :=
  if 192 ≤ m.dst ∧ m.dst < 196 then (s.cachingOf (m.dst - 192)).foldl (fun s cl => s.sendTok { m with dst := cl }) s else s
/-- Where a holder's answer to a request goes: a cluster's to its pool, which forwards it (R236). -/
def CohMsg.answer (m : CohMsg) (r : CohMsg) : CohMsg :=
  let pool := poolOf (dieOfHolder m.dst)
  if isCluster m.dst then { r with dst := pool, fwd := if m.src = pool then none else some m.src } else r
/-- A holder's answer to a request of another (R245, R247). While an entry is active for the line it answers none
but a cluster the demand of its own pool (R243). A home that answers has the line in its L3 slice (R248), but for what
only accesses with hint 3 asked for (R217). DEDUCED (log 35). -/
def State.answerTok (s : State) (m : CohMsg) : State :=
  let h := m.dst
  let x := m.line
  let t := s.tok h x
  let reply (n : Nat) (owner data : Bool) : State :=
    let u := ((s.setTok h x { t with tok := t.tok - n, owner := t.owner && !owner }).sendTok
      (m.answer (tokMsg x h m.src m.req n owner t.dirty data m.ctx))).reacquire h x
    let asking := s.cohReqs.filter fun q => q.holder == m.src && q.line == x
    if 196 ≤ h ∧ (asking.isEmpty ∨ asking.any fun q => q.hint != 3) then u.useLine h x 1 else u
  let active := s.activeEntry (dieOfHolder h) x
  let demand := isCluster h && m.type == 1 && m.src == poolOf (dieOfHolder h)
  if t.tok = 0 ∨ (active.isSome ∧ ¬ demand) then s
  else match m.type with
    | 0 =>
      if isCluster h then (if t.tok = 256 then reply 255 true true else s)
      else if !t.owner then s
      else if t.tok = 256 ∧ 196 ≤ h then reply 256 true true
      else if 2 ≤ t.tok then reply (min 16 (t.tok - 1)) false true
      else reply 1 true true
    | 1 => reply t.tok t.owner t.owner
    | _ =>
      if t.valid then s.sendTok (m.answer { type := 5, line := x, src := h, dst := m.src, req := m.req, ctx := m.ctx, data := s.lineBytes x })
      else s
/-- A delivery of a transient request: relayed, then answered. -/
def State.deliverRequest (s : State) (type : Nat) : State :=
  match s.takeMsg type with
  | some (m, t) => (t.relay m).answerTok m
  | none => s

/-- TREQR: message `k`, a transient read, reaches its holder, which answers it (R247). -/
def execEvTreqr (s : State) : Out := .next (s.deliverRequest 0)
/-- TREQW: message `k`, a transient write, reaches its holder (R247). -/
def execEvTreqw (s : State) : Out := .next (s.deliverRequest 1)
/-- TREQB: message `k`, a bypass read, reaches its holder, which answers with data only (R218). -/
def execEvTreqb (s : State) : Out := .next (s.deliverRequest 2)

/-- An answer of a cluster that its pool forwards unchanged, where no entry is active for the line (R236, R243). -/
def State.forwards (s : State) (m : CohMsg) : Option CohMsg :=
  m.fwd.bind fun r => if (s.activeEntry (dieOfHolder m.dst) m.line).isSome then none else some { m with dst := r, fwd := none }
/-- Tokens delivered to a cluster, or to a pool or home; or an answer forwarded by a pool. -/
def State.deliverTok (s : State) (type : Nat) : State :=
  match s.takeMsg type with
  | some (m, t) =>
    match t.forwards m with
    | some r => t.sendTok r
    | none => if isCluster m.dst then t.clusterTok m.dst m else t.takeTok m.dst m
  | none => s
/-- TOKD: tokens with data arrive (R229). -/
def execEvTokd (s : State) : Out := .next (s.deliverTok 3)
/-- TOKN: tokens without data arrive (R247). -/
def execEvTokn (s : State) : Out := .next (s.deliverTok 4)
/-- DATAB: data without tokens arrives for one access, a cluster's from its pool, and is not kept (R218, R245). -/
def execEvDatab (s : State) : Out :=
  .next (match s.takeMsg 5 with
    | some (m, t) =>
      match m.fwd with
      | some r => t.sendTok { m with dst := r, fwd := none }
      | none =>
        match t.cohReqs.find? fun q => q.holder == m.dst && q.line == m.line && q.req == m.req && q.data.isEmpty && (isCluster m.dst || q.bypass) with
        | some q =>
          if q.stamp = 0 && !q.relayed then { t with cohReqs := t.cohReqs.erase q }
          else if q.relayed then { t with cohReqs := t.cohReqs.erase q }.sendData m.line m.dst q.req q.req q.ctx m.data
          else { t with cohReqs := t.cohReqs.replace q { q with data := m.data } }
        | none => t
    | none => s)
/-- WBD: written-back tokens with data arrive (R247, R248). -/
def execEvWbd (s : State) : Out := .next (s.deliverTok 11)
/-- WBN: written-back tokens without data arrive (R247, R248). -/
def execEvWbn (s : State) : Out := .next (s.deliverTok 12)

/-! ## Persistent requests (R239 to R243) -/

/-- PREQ: a persistent request enters the arbiter's table as waiting (R241, R242). -/
def execEvPreq (s : State) : Out :=
  .next (match s.takeMsg 6 with
    | some (m, t) =>
      let d := homeDie m.line
      match t.preq d m.req with
      | some _ => s
      | none =>
        let e : PReq := { rd := m.rd, ddie := m.ddie, line := m.line, rec_ := m.rec_, toHome := m.toHome, ctx := m.ctx }
        { t with preqs := SMap.put t.preqs (256 * d + m.req) e }.activate m.line 0
    | none => s)

/-- The clusters of a die told to give up a line for an active entry (R243). -/
def State.demand (s : State) (d x r ctx : Nat) : State :=
  (s.cachingOf d).foldl (fun s cl => s.sendTok { type := 1, line := x, src := poolOf d, dst := cl, req := r, ctx := ctx }) s
/-- A requester that has been served before its entry is active, and whose PDONE is not under way, reports so at once.
DEDUCED (log 35). -/
def State.reportServed (s : State) (d x r : Nat) (e : PReq) : State :=
  if e.rec_ ∨ e.ddie ≠ d ∨ s.cohReqs.any (fun q => q.req == r && q.line == x && q.persistent)
      ∨ s.cohMsgs.any (fun m => m.type == 8 && m.req == r && m.line == x) then s
  else s.sendTok { type := 8, line := x, src := e.target, dst := poolOf (homeDie x), req := r, ctx := e.ctx }

/-- A cluster gives up a line that is being recovered: it is invalid from now on, and its tokens, with the data where it is
dirty, go to the home by way of its pool (R236, R257). -/
def State.giveUp (s : State) (cl x r : Nat) (e : PReq) : State :=
  let t := s.tok cl x
  if t.tok = 0 then s
  else (s.setTok cl x {}).sendTok { tokMsg x cl (poolOf (dieOfCluster cl)) r t.tok t.owner t.dirty t.owner e.ctx with fwd := some e.target }

/-- PACT: a table activates an entry; the holders of its stack send their tokens, a monitor's pool asks again for its own,
and the table acknowledges (R241, R243, R253). -/
def execEvPact (s : State) : Out :=
  .next (match s.takeMsg 7 with
    | some (m, t) =>
      let d := dieOfHolder m.dst
      let x := m.line
      let e : PReq := { act := true, rd := m.rd, ddie := m.ddie, rec_ := m.rec_, line := x, toHome := m.toHome, ctx := m.ctx }
      let t := { t with preqs := SMap.put t.preqs (256 * d + m.req) e }
      let t := if m.rec_ then ((List.range 48).map fun i => 48 * d + i).foldl (fun t cl => t.giveUp cl x m.req e) t else t
      let t := (((t.forwardTok (poolOf d) x m.req e).forwardTok (homeOf d) x m.req e).reacquire (poolOf d) x).demand d x m.req m.ctx
      (t.sendTok { type := 10, line := x, src := poolOf d, dst := poolOf m.src, req := m.req, ctx := m.ctx }).reportServed d x m.req e
    | none => s)

/-- PDONE: the arbiter learns that the requester has been served; an entry that is still waiting is free again (R241).
DEDUCED (log 35). -/
def execEvPdone (s : State) : Out :=
  .next (match s.takeMsg 8 with
    | some (m, t) =>
      let k := 256 * homeDie m.line + m.req
      if t.arbiters.any fun a => a.line == m.line && a.req == m.req then
        { t with arbiters := t.arbiters.map fun (a : Arbiter) => (if a.line = m.line ∧ a.req = m.req then { a with done := true } else a) }.deactivate m.line
      else if (SMap.find t.preqs k).any fun e => e.line == m.line && !e.rec_ then { t with preqs := SMap.del t.preqs k }
      else t
    | none => s)

/-- PDEACT: a table clears its entry, the arbiter's own only with the last PACK, and acknowledges (R241). What
its pool and home hold then serves their requests. -/
def execEvPdeact (s : State) : Out :=
  .next (match s.takeMsg 9 with
    | some (m, t) =>
      let d := dieOfHolder m.dst
      let k := 256 * d + m.req
      let t := { t with preqs := if d = homeDie m.line then SMap.upd t.preqs k {} fun e => { e with act := false } else SMap.del t.preqs k }
      let t := (t.serveReqs (poolOf d) m.line).serveReqs (homeOf d) m.line
      (t.sendTok { type := 10, line := m.line, src := poolOf d, dst := poolOf m.src, req := m.req, ctx := m.ctx }).reacquire (poolOf d) m.line
    | none => s)

/-- All four PACKs of a recovery have come: the home has every token, the line has the latest dirty data that the home
received or else its memory copy, the page is quarantined, with a record that names where a token field was lost, and the contexts that map it are contained (R257).
DEDUCED (log 35). -/
def State.recovered (s : State) (x : Nat) : State :=
  let h := homeHolder x
  let t := s.tok h x
  let mem := match SMap.find s.memCopy x with
    | some bs => if t.dirty then s.mem else s.mem.writeBytes (128 * x) bs
    | none => s.mem
  let s := { s with
    mem := mem
    memCopy := if t.dirty then s.memCopy else SMap.del s.memCopy x
    arbiters := s.arbiters.map fun (a : Arbiter) => (if a.line = x then { a with done := true } else a) }.setTok h x ⟨true, t.dirty, true, 256⟩
  let p := SMap.get s.dev.lostAt x (memPlace (128 * x))
  ((s.onDev fun d => { d with lostAt := SMap.del d.lostAt x }).containPage p (128 * x) t.dirty).deactivate x

/-- PACK: the arbiter collects acknowledgements; with the fourth of a deactivation its entry is free and the
next is activated, and with the fourth of a recovery the line is recovered (R241, R242, R257). -/
def execEvPack (s : State) : Out :=
  .next (match s.takeMsg 10 with
    | some (m, t) =>
      let x := m.line
      let t := { t with arbiters := t.arbiters.map fun (a : Arbiter) => (if a.line = x then { a with acks := a.acks + 1 } else a) }
      match t.arbiters.find? fun a => a.line == x && a.acks == 4 with
      | none => t
      | some a =>
        if a.clearing then
          { t with
            arbiters := t.arbiters.filter fun b => b.line != x
            preqs := SMap.del t.preqs (256 * homeDie x + a.req) }.enterRecoveries.activate x (a.req + 1)
        else if (t.preq (homeDie x) a.req).any fun e => e.rec_ then t.recovered x
        else t.deactivate x
    | none => s)

/-! ## Timeouts (R218, R237, R238, R243, R244) and the urgent lane (R220) -/

/-- TRETRY of a compute die. -/
def State.tretry (s : State) (d : Nat) : Nat := fld (s.dev.toktime.toList.getD d 0).toNat 28 3
/-- Whether what a request's holder has satisfies it (R229). -/
def State.satisfied (s : State) (q : CohReq) : Bool := if q.write then s.mayWrite q.holder q.line else s.mayRead q.holder q.line
/-- Whether nothing is left that a request could be for: its context has no work on the cluster, or nothing of a stack's own
waits for the line. DEDUCED (log 35). -/
def State.abandoned (s : State) (q : CohReq) : Bool :=
  match q.cl with
  | some cl => !q.relayed
      && !(s.allWarps.any fun w => w.cluster == cl && w.ctx == q.ctx && w.park != .vacant && w.park != .exited)
      && !((s.cluster cl).engine.any fun j => j.ctx == q.ctx)
      && !(s.cores.any fun c => clusterOfCore c.1 == cl && c.2.mq.any fun e => e.ctx == q.ctx)
  | none => s.ingress.isEmpty && s.records.isEmpty && !(s.versions.any fun v => v.line == q.line) && !(s.allWarps.any fun w => match w.park with
      | .monitor p _ _ _ _ => p / 128 == q.line
      | _ => false)
/-- Whether a request is the one that reads of its line have joined (R218). -/
def State.leads (s : State) (q : CohReq) : Bool :=
  q.write || (s.cohReqs.find? fun p => p.holder == q.holder && p.line == q.line && !p.write && !p.bypass) == some q

/-- TRANSIENT_TIMEOUT: request `k`, unsatisfied, is sent again up to TRETRY times; then a persistent request is
raised, once the requester's entry is free (R238, R240). -/
def execEvTransientTimeout (s : State) : Out :=
  .next (match s.cohReqs[s.ev.k]? with
    | none => s
    | some q =>
      let d := dieOfHolder q.holder
      let t := s.serveReqs q.holder q.line
      if isCluster q.holder || q.bypass || !t.cohReqs.contains q then t
      else if t.abandoned q then t.endReq q
      else if q.persistent || t.satisfied q || !t.leads q then t
      else if q.tries < t.tretry d then
        { t with cohReqs := t.cohReqs.replace q { q with tries := q.tries + 1 } }.broadcast q
      else if t.persistentInUse q.req then t.broadcast q
      else
        (if q.holder < 196 then { t with cohReqs := t.cohReqs.replace q { q with persistent := true } }.countSlice d q.line 36 q.ctx 1
          else { t with cohReqs := t.cohReqs.replace q { q with persistent := true } }).sendTok
          { type := 6, line := q.line, src := q.holder, dst := poolOf (homeDie q.line), req := q.req, rd := !q.write, ddie := d
            toHome := decide (196 ≤ q.holder), ctx := q.ctx })

/-- BYPASS_TIMEOUT: a bypass read with no reply takes a miss register when one is free and is tried again as an
ordinary miss (R218). -/
def execEvBypassTimeout (s : State) : Out :=
  .next (match s.cohReqs[s.ev.k]? with
    | none => s
    | some q =>
      if !q.bypass || !q.data.isEmpty || 128 ≤ s.missRegisters q.holder (poolSlice q.line) then s
      else { s with cohReqs := s.cohReqs.erase q }.missRead { q with bypass := false })

/-- PERSISTENT_DEMAND_REPEAT: the pool of die `k` asks its clusters again for the line of active entry `n`
(R243). -/
def execEvPersistentDemandRepeat (s : State) : Out :=
  let d := s.ev.k % 4
  .next (match s.preq d s.ev.n with
    | some e => if e.act then s.demand d e.line s.ev.n e.ctx else s
    | none => s)

/-- PWATCH: the entry of arbiter `k` has been active too long without a PDONE: its line has lost tokens (R244). -/
def execEvPwatch (s : State) : Out :=
  .next (match s.arbiters[s.ev.k]? with
    | some a => if a.done || a.clearing then s else s.recover a.line
    | none => s)

/-- Whether the head of a message has waited long enough for the urgent lane. -/
def CohMsg.urgent (m : CohMsg) : Bool := decide (64 ≤ m.age.toNat)
/-- HEAD_URGENT: the head of message `k` has waited 64 cycles, and goes ahead of all but the urgent ones before it
(R220, R433). -/
def execEvHeadUrgent (s : State) : Out :=
  .next (match s.cohMsgs[s.ev.k]? with
    | some m =>
      let rest := s.cohMsgs.eraseIdx s.ev.k
      if m.urgent then s
      else { s with cohMsgs := rest.takeWhile CohMsg.urgent ++ { m with age := 64 } :: rest.dropWhile CohMsg.urgent }
    | none => s)

end Sys2Proof.Machine
end

