-- ==== Sys2Proof/Machine/Ring.lean ====
section
/-! DEFINITION. Rings: registration, doorbells, freezing, and the front end's consumption of entries, with the
checks of a node (R343 to R348, R354, R355, R381). -/

namespace Sys2Proof.Machine

/-! ## Structures of a context in memory (R447) -/

/-- Words written to a context's structure, where every one can be. -/
def State.putCtxWords (s : State) (ctx va : Nat) : List Word → Option State
  | [] => some s
  | w :: ws => match s.ctxPhys ctx va true with
    | some a => State.putCtxWords (s.writePhys ctx none a (bytesOfNat 4 w.toNat)) ctx (va + 4) ws
    | none => none

/-! ## A context that is being restored (R384) -/

/-- A RESUME record is done once every gang of its context is restored. -/
def State.tryResumed (s : State) (c : Nat) : State :=
  if s.gangs.any fun g => g.2.ctx == c && (g.2.phase == .saved || g.2.phase == .restoring) then s
  else
    let n := (s.ctx c).saveDone
    { s with timed := s.timed.map fun (t : TimedRec) => (if t.action = 2 ∧ t.acted ∧ t.target = c then t.finish 0 n else t) }

/-! ## Registration (R343) -/

/-- A ring of a context, and one changed. -/
def Ctx.ring (c : Ctx) (r : Nat) : Ring := SMap.get c.rings r {}
def State.onRing (s : State) (c r : Nat) (f : Ring → Ring) : State :=
  s.onCtx c fun x => { x with rings := SMap.upd x.rings r {} f }
/-- Rings registered on the device. -/
def State.ringCount (s : State) : Nat := s.ctxs.foldl (fun n c => n + c.2.rings.countP fun r => r.2.registered) 0

/-- The ring that a descriptor of 16 words gives, or that its registration is refused. -/
def ringOf (addr : BitVec 64) (old : Ring) (d : List Word) : Option Ring :=
  let w (i : Nat) : Nat := (d.getD i 0).toNat
  let dev := (w 0).testBit 9
  let host := (w 0).testBit 8
  let logn := w 0 % 32
  let base := w 2 + 2 ^ 32 * w 3
  if fld (w 0) 10 22 ≠ 0 ∨ fld (w 0) 5 3 ≠ 0 ∨ w 1 ≠ 0 ∨ (List.range 10).any (fun i => w (6 + i) != 0)
      ∨ logn < 4 ∨ 16 < logn ∨ base % 4096 ≠ 0 ∨ (dev && host) then none
  else some { addr := addr, registered := true, dev := dev, hostmem := host, logn := logn, base := base
              rd := d.getD 5 0, doorbell := d.getD 5 0, ctl := if dev then 0 else old.ctl }

/-- RING_REGISTER: RINGADDR of ring `m` of context `k` receives a nonzero address (R343). -/
def execEvRingRegister (s : State) : Out :=
  let k := s.ev.k
  let r := s.ev.m
  let none' : State := s.onRing k r fun x => { ctl := x.ctl }
  .next (if s.ev.v = 0 ∨ 64 ≤ r ∨ (s.ctx k).phase = .none then s
    else if s.ev.v.toNat % 64 ≠ 0 ∨ 1024 ≤ none'.ringCount then none'
    else match s.ctxWords k s.ev.v.toNat 16 with
      | none => none'
      | some d => match ringOf s.ev.v ((s.ctx k).ring r) d with
        | none => none'
        | some x => s.onRing k r fun _ => x)
/-- RING_UNREGISTER: RINGADDR of ring `m` of context `k` receives 0 (R343). -/
def execEvRingUnregister (s : State) : Out :=
  .next (s.onRing s.ev.k s.ev.m fun x => { ctl := x.ctl })

/-! ## Doorbells and freezing (R345, R381) -/

/-- The address of entry `i`. -/
def Ring.slot (r : Ring) (i : Word) : Nat := r.base + 256 * (i.toNat % 2 ^ r.logn)
/-- RESV of a ring where a reservation has passed the ring's size and RD has not reached it yet: the entries before it
are undefined in the sense of R3 for the context (R344). DEDUCED (log 32). -/
def State.overrun (s : State) (c : Nat) (r : Ring) : Option Word :=
  let ahead (v : Word) : Nat := (v - r.rd).toNat
  match s.ctxWords c (r.addr.toNat + 16) 1 with
  | some [v] =>
    if 2 ^ r.logn < ahead v ∧ ahead v < 2 ^ 31 then some v
    else r.overRun.filter fun v => decide (0 < ahead v) && decide (ahead v < 2 ^ 31)
  | _ => none
/-- Whether the entry at RD is published: its SEQ word, which an overrun leaves free (R344), or that it cannot be read. -/
def State.published (s : State) (c : Nat) (r : Ring) : Option Bool :=
  (s.ctxPhys c (r.slot r.rd + 8) false).map fun a =>
    if (s.overrun c r).isSome then Config.freeChoice s.fresh % 2 == 1 else BitVec.ofNat 32 (s.mem.readNat a 4) == r.rd + 1

/-- DOORBELL: the host writes `v` to the doorbell of ring `m` of context `k` (R345, R381). -/
def execEvDoorbell (s : State) : Out :=
  let r := (s.ctx s.ev.k).ring s.ev.m
  .next (if r.registered ∧ ¬ r.dev then
    s.onRing s.ev.k s.ev.m fun x => { x with doorbell := s.ev.v.setWidth 32, wakePending := x.wakePending || x.frozen }
  else s)

/-- WAKEPEND of a frozen ring: a doorbell write, or a publication since the freeze (R381). -/
def State.wakePend (s : State) (c : Nat) (r : Ring) : Bool :=
  r.wakePending || (r.frozen && r.dev && !r.published && s.published c r == some true)

/-- RUNNING and FROZEN follow the rings of the context (R369). -/
def Ctx.ringPhase (c : Ctx) : Ctx :=
  let rs := c.rings.filter fun r => r.2.registered
  let all := !rs.isEmpty && rs.all fun r => r.2.frozen
  match c.phase with
  | .running => if all then { c with phase := .frozen } else c
  | .frozen => if all then c else { c with phase := .running }
  | _ => c

/-- RING_FREEZE: the driver freezes ring `m` of context `k`; RD is in its descriptor (R381). -/
def execEvRingFreeze (s : State) : Out :=
  let k := s.ev.k
  let r := (s.ctx k).ring s.ev.m
  .next (if r.registered ∧ ¬ r.frozen then
    let pub := s.published k r == some true
    let t := s.onRing k s.ev.m fun x => { x with frozen := true, wakePending := false, published := pub }
    match t.putCtxWords k (r.addr.toNat + 20) [r.rd] with
    | some u => u.onCtx k Ctx.ringPhase
    | none => t.tearDown k 3
  else s)
/-- RING_REMAP: the driver remaps ring `m` of context `k`; its wake-pending bit is cleared (R381). A torn-down
context's rings stay frozen (R408). -/
def execEvRingRemap (s : State) : Out :=
  let k := s.ev.k
  .next (if (s.ctx k).phase = .tornDown then s
    else if ((s.ctx k).ring s.ev.m).registered then
      (s.onRing k s.ev.m fun x => { x with frozen := false, wakePending := false, published := false }).onCtx k Ctx.ringPhase
    else s)

/-! ## Nodes (R346 to R348) -/

/-- Fields of a node's entry. -/
def Node.w (n : Node) (i : Nat) : Word := n.words.getD i 0
def Node.type (n : Node) : Nat := fld (n.w 0).toNat 28 4
def Node.prio (n : Node) : Nat := fld (n.w 0).toNat 24 4
def Node.nsucc (n : Node) : Nat := fld (n.w 0).toNat 20 4
def Node.child (n : Node) : Bool := (n.w 0).getLsbD 19
def Node.sub (n : Node) : Bool := (n.w 0).getLsbD 18
def Node.nodeid (n : Node) : Word := n.w 1
def Node.parent (n : Node) : Word := n.w 3
def Node.isTimed (n : Node) : Bool := n.type == 0 && (n.w 14).getLsbD 3
/-- The bundle members that a BUNDLE names. -/
def Node.members (n : Node) : List Word := ([12, 13, 14, 15].map fun i => n.w i).filter fun w => w != 0

/-- Whether words `i` to 63 of an entry are 0. -/
def Node.zeroFrom (n : Node) (i : Nat) : Bool := (n.words.drop i).all fun w => w == 0

/-- The copy of a COPY node (R354). -/
def Node.copy (n : Node) : Copy :=
  let x := (n.w 20).toNat
  copyOf (x % 8) (fld x 8 8) (fld x 6 1) (fld x 4 2) fun i => n.w (12 + i)

/-- Whether a payload is within its own limits (R350, R354, R355). Bits [31:9] of word 54 and [31:30] of word 58 of a
LAUNCH, in which R350 names no field, are refused when set. DESIGN CHOICE (log 32). -/
def State.payloadOk (s : State) (n : Node) (ctrl : Bool) : Bool :=
  let w (i : Nat) : Nat := (n.w i).toNat
  match n.type with
  | 0 => fld (w 14) 14 18 == 0 && fld (w 14) 0 3 == 0 && fld (w 14) 8 2 != 3
      && fld (w 18) 28 4 == 0 && fld (w 18) 12 4 == 0 && fld (w 19) 13 19 == 0 && fld (w 19) 3 5 == 0
      && fld (w 54) 9 23 == 0 && fld (w 58) 30 2 == 0 && fld (w 59) 30 2 == 0 && n.zeroFrom 60
  | 1 =>
    let f := w 20 % 8
    n.zeroFrom 21 && fld (w 20) 16 16 == 0 && fld (w 20) 3 1 == 0 && fld (w 20) 7 1 == 0
      && [0, 3, 4, 5, 6].contains f && (fld (w 20) 6 1 == 0 || f == 4 || f == 5) && (fld (w 20) 8 8 == 0 || f == 5)
      && fld (w 17) 23 8 == 0
      && (f == 6 || ((f == 4 || f == 5) && fld (w 20) 6 1 == 1) || (w 18 == 0 && w 19 == 0))
      && (checkCopy s true (fun _ _ => false) 0 none n.copy).isNone
  | 2 =>
    let va := w 12 + 2 ^ 32 * w 13
    n.zeroFrom 14 && va % 64 == 0 && windowOf va == .glob
  | 3 => n.zeroFrom 16
  | 4 => n.zeroFrom 17 && w 12 % 32 == 0 && fld (w 16) 13 19 == 0
  | 5 => n.zeroFrom 12
  | 6 => n.zeroFrom 20 && decide (w 12 < 3) && (ctrl || w 13 == n.ctx) && (s.ctx (w 13)).phase != .none
  | 7 => n.zeroFrom 15 && w 12 % 64 == 0
  | _ => false

/-- Whether an entry is refused with NODE_MALFORMED (R346, R348). DEDUCED (log 32). -/
def State.malformed (s : State) (n : Node) (dev ctrl : Bool) : Bool :=
  let w0 := (n.w 0).toNat
  decide (8 ≤ n.type) || fld w0 16 2 != 0 || n.nodeid == 0 || decide (8 < n.nsucc)
    || (List.range 8).any (fun i => decide (i < n.nsucc) != (n.w (4 + i) != 0))
    || n.child != dev || (!n.child && n.parent != 0)
    || (n.child && !(s.grids.any fun g => g.2.ctx == n.ctx && g.2.gridid == n.parent) && !s.endedGrids.contains (n.ctx, n.parent))
    || (n.sub && (decide (2 < n.type) || w0 % 2 ^ 16 != 0 || n.nsucc != 0))
    || !s.payloadOk n ctrl

/-! ## Readiness (R347, R360) -/

/-- Whether the grid named by a child's PARENT has ended. -/
def State.parentEnded (s : State) (n : Node) : Bool := !n.child || s.endedGrids.contains (n.ctx, n.parent)
/-- The pending node of a context with a NODEID; where the context reuses the NODEID while it is pending, any of its
nodes (R347). -/
def State.findNode (s : State) (ctx : Nat) (id : Word) : Option Nat :=
  match (s.nodes.filter fun q => q.2.ctx == ctx && q.2.nodeid == id).map (·.1) with
  | [] => none
  | [h] => some h
  | hs => hs[Config.freeChoice s.fresh % hs.length]?
/-- Whether a member of a bundle has been consumed, or has completed already. -/
def State.memberSeen (s : State) (ctx : Nat) (id : Word) : Bool :=
  (s.findNode ctx id).isSome || s.credits.any fun c => c.member && c.ctx == ctx && c.nodeid == id
/-- Whether a waiting node becomes ready. -/
def State.isReady (s : State) (n : Node) : Bool :=
  n.phase == .waiting && n.finish.isNone && n.unmet == 0 && s.parentEnded n && (!n.isTimed || n.released) && (!n.sub || n.handed)
    && (n.type != 3 || n.members.all fun m => s.memberSeen n.ctx m)
/-- The members of entry `i` of a group table, where they can be read; a FIRST + COUNT above 98,304 gives none (R413). -/
def State.groupEntry (s : State) (ctx gtab i : Nat) : Option (List Nat) :=
  match s.ctxWords ctx (gtab + 8 * i) 2 with
  | some [f, c] =>
    if 98304 < f.toNat + c.toNat then none
    else (s.ctxWords ctx (gtab + 2048 + 4 * f.toNat) c.toNat).map fun ms => ms.map (·.toNat)
  | _ => none
/-- The group table that is copied when a LAUNCH becomes ready: the entries that GCOUNT names, or the 256 that an image's
metadata may name where the packet holds 0 (R350, R413). -/
def State.copyGroups (s : State) (n : Node) : List (Option (List Nat)) :=
  let k := (n.w 54).toNat % 512
  if n.type ≠ 0 ∨ (k = 0 ∧ (n.w 14).getLsbD 10) then []
  else (List.range (if k = 0 then 256 else min k 256)).map (s.groupEntry n.ctx ((n.w 52).toNat + 2 ^ 32 * (n.w 53).toNat))
/-- Node `h` joins its list of ready nodes (R360), a LAUNCH with its group table. -/
def State.makeReady (s : State) (h : Nat) : State :=
  { s.onNode h (fun n => { n with phase := .ready, order := s.readyCount, groups := s.copyGroups n }) with readyCount := s.readyCount + 1 }
/-- Every waiting node that has become ready joins its list. -/
def State.settle (s : State) : State :=
  s.nodes.foldl (fun t q => if t.isReady q.2 then t.makeReady q.1 else t) s

/-! ## Consuming an entry (R345, R347) -/

/-- Pending-node entries that a context occupies; the table holds 65,536. -/
def State.nodeUse (s : State) (c : Nat) : Nat := s.nodes.countP fun q => q.2.ctx == c
def State.tableRoom (s : State) (c : Nat) : Bool :=
  decide (s.nodeUse c < (s.ctx c).nodeshare.toNat % 2 ^ 17) && decide (s.nodes.length < 65536)

/-- What the front end finds at a ring: nothing, an entry, or that the ring cannot be reached. -/
inductive RingLook where
  | empty
  | entry
  | unreachable
  deriving DecidableEq, Repr
def State.look (s : State) (c : Nat) (r : Ring) : RingLook :=
  let due := (r.doorbell - r.rd).toNat
  if ¬ r.registered ∨ r.frozen ∨ ¬ s.tableRoom c ∨ (¬ r.dev ∧ (due = 0 ∨ 2 ^ r.logn < due)) then .empty
  else match s.published c r with
    | none => .unreachable
    | some true => .entry
    | some false => .empty

/-- The rings of the device, by context × 64 + ring, after the one served last. -/
def State.ringTurns (s : State) : List (Nat × Nat) :=
  let all := s.ctxs.flatMap fun c => c.2.rings.map fun r => (c.1, r.1)
  all.filter (fun q => decide (s.lastRing < q.1 * 64 + q.2)) ++ all.filter fun q => decide (q.1 * 64 + q.2 ≤ s.lastRing)

/-- A node enters the table with the credits kept for it (R347). Credits beyond its predecessors, and credits for a NODEID
that the context has used before, are undefined in the sense of R3 for the context: its count, and in the second case
what it inherits, are free values. DESIGN CHOICE (log 32). -/
def State.enterNode (s : State) (n : Node) : State :=
  let mine (c : Credit) : Bool := !c.member && c.ctx == n.ctx && c.nodeid == n.nodeid
  let cs := s.credits.filter mine
  let preds := (n.w 0).toNat % 2 ^ 16
  let reused := !cs.isEmpty && (s.ctx n.ctx).nodeids.contains n.nodeid
  let s := s.onCtx n.ctx fun c => { c with nodeids := n.nodeid :: c.nodeids.filter fun i => i != n.nodeid }
  let n := { n with
    unmet := if preds < cs.length ∨ reused then Config.freeChoice s.fresh % 2 ^ 16 else preds - cs.length
    inherited := if reused then Config.freeChoice (s.fresh + 1) % 15 else cs.foldl (fun w c => max w c.status) 0
    nrun := (cs.filterMap (·.nrun)).head?
    past := cs.flatMap (·.past) }
  ({ s with nodes := SMap.put s.nodes s.nextNode n, nextNode := s.nextNode + 1
            credits := s.credits.filter fun c => !mine c }.tick 2).settle

/-- ENTRY_CONSUME: the front end takes the next published entry of the next ring that has one, advances RD,
and enters its node or refuses it (R345 to R348). An entry of a ring that has been overrun holds free words, and names no
other context (R3, R344). -/
def execEvEntryConsume (s : State) : Out :=
  .next (match s.ringTurns.find? fun q => s.look q.1 ((s.ctx q.1).ring q.2) != .empty with
  | none => s
  | some (c, k) =>
    let r := (s.ctx c).ring k
    let s := { s with lastRing := c * 64 + k }
    match s.ctxWords c (r.slot r.rd) 64 with
    | none => s.tearDown c 3
    | some ws =>
      let bound := s.overrun c r
      let ws := if bound.isSome then s.freeWords 64 else ws
      let s := if bound.isSome then s.tick 64 else s
      if s.look c r = .unreachable then s.tearDown c 3
      else match (s.onRing c k fun x => { x with rd := x.rd + 1, overRun := bound }).putCtxWords c (r.addr.toNat + 20) [r.rd + 1] with
        | none => s.tearDown c 3
        | some t =>
          let n : Node := { ctx := c, ring := k, words := ws }
          if t.malformed n r.dev (r.ctl.getLsbD 3 && bound.isNone) then
            if n.nodeid = 0 ∨ (t.findNode c n.nodeid).isSome then
              { t with nodes := SMap.put t.nodes t.nextNode { n with finish := some 1 }, nextNode := t.nextNode + 1 }
            else t.enterNode { n with finish := some 1 }
          else t.enterNode n)

end Sys2Proof.Machine
end

