-- ==== Sys2Proof/Machine/Pairing.lean ====
section
/-! DEFINITION. What a word of a group needs and writes, by its bits: its pipe, whether it ends its group,
and the registers it writes (R66, R67, R75). -/

namespace Sys2Proof.Machine

/-! ## What a word of a group needs and writes (R66, R67, R75) -/

/-- The pipes of R66. -/
inductive Pipe where
  | none
  | scalar
  | vector
  | sfu
  | memory
  | matrix
  deriving DecidableEq, Repr

/-- The pipe of a word (R75). -/
def pipeOf (w : Nat) : Pipe :=
  let m := fld w 25 6
  if m = 0 ∧ fld w 20 5 = 0 then .none
  else if m = 0x0B ∨ m = 0x0C ∨ (0x20 ≤ m ∧ m ≤ 0x29) then .memory
  else if m = 0x16 ∨ m = 0x1B ∨ m = 0x3A then .sfu
  else if 0x10 ≤ m ∧ m ≤ 0x1A then .vector
  else if 0x30 ≤ m ∧ m ≤ 0x34 then .matrix
  else .scalar

/-- How many words of a group a pipe serves (R66). -/
def Pipe.instances : Pipe → Nat
  | .none => 3
  | .vector => 2
  | _ => 1

/-- Whether a word ends its group (R75). -/
def endsGroup (w : Nat) : Bool :=
  let f := fld w 20 5
  match fld w 25 6 with
  | 0x00 => f != 0 && f != 7
  | 0x01 | 0x02 | 0x0D | 0x0F | 0x23 | 0x29 | 0x38 | 0x39 => true
  | 0x0E => f == 1
  | 0x24 => f == 3
  | 0x34 => fld w 21 4 == 2
  | 0x3A => f == 1
  | _ => false

/-- Numbers for the registers that two words of a group may not both write: scalars from 0, predicates
from 32, vector registers from 64, tiles from 128, special registers from 256. -/
def scalarKey (n : Nat) : Nat := n
def predKey (n : Nat) : Nat := 32 + n
def vectorKeys (n k : Nat) : List Nat := (List.range k).map fun i => 64 + n + i
def tileKey (n : Nat) : Nat := 128 + n
def specialKey (n : Nat) : Nat := 256 + n

/-- The registers that a word writes (R67), by its major opcode and function. FPMODE and WSTAT are left
out: their flag bits are ORed. -/
def writesOf (w : Nat) : List Nat :=
  let f := fld w 20 5
  let d := fld w 12 6
  match fld w 25 6 with
  | 0x02 => [scalarKey 30]
  | 0x03 => if f = 21 ∨ f = 22 then [scalarKey d, scalarKey (d + 1)] else [scalarKey d]
  | 0x04 | 0x05 | 0x06 | 0x07 | 0x08 | 0x09 | 0x0A | 0x0B => [scalarKey f]
  | 0x0D => if f = 1 then (List.range 4).map fun i => scalarKey (fld w 15 5 + i) else []
  | 0x0E => if f = 0 then [scalarKey (fld w 15 5)] else [specialKey (fld w 0 10)]
  | 0x10 => vectorKeys d (if f = 23 ∨ f = 24 then 2 else 1)
  | 0x11 => vectorKeys (fld w 14 6) 1
  | 0x12 => vectorKeys d (if 18 ≤ f ∧ f ≤ 22 then 2 else 1)
  | 0x13 => vectorKeys (fld w 17 6) (if fld w 23 2 = 3 then 2 else 1)
  | 0x14 => [predKey d]
  | 0x15 => vectorKeys d (if f = 11 then 2 else 1)
  | 0x16 | 0x19 | 0x1B => vectorKeys d 1
  | 0x17 => match f with
    | 0 => vectorKeys d (2 ^ fld w 18 2)
    | 3 => [scalarKey d]
    | _ => vectorKeys d 1
  | 0x18 => if f = 0 then vectorKeys d 1 else vectorKeys (fld w 14 6) 1
  | 0x1A => match f with
    | 2 => [scalarKey d]
    | 3 => vectorKeys d 1
    | _ => [predKey d]
  | 0x1C => match f with
    | 6 | 10 => [specialKey 0]
    | 9 => [scalarKey d]
    | _ => [predKey d]
  | 0x20 => vectorKeys (fld w 13 6) (2 ^ fld w 19 2)
  | 0x22 =>
    let k := if fld w 21 4 = 11 ∨ fld w 21 4 = 14 then 2 else 1
    if fld w 0 2 = 0 then (if fld w 21 4 = 11 then vectorKeys (fld w 13 6) 1 else vectorKeys (fld w 13 6) k) else []
  | 0x23 => [scalarKey (fld w 13 6)]
  | 0x24 => if f = 4 then [scalarKey (fld w 5 5)] else []
  | 0x27 => if f = 4 then [scalarKey (fld w 5 5)] else []
  | 0x30 | 0x31 => [tileKey (fld w 17 2)]
  | 0x32 => if fld w 21 4 = 0 ∨ fld w 21 4 = 1 ∨ fld w 21 4 = 4 then [tileKey (fld w 17 2)] else []
  | 0x34 => if fld w 21 4 = 1 then [scalarKey (fld w 5 5)] else []
  | 0x3A => if f = 2 then [scalarKey (fld w 15 5)] else []
  | _ => []

/-- Whether CFSIG folds a word: not NOP, YIELD, SIGCHK, SIGSET, or a word of the handler (R340). -/
def folds (w : Nat) : Bool :=
  fld w 25 6 != 0x38 && !(fld w 25 6 == 0 && (fld w 20 5 == 0 || fld w 20 5 == 5))

end Sys2Proof.Machine
end

