-- ==== Sys2Proof/Machine/Rpf.lean ====
section
/-! DEFINITION. RPF images: their records, the translator's refusals, and the finalised image (R82 to R90,
R342). -/

namespace Sys2Proof.Machine

/-! ## Records (R83 to R85) -/

/-- Fields of a record. -/
def recKind (r : Nat) : Nat := fld r 60 4
def recMtype (r : Nat) : Nat := fld r 52 8
def recValue (r : Nat) : Nat := fld r 0 32
def recReloc (r : Nat) : Nat := fld r 52 4

/-- An image taken apart: metadata as type and value, instruction and data records. -/
structure RpfImage where
  metas : List (Nat × Nat)
  code : List Nat
  data : List Nat
  deriving DecidableEq, Repr

/-- Whether a record's own form is right: its kind, its type or relocation, its reserved bits (R4). -/
def recOk (r : Nat) : Bool :=
  match recKind r with
  | 0 => decide (recReloc r < 7) && fld r 32 20 == 0
  | 1 => fld r 32 28 == 0
  | 2 => decide (recMtype r < 10) && fld r 32 20 == 0
  | _ => false

/-- The parts of an image whose records stand in the order of R83, after a header that counts them. -/
def rpfParts (rs : List Nat) : Option RpfImage :=
  match rs with
  | [] => none
  | h :: rest =>
    let metas := rest.takeWhile fun r => recKind r == 2
    let code := (rest.drop metas.length).takeWhile fun r => recKind r == 0
    let data := rest.drop (metas.length + code.length)
    if recKind h = 2 ∧ recMtype h = 0 ∧ recValue h = rs.length ∧ rs.all recOk
        ∧ data.all (fun r => recKind r == 1) ∧ metas.all (fun r => recMtype r != 0)
        ∧ metas.all (fun r => recMtype r != 9 || recValue r == 1 + metas.length + code.length) then
      some ⟨metas.map fun r => (recMtype r, recValue r), code, data⟩
    else none

/-! ## Metadata (R82, R85) -/

/-- The value given for a type; of several, the last. -/
def RpfImage.meta (im : RpfImage) (t : Nat) : Option Nat := ((im.metas.filter fun m => m.1 == t).getLast?).map (·.2)
/-- Whether a metadata value is within the limits of R82; with a level other than SAMPLE, k is 0. DEDUCED (log 29). -/
def metaOk (t v : Nat) : Bool :=
  match t with
  | 1 =>
    let b := v / 2 ^ 16
    let c := v % 2 ^ 16
    b % 8 == 0 && c % 8 == 0 && decide (8 ≤ b) && decide (b ≤ c) && decide (c ≤ 2048)
  | 2 => decide (1 ≤ v) && decide (v ≤ 4)
  | 3 => decide (v ≤ 2 ^ 23)
  | 4 => v % 4 == 0
  | 5 =>
    let k := fld v 4 4
    v / 2 ^ 8 == 0 && fld v 2 2 == 0 && decide (v % 4 < 3) && (if v % 4 = 1 then decide (1 ≤ k) && decide (k ≤ 8) else k == 0)
  | 6 => decide (v % 16 < 8)
  | 7 => decide (1 ≤ v) && decide (v ≤ 256)
  | _ => true
/-- Whether every metadata value of an image is within its limits, with at most eight stable ranges (R82, R86). -/
def RpfImage.metasOk (im : RpfImage) : Bool :=
  im.metas.all (fun m => metaOk m.1 m.2) && decide ((im.metas.countP fun m => m.1 == 6) ≤ 8)

/-! ## Code records and the control flow between them -/

/-- The flags of an instruction record. -/
structure RpfWord where
  word : Nat
  tgt : Bool
  pkt : Bool
  chint : Bool
  nochain : Bool
  reloc : Nat
  deriving DecidableEq, Repr
def rpfWord (r : Nat) : RpfWord :=
  { word := r % 2 ^ 32, tgt := r.testBit 59, pkt := r.testBit 58, chint := r.testBit 57, nochain := r.testBit 56, reloc := recReloc r }

/-- The signed value of the low `n` bits. -/
def sext (v n : Nat) : Int := if v.testBit (n - 1) then (v % 2 ^ n : Nat) - (2 ^ n : Nat) else (v % 2 ^ n : Nat)
/-- The width of the offset that relocations 1 to 4 rewrite. -/
def relocBits (k : Nat) : Nat := if k = 2 then 25 else 17
def isBranchReloc (k : Nat) : Bool := decide (1 ≤ k) && decide (k ≤ 4)
/-- The record that record `i` names by its offset. -/
def RpfWord.target (x : RpfWord) (i : Nat) : Int := (i : Int) + sext x.word (relocBits x.reloc)
/-- Whether a named target exists and carries TGT (R86). -/
def targetOk (code : List RpfWord) (i : Nat) (x : RpfWord) : Bool :=
  !isBranchReloc x.reloc || (decide (0 ≤ x.target i) && (match code[(x.target i).toNat]? with
    | some y => y.tgt
    | none => false))

/-- Unconditional transfers (R81): the rest of the packet is padded after them. -/
def isTransfer (w : Nat) : Bool :=
  let f := fld w 20 5
  match fld w 25 6 with
  | 0x00 => f == 1 || f == 2 || f == 6 || f == 8
  | 0x01 => fld w 22 3 == 0
  | 0x02 => true
  | 0x0D => f == 2
  | _ => false
/-- Blocking instructions (R87): YIELD, BSYNC, GSYNC, MWAIT, BWAIT and MWAITB. -/
def isBlocking (w : Nat) : Bool :=
  let f := fld w 20 5
  match fld w 25 6 with
  | 0x00 => f == 5 || f == 9 || f == 10
  | 0x23 => true
  | 0x24 => f == 3
  | 0x34 => fld w 21 4 == 2
  | _ => false

/-- The first record of the group that the source wrote around record `i` (CHINT). -/
def groupHead (code : List RpfWord) : Nat → Nat
  | 0 => 0
  | i + 1 => match code[i + 1]? with
    | some x => if x.chint ∧ !x.tgt ∧ !x.pkt then groupHead code i else i + 1
    | none => i + 1

/-! ## Packing (R87, step 1) -/

/-- A word to place: the record it is and the one whose label it carries; a YIELD of the translator has none
of its own. -/
structure RpfItem where
  self : Option Nat
  label : Option Nat
  word : Nat
  start : Bool
  nochain : Bool
  reloc : Nat
  deriving DecidableEq, Repr

/-- The words in order, with their YIELDs. A YIELD before a target is given its label and starts a packet, so that a
branch to the label reaches it, and the target's own word starts the next (R84); before another word that starts a
packet a YIELD stands where the words before it end (R87). DEDUCED (log 29). -/
def rpfItems (code : List RpfWord) (ys : List Nat) : List RpfItem :=
  code.zipIdx.flatMap fun q =>
    let x := q.1
    let start := x.tgt || x.pkt
    if ys.contains q.2 then
      [⟨none, some q.2, 0x00500000, x.tgt, true, 0⟩, ⟨some q.2, none, x.word, start, x.nochain, x.reloc⟩]
    else [⟨some q.2, some q.2, x.word, start, x.nochain, x.reloc⟩]

/-- The next multiple of 3 slots. -/
def packetUp (p : Nat) : Nat := (p + 2) / 3 * 3
/-- Each word with its slot, counted from the first packet. -/
def placeItems : Nat → List RpfItem → List (Nat × RpfItem)
  | _, [] => []
  | p, x :: xs =>
    let q := if x.start then packetUp p else p
    (q, x) :: placeItems (if isTransfer x.word then packetUp (q + 1) else q + 1) xs
/-- Packets that the words take. -/
def packetsOf (ps : List (Nat × RpfItem)) : Nat := match ps.getLast? with
  | some (p, _) => p / 3 + 1
  | none => 0
/-- The packet of a label. -/
def labelPacket (ps : List (Nat × RpfItem)) (r : Nat) : Option Nat :=
  (ps.find? fun q => q.2.label == some r).map fun q => q.1 / 3
/-- The packet of a record. -/
def recordPacket (ps : List (Nat × RpfItem)) (r : Nat) : Option Nat :=
  (ps.find? fun q => q.2.self == some r).map fun q => q.1 / 3

/-! ## Back-edges and their YIELDs (R87, step 2) -/

/-- Whether a word is a branch, a CALL, a BRIT or a PUSHR. -/
def namesPacket (w : Nat) : Bool :=
  match fld w 25 6 with
  | 0x00 => fld w 20 5 == 7
  | 0x01 => fld w 22 3 != 7
  | 0x02 => true
  | 0x0D => fld w 20 5 == 2
  | _ => false
def isCall (w : Nat) : Bool := fld w 25 6 == 0x02
/-- The record that record `i` names: by its relocation, or where its offset is written in packets, the first of that
packet as the words are now placed. -/
def destOf (ps : List (Nat × RpfItem)) (i : Nat) (x : RpfWord) : Option Nat :=
  if isBranchReloc x.reloc then some (x.target i).toNat
  else if x.reloc = 0 ∧ namesPacket x.word then
    match recordPacket ps i with
    | none => none
    | some p =>
      let t := (p : Int) + sext x.word (if isCall x.word then 25 else 17)
      (ps.find? fun q => decide ((q.1 / 3 : Nat) = t)).bind fun q => q.2.label.or q.2.self
  else none

/-- The control flow of an image: its words and the records that they name. -/
structure RpfFlow where
  words : List Nat
  dests : List (Option Nat)
def flowOf (code : List RpfWord) (ps : List (Nat × RpfItem)) : RpfFlow :=
  ⟨code.map (·.word), code.zipIdx.map fun q => destOf ps q.2 q.1⟩
def RpfFlow.dest (g : RpfFlow) (i : Nat) : Option Nat := (g.dests[i]?).join
/-- The records at which a JOIN may continue: what a PUSHR or a BDIV names, and what follows a BDIV. -/
def RpfFlow.joins (g : RpfFlow) : List Nat :=
  g.words.zipIdx.flatMap fun q =>
    if fld q.1 25 6 = 0x00 ∧ fld q.1 20 5 = 7 then (g.dest q.2).toList
    else if fld q.1 25 6 = 0x01 ∧ fld q.1 22 3 = 6 then (g.dest q.2).toList ++ [q.2 + 1] else []
/-- The records that may follow record `i` in its own routine; a CALL is followed by the record it returns to. -/
def RpfFlow.succs (g : RpfFlow) (i : Nat) : List Nat :=
  match g.words[i]? with
  | none => []
  | some w =>
    let f := fld w 20 5
    match fld w 25 6 with
    | 0x00 => if f = 1 ∨ f = 2 ∨ f = 6 then [] else if f = 8 then g.joins else [i + 1]
    | 0x01 => (g.dest i).toList ++ (if fld w 22 3 = 0 then [] else [i + 1])
    | 0x0D => (if f = 2 then (g.dest i).toList else []) ++ [i + 1]
    | _ => [i + 1]
def RpfFlow.isRet (g : RpfFlow) (i : Nat) : Bool := (g.words[i]?).any fun w => fld w 25 6 == 0x00 && fld w 20 5 == 2
/-- The routine that record `i` calls. -/
def RpfFlow.callee (g : RpfFlow) (i : Nat) : Option Nat := if (g.words[i]?).any isCall then g.dest i else none

/-- Words run since the last blocking instruction when a record is reached, by record; the most of all paths, counted
to 4,096. -/
abbrev Runs := SMap Nat
def Runs.raise (r : Runs) (i n : Nat) : Runs :=
  let n := min n 4096
  match SMap.find r i with
  | some m => if m < n then SMap.put r i n else r
  | none => SMap.put r i n
/-- The runs at the records reached, `out` giving what a record passes on with the run that reaches it. -/
def flowRuns (out : Nat → Nat → List (Nat × Nat)) : Nat → Runs → Runs
  | 0, r => r
  | k + 1, r =>
    let r' := r.foldl (fun t q => (out q.1 ((SMap.find t q.1).getD 0)).foldl (fun t x => Runs.raise t x.1 x.2) t) r
    if r' = r then r else flowRuns out k r'

/-- What a call of a routine passes on: the words of a path through it that does not block, and the words since the
last blocking instruction at its RET. -/
structure CallSum where
  entry : Nat
  through : Option Nat := none
  tail : Option Nat := none
  deriving DecidableEq, Repr

/-- What record `i`, reached with a run of `r` words, passes on within its routine: the words of records and YIELDs count,
and the NOPs that fill packets do not. With `free` no path goes on past a blocking instruction. DEDUCED (log 29). -/
def RpfFlow.pass (g : RpfFlow) (ys : List Nat) (sums : List CallSum) (free : Bool) (i r : Nat) : List (Nat × Nat) :=
  let blocks := ys.contains i || isBlocking (g.words.getD i 0)
  let r := if isBlocking (g.words.getD i 0) then 0 else if ys.contains i then 1 else r + 1
  if free && blocks then []
  else match g.callee i with
    | some t =>
      let c := (sums.find? fun c => c.entry == t).getD { entry := t }
      (c.through.map fun n => (i + 1, r + n)).toList ++ (if free then [] else (c.tail.map fun n => (i + 1, n)).toList)
    | none => (g.succs i).map fun j => (j, r)
/-- The most of some runs. -/
def mostOf (l : List Nat) : Option Nat := l.foldl (fun m n => some (max (m.getD 0) n)) none
/-- The runs with which the RETs of a routine are passed. -/
def RpfFlow.retRuns (g : RpfFlow) (ys : List Nat) (sums : List CallSum) (free : Bool) (t : Nat) : Option Nat :=
  mostOf (((flowRuns (g.pass ys sums free) g.words.length [(t, 0)]).filter fun q => g.isRet q.1
    && !(free && ys.contains q.1)).map fun q => if ys.contains q.1 then 1 else q.2 + 1)
/-- The routines called, and what a call of each passes on: `n` rounds, each over what the last found. -/
def RpfFlow.sums (g : RpfFlow) (ys : List Nat) : Nat → List CallSum
  | 0 => (((List.range g.words.length).filterMap g.callee).eraseDups).map fun t => { entry := t }
  | n + 1 =>
    let old := RpfFlow.sums g ys n
    old.map fun c => { c with through := g.retRuns ys old true c.entry, tail := g.retRuns ys old false c.entry }
/-- The records of a routine. -/
def RpfFlow.body (g : RpfFlow) (t : Nat) : List Nat :=
  (flowRuns (fun i _ => (g.succs i).map fun j => (j, 0)) g.words.length [(t, 0)]).map (·.1)

/-- What a record passes on along every path: within its routine, from a RET to what follows a call of its routine, and
into a routine that it calls, after which no RET leaves (those records are numbered from the code's length up). -/
def RpfFlow.passAll (g : RpfFlow) (ys : List Nat) (sums : List CallSum) (free : Bool) (k r : Nat) : List (Nat × Nat) :=
  let n := g.words.length
  let i := k % n
  let inner := g.pass ys sums free i r
  let r := if isBlocking (g.words.getD i 0) then 0 else if ys.contains i then 1 else r + 1
  let blocks := ys.contains i || isBlocking (g.words.getD i 0)
  let down := if free && blocks then [] else match g.callee i with
    | some t => [(n + t, r)]
    | none => []
  let up := if k < n ∧ g.isRet i ∧ !(free && blocks) then
      (List.range n).filterMap fun c => match g.callee c with
        | some t => if (g.body t).contains i then some (c + 1, r) else none
        | none => none
    else []
  (inner.map fun q => (q.1 + (k - i), q.2)) ++ down ++ up
/-- Every record from which a path leads to record `b`. -/
def RpfFlow.leads (g : RpfFlow) (b : Nat) : Nat → List Nat → List Nat
  | 0, l => l
  | k + 1, l =>
    let l' := (List.range g.words.length).filter fun i => l.contains i
      || (g.passAll [] ((g.sums [] 0).map fun c => { c with through := some 0 }) false i 0).any fun q => l.contains (q.1 % g.words.length)
    if l'.length = l.length then l else RpfFlow.leads g b k l'

/-- Further YIELDs on the paths from `t` to `b`: one before the group at which the first path, by record, has run 4,096
words, as often as there is such a path. -/
def longYields (g : RpfFlow) (code : List RpfWord) (t : Nat) (on : List Nat) : Nat → List Nat → List Nat
  | 0, ys => ys
  | k + 1, ys =>
    let n := g.words.length
    let runs := flowRuns (g.passAll ys (g.sums ys (n + 1)) false) (2 * n) [(t, 0)]
    match runs.find? fun q => q.2 == 4096 && !isBlocking (g.words.getD (q.1 % n) 0) && on.contains (q.1 % n) && !ys.contains (groupHead code (q.1 % n)) with
    | some q => longYields g code t on k (ys ++ [groupHead code (q.1 % n)])
    | none => ys

/-- The YIELDs of the back-edge at record `b`, if it is one, added to those already placed. -/
def yieldsOf (code : List RpfWord) (b : Nat) (x : RpfWord) (ys : List Nat) : List Nat :=
  if !(namesPacket x.word && pipeOf x.word == .scalar && fld x.word 25 6 != 0x00) then ys
  else
    let ps := placeItems 0 (rpfItems code ys)
    let g := flowOf code ps
    match g.dest b with
    | none => ys
    | some t =>
      if b < t then ys
      else
        let n := code.length
        let head := groupHead code b
        let free := flowRuns (g.passAll ys (g.sums ys (n + 1)) true) (2 * n) [(t, 0)]
        let reached := free.any fun q => q.1 % n == b
        let ys := if reached ∧ ¬ ys.contains head then ys ++ [head] else ys
        longYields g code t (g.leads b n [b]) n ys
/-- The records before which the translator inserts a YIELD. -/
def allYields (code : List RpfWord) : List Nat := code.zipIdx.foldl (fun ys q => yieldsOf code q.2 q.1 ys) []

/-! ## Chaining (R87, step 3) -/

/-- The registers that a word reads (numbered as `writesOf`), EXEC among them. -/
def readsOf (w : Nat) : List Nat :=
  let f := fld w 20 5
  let a := fld w 6 6
  let b := fld w 0 6
  let ex := specialKey 0
  let pairAt (n : Nat) : List Nat := [scalarKey n, scalarKey (n + 1)]
  let mem : List Nat := ex :: (pairAt (fld w 2 5) ++ vectorKeys (fld w 7 6) 1)
  match fld w 25 6 with
  | 0x00 => match f with
    | 2 => [scalarKey 30]
    | 6 => [specialKey 21, specialKey 22]
    | 7 => [ex]
    | _ => []
  | 0x01 =>
    let c := fld w 22 3
    let r := fld w 17 5
    if c = 0 then [] else if c ≤ 2 then [scalarKey r] else [predKey r, ex]
  | 0x03 =>
    if f = 21 ∨ f = 22 then pairAt a ++ pairAt b
    else if 15 ≤ f ∧ f ≤ 17 then [scalarKey a] else [scalarKey a, scalarKey b]
  | 0x04 | 0x05 | 0x06 | 0x07 | 0x08 | 0x0A => [scalarKey (fld w 15 5)]
  | 0x0B => pairAt (fld w 15 5)
  | 0x0C => scalarKey f :: pairAt (fld w 15 5)
  | 0x0D => if f = 0 then pairAt (fld w 15 5) else []
  | 0x0E => if f = 0 then [specialKey (fld w 0 10)] else [scalarKey (fld w 15 5)]
  | 0x10 => ex :: (match f with
    | 17 | 18 | 19 => vectorKeys a 1
    | 23 | 24 => vectorKeys a 2 ++ vectorKeys b 2
    | _ => vectorKeys a 1 ++ vectorKeys b 1)
  | 0x11 => ex :: vectorKeys (fld w 8 6) 1
  | 0x12 =>
    let k := if 18 ≤ f ∧ f ≤ 22 then 2 else 1
    ex :: (vectorKeys a k ++ (if f = 5 ∨ f = 6 then [] else vectorKeys b k))
  | 0x13 =>
    let k := if fld w 23 2 = 3 then 2 else 1
    ex :: (vectorKeys (fld w 11 6) k ++ vectorKeys (fld w 5 6) k ++ vectorKeys (fld w 0 5) k)
  | 0x14 => ex :: (vectorKeys a 1 ++ vectorKeys b 1)
  | 0x15 => ex :: vectorKeys a (if f = 11 then 1 else 2 ^ fld w 18 2)
  | 0x16 | 0x19 | 0x1B => ex :: vectorKeys a 1
  | 0x17 => match f with
    | 0 => ex :: vectorKeys a (2 ^ fld w 18 2)
    | 1 => [ex, scalarKey a]
    | 3 => vectorKeys a 1
    | 4 => [scalarKey a]
    | 5 => ex :: vectorKeys a 1
    | _ => [ex]
  | 0x18 => ex :: (if f = 0 then vectorKeys a 1 ++ vectorKeys b 1 else vectorKeys (fld w 8 6) 1)
  | 0x1A => [ex, predKey a]
  | 0x1C => match f with
    | 0 | 1 | 2 | 3 => [predKey a, predKey b]
    | 7 => [ex]
    | 8 => [scalarKey a]
    | 10 | 11 => [ex, predKey a]
    | _ => [predKey a]
  | 0x20 => mem
  | 0x21 => mem ++ vectorKeys (fld w 13 6) (2 ^ fld w 19 2)
  | 0x22 => mem ++ vectorKeys (fld w 13 6) (2 ^ fld w 19 2 + (if fld w 0 2 = 2 then 1 else 0))
  | 0x23 => scalarKey (fld w 7 6) :: pairAt (fld w 2 5)
  | 0x24 =>
    let s := fld w 15 5
    if f = 1 ∨ f = 5 then (if w.testBit 0 then pairAt s else [scalarKey s]) else [scalarKey s, scalarKey (fld w 10 5)]
  | 0x25 => (List.range 8).map fun i => scalarKey (fld w 15 5 + i)
  | 0x26 => pairAt (fld w 15 5)
  | 0x27 => if f = 0 then scalarKey (fld w 10 5) :: pairAt (fld w 15 5)
    else if f ≤ 2 then scalarKey (fld w 10 5) :: pairAt (fld w 15 5) else [scalarKey (fld w 15 5)]
  | 0x28 => ex :: (vectorKeys (fld w 12 6) 4 ++ vectorKeys a 1)
  | 0x30 => [ex, tileKey (fld w 17 2), scalarKey (fld w 10 5), scalarKey (fld w 5 5)]
  | 0x31 => [ex, tileKey (fld w 15 2), scalarKey (fld w 10 5), scalarKey (fld w 5 5)]
  | 0x32 => ex :: (match fld w 21 4 with
    | 0 => []
    | 4 => [tileKey (fld w 15 2)]
    | _ => tileKey (fld w 17 2) :: scalarKey (fld w 5 5) :: (if w.testBit 4 then pairAt (fld w 10 5) else [scalarKey (fld w 10 5)]))
  | 0x33 => [ex, tileKey (fld w 17 2), scalarKey (fld w 10 5), scalarKey (fld w 5 5)]
  | 0x34 => ex :: (if fld w 21 4 = 2 then [scalarKey (fld w 5 5)] else [])
  | 0x38 => [specialKey 9]
  | 0x3A => if f = 2 then [scalarKey (fld w 10 5), scalarKey (fld w 5 5)] else if f = 0 then pairAt (fld w 15 5) else []
  | _ => []

/-- Whether a word reads a special register that a word before it changes beside its destinations: CFSIG, which every
folded word changes; the flags of FPMODE and WSTAT, which vector and SFU words raise, and MBUSY; RSIG, which a write of
EXEC folds into; SSIG, which memory and matrix words fold into; and for a WAITC the counters that a word raises.
DEDUCED (log 29). -/
def readsFlags (w : Nat) (before : Nat) : Bool :=
  let p := pipeOf before
  let get (i : Nat) : Bool := fld w 25 6 == 0x0E && fld w 20 5 == 0 && fld w 0 10 == i
  ((fld w 25 6 == 0x38 || get 6) && folds before)
    || ((get 4 || get 5) && (p == .vector || p == .sfu))
    || ((get 5 || fld w 25 6 == 0x0F) && p == .matrix)
    || (fld w 25 6 == 0x0F && (p == .memory || fld before 25 6 == 0x3A))
    || (get 7 && (writesOf before).contains (specialKey 0))
    || (get 8 && (p == .memory || p == .matrix))

/-- Whether the next word may join a group of words already chained (R67, R87). -/
def mayChain (grp : List Nat) (next : RpfItem) : Bool :=
  let w := next.word
  let decodes (w : Nat) : Bool := match decodeWord w with
    | .ok _ => true
    | .error _ => false
  !next.nochain && !grp.any (readsFlags w) && decodes w && grp.all decodes
    && decide ((grp.countP fun v => pipeOf v == pipeOf w) < (pipeOf w).instances)
    && !((writesOf w).any fun k => grp.any fun v => (writesOf v).contains k)
    && !((readsOf w).any fun k => grp.any fun v => (writesOf v).contains k)

/-- The words with their chain bits; `grp` is the group that the first of them belongs to. -/
def chainItems (grp : List Nat) : List (Nat × RpfItem) → List (Nat × RpfItem)
  | [] => []
  | [x] => [x]
  | (p, x) :: (q, y) :: rest =>
    let g := grp ++ [x.word]
    if q = p + 1 ∧ p / 3 = q / 3 ∧ !endsGroup x.word ∧ mayChain g y then
      (p, { x with word := x.word % 2 ^ 31 + 2 ^ 31 }) :: chainItems g ((q, y) :: rest)
    else (p, x) :: chainItems [] ((q, y) :: rest)

/-! ## Relocation and signatures (R87, step 4; R342) -/

/-- The low `n` bits of `w` replaced. -/
def putLow (w n v : Nat) : Nat := w / 2 ^ n * 2 ^ n + v % 2 ^ n
/-- The first byte of the data section: the first multiple of 4,096 after the last packet (R82). -/
def dataBase (npkt : Nat) : Nat := (12 * npkt + 4095) / 4096 * 4096

/-- A word relocated (R84), or the mark of a packet offset that its field cannot hold. Under RELOC 5 the immediate is
hi() of the offset in the data section, as the table of R84 has it, not that offset in bytes. DEDUCED (log 29). -/
def relocWord (ps : List (Nat × RpfItem)) (code : List RpfWord) (npkt p : Nat) (x : RpfItem) : Option Nat :=
  match x.self with
  | none => some x.word
  | some i =>
    if isBranchReloc x.reloc then
      let n := relocBits x.reloc
      match labelPacket ps ((code.getD i (rpfWord 0)).target i).toNat with
      | none => none
      | some t =>
        let d := (t : Int) - (p / 3 : Nat)
        if -(2 ^ (n - 1) : Nat) ≤ d ∧ d < (2 ^ (n - 1) : Nat) then some (putLow x.word n (d % (2 ^ n : Nat)).toNat) else none
    else if x.reloc = 5 then some (putLow x.word 20 (x.word % 2 ^ 20 + dataBase npkt / 4096))
    else if x.reloc = 6 then some (putLow x.word 15 (x.word % 4096))
    else some x.word

/-- Whether a word is a SIGCHK or a SIGSET. -/
def isSigchk (w : Nat) : Bool := fld w 25 6 == 0x38 && fld w 20 5 == 0
def isSigset (w : Nat) : Bool := fld w 25 6 == 0x38 && fld w 20 5 == 1
/-- The value that CFSIG is known to have after a word, and the word with its immediate rewritten: known along
a straight run of records from the entry word, a SIGCHK or a SIGSET on, with no TGT record after the first. -/
def sigStep (code : List RpfWord) (entry : Nat) (sig : Option Word) (x : RpfItem) : Option Word × Nat :=
  match x.self with
  | none => (sig, x.word)
  | some i =>
    let before : Option Word := if i = entry then some 0 else if (code.getD i (rpfWord 0)).tgt then none else sig
    if isSigchk x.word then
      (some 0, match before with
        | some v => putLow x.word 20 v.toNat
        | none => x.word)
    else if isSigset x.word then (some (BitVec.ofNat 32 (x.word % 2 ^ 20)), x.word)
    else if isTransfer x.word then (none, x.word)
    else (before.map fun v => if folds x.word then foldCf v x.word else v, x.word)
/-- The words with their SIGCHK immediates rewritten. -/
def sigItems (code : List RpfWord) (entry : Nat) (sig : Option Word) : List (Nat × RpfItem) → List (Nat × RpfItem)
  | [] => []
  | (p, x) :: rest =>
    let r := sigStep code entry sig x
    (p, { x with word := r.2 }) :: sigItems code entry r.1 rest

/-! ## The finalised image -/

/-- What the translator makes of an image: code words by slot, packets, the entry packet, and the data words. -/
structure RpfFinal where
  words : List (Nat × Nat)
  npkt : Nat
  entry : Nat
  data : List Nat
  metas : List (Nat × Nat)
  deriving DecidableEq, Repr

/-- The bytes of a finalised image that are not those of NOP or padding: each with its offset. -/
def RpfFinal.bytes (f : RpfFinal) : List (Nat × List Byte) :=
  (f.words.map fun q => (4 * q.1, bytesOfNat 4 q.2)) ++ f.data.zipIdx.map fun q => (dataBase f.npkt + 4 * q.2, bytesOfNat 4 q.1)
/-- Bytes that the image's run takes. -/
def RpfFinal.size (f : RpfFinal) : Nat := if f.data.isEmpty then 12 * f.npkt else dataBase f.npkt + 4 * f.data.length

/-- The translator: a finalised image, or the status by which the launch fails (R86, R349). Where several
conditions hold, the first in the order of R86. Without a record of MTYPE 8 the entry is the first instruction, and an
entry is entered at slot 0 of its packet. DEDUCED (log 29). -/
def finalise (rs : List Nat) : Except Nat RpfFinal :=
  match rpfParts rs with
  | none => .error 2
  | some im =>
    let code := im.code.map rpfWord
    if code.any fun x => x.word.testBit 31 then .error 3
    else if !(code.zipIdx.all fun q => targetOk code q.2 q.1) then .error 4
    else if !im.metasOk then .error 5
    else
      let ps := placeItems 0 (rpfItems code (allYields code))
      let npkt := packetsOf ps
      let entryRec := match im.meta 8 with
        | some r => r - (1 + im.metas.length)
        | none => 0
      let okEntry := match im.meta 8 with
        | some r => decide (1 + im.metas.length ≤ r)
        | none => true
      if 2 ^ 30 < npkt ∨ 2 ^ 30 < im.data.length then .error 6
      else
        let moved := ps.map fun q => (relocWord ps code npkt q.1 q.2).map fun w => (q.1, { q.2 with word := w })
        if moved.any (·.isNone) then .error 4
        else
          let chained := chainItems [] (sigItems code entryRec none (moved.filterMap id))
          .ok { words := chained.map fun q => (q.1, q.2.word), npkt := npkt
                entry := if okEntry then (recordPacket ps entryRec).getD npkt else npkt
                data := im.data.map recValue, metas := im.metas }

end Sys2Proof.Machine
end

