-- ==== Sys2Proof/Machine/Span.lean ====
section
/-! DEFINITION. Checked execution: the seal, the end of a span, shadow and tiebreak runs, the vote, commits
and containment (R318 to R338, R396). -/

namespace Sys2Proof.Machine

/-! ## The seal (R326) -/

/-- The entries of a seal range: the named vectors, then those of each tile. -/
def sealEntries (g : Seal) (vbnd : Nat) : List Nat :=
  (List.range g.count).map (g.first + ·) ++
    [0, 1, 2].flatMap fun t => if g.tiles.getLsbD t then (List.range 512).map (vbnd + 512 * t + ·) else []
/-- The seal range set; in a checked block the span ends (R320, R326). -/
def sealTo (g : Seal) (s : State) : Out :=
  match [0, 1, 2].find? fun t => g.tiles.getLsbD t && decide (s.snap.vcount.toNat ≤ s.snap.vbnd.toNat + 512 * t + 511) with
  | some t => takeTrap causeTileRange (BitVec.ofNat 32 t) (s.snap.vbnd.setWidth 32) s
  | none => ((s.onWarp fun w => { w with sealed := g }).closeSpan .none none).ok

/-- SEAL with vectors (R326): N = 0 stands for 64. -/
def execSeal (d n : BitVec 6) (t : BitVec 3) (s : State) : Out :=
  let k := if n = 0 then 64 else n.toNat
  s.vnames [(d.toNat, k)] <| sealTo { first := d.toNat, count := k, tiles := t } s
/-- SEAL.NOVEC (R326). -/
def execSealNovec (t : BitVec 3) (s : State) : Out := sealTo { tiles := t } s

/-! ## Checkpoints and the register signature (R323, R324) -/

/-- The checkpoint of a warp as it stands. -/
def Warp.checkpoint (w : Warp) : Checkpoint :=
  { sealed := w.sealed
    entries := (sealEntries w.sealed w.regs.vbnd.toNat).foldl (fun m n => SMap.put m n (w.regs.entry n)) []
    regs := { w.regs with win := [] }
    pc := w.pc
    handler := w.handler
    stack := w.stack
    nest := w.nest.map Nest.saved
    batch := w.batch
    latch := w.latch
    depositSeq := w.depositSeq
    hbase := w.hbase }
/-- RSIG folded at a span's end. -/
def foldSeal (w : Warp) : Word :=
  let r := w.regs
  let x := r.s.toList.zipIdx.foldl (fun x q => foldSig x q.1 (BitVec.ofNat 32 (0x1000 + q.2))) r.rsig
  let x := r.p.toList.zipIdx.foldl (fun x q => foldSig x q.1 (BitVec.ofNat 32 (0x1020 + q.2))) x
  let x := foldSig (foldSig x r.exec 0x1028) (r.part.setWidth 32) 0x1029
  let es := (sealEntries w.sealed r.vbnd.toNat).foldl (fun m n => SMap.put m n (r.entry n)) []
  es.foldl (fun x e => e.2.toList.foldl (fun x v => foldSig x v (BitVec.ofNat 32 e.1)) x) x

/-! ## The end of a span (R321, R322) -/

/-- Bytes of records that the log of a warp can still take, and whether its span must end (R321, R332). -/
def forcedDue (logsz : Nat) (w : Warp) : Bool :=
  decide (2 ^ 24 ≤ w.span.groups) || (w.regs.chkrole == 1 && decide (logsz < w.span.used))
/-- Whether a span that is ending may end: every counter is 0 and no access is outstanding. -/
def Warp.drained (w : Warp) : Bool := w.regs.cnt == {} && w.out.isEmpty && w.park != .verdict
/-- What a run reports (R335). -/
def Warp.spanRec (w : Warp) : SpanRec :=
  { uid := w.uid, core := w.regs.coreid.toNat, ssig := w.regs.ssig, rsig := foldSeal w, differs := w.span.stopped
    trap := w.span.trap, incomplete := w.span.incomplete, closing := w.span.closing, last := w.span.last
    endState := w.checkpoint }

/-! ## The check area (R318, R322, R331, R332) -/

/-- The words of a log record: its header, then its payload (R331). -/
def LogRec.image (r : LogRec) : List Word := BitVec.ofNat 32 (r.kind * 2 ^ 28 + r.words.length) :: r.words
/-- The words of a checkpoint, in the order in which R323 lists what it holds. DESIGN CHOICE (log 23). -/
def Checkpoint.image (k : Checkpoint) : List Word :=
  let r := k.regs
  let stack := k.stack.flatMap fun e => [if e.deferred then 1 else 0, e.pc.word, e.mask]
  let nest := match k.nest with
    | some n => BitVec.ofNat 32 n.remain :: n.desc ++ n.tuple.map (BitVec.ofNat 32)
    | none => []
  let latch := match k.latch with
    | some l => [BitVec.ofNat 32 l.cause, l.info0, l.info1]
    | none => []
  k.entries.flatMap (fun e => e.2.toList) ++ r.s.toList ++ r.p.toList ++
    [r.exec, r.part.setWidth 32, r.vbnd.setWidth 32, r.fpmode, r.wstat.setWidth 32, r.cfsig, r.trapPc, r.trapMask, r.trapCause, r.trapInfo0,
      r.trapInfo1, k.pc.word, k.batch, BitVec.ofNat 32 k.stack.length] ++ stack ++ [BitVec.ofNat 32 nest.length] ++ nest ++
    [BitVec.ofNat 32 latch.length] ++ latch
/-- Room for one checkpoint in the check area. DESIGN CHOICE (log 23). -/
def checkpointRoom : Nat := 262144
/-- Words of a grid's check area written where they translate. -/
def State.putCheck (s : State) (ctx va : Nat) (ws : List Word) : State :=
  ws.zipIdx.foldl (fun s q => s.putCtxBytes ctx (va + 4 * q.2) (bytesOfNat 4 q.1.toNat)) s
/-- The replay log and the end checkpoint of a span put in the check area: the log buffers of the grid's warps, in the
order of their blocks, then as many checkpoints. DESIGN CHOICE (log 23). -/
def State.writeCheck (s : State) (w : Warp) : State :=
  let l := (s.grid w.grid).launch
  let n := s.linearBlock w * l.warps + w.regs.wid.toNat
  let all := l.gx * l.gy * l.gz * l.gang * l.warps
  (s.putCheck w.ctx (l.chkarea + n * l.logsz) ((w.span.log.flatMap LogRec.image).take (l.logsz / 4))).putCheck w.ctx
    (l.chkarea + all * l.logsz + n * checkpointRoom) w.checkpoint.image

/-- The primary's log at its span's end: M is 0 there, so that this wait too covers the entries that none before it has
covered, and their tiles end the log (R322, R331). They stay in flight, and the wait that covers them in a later span
records them for that span's runs. DEDUCED (log 23). -/
def Warp.closeLog (w : Warp) : Warp :=
  { w with span := { w.span with log := w.span.log ++ (w.flights.filter w.recordsTile).map MEntry.tileRec } }
/-- SPAN_END: the span of the checked primary in the focus ends: its log and end checkpoint go to the check area and the
span record to Hazel, and the warp parks for the verdict (R322). A wait for a held store is a blocking point (R328). -/
def execEvSpanEnd (s : State) : Out :=
  let w := s.warp
  .next (if w.regs.chkrole = 1 ∧ w.span.ending ∧ (w.park = .held ∨ ¬ w.park.blocking) then
    if w.drained then
      let w := w.closeLog
      let v : Vote := { primary := w.spanRec, ctx := w.ctx, grid := w.grid, span := w.regs.spanno
                        escaped := w.span.escaped, scratch := w.span.scratch, released := w.span.released
                        start := w.span.start, log := w.span.log, flights := w.span.flights, gen := w.span.gen, bank := w.span.bank
                        groups := w.span.groups, slots := w.span.slots }
      let t := s.writeCheck w
      { t with warp := { t.warp with park := .verdict }, votes := t.votes ++ [v] }.holdFocus
    else if w.park = .ready ∧ w.out.any (·.waits) then (s.onWarp fun w => { w with park := .held }).holdFocus
    else s
  else s)

/-- FORCED_SPAN_END: the hardware ends the span of the checked warp in the focus (R321). -/
def execEvForcedSpanEnd (s : State) : Out :=
  let gr := s.grid s.warp.grid
  .next (if s.warp.regs.chkrole ≠ 0 ∧ forcedDue gr.launch.logsz s.warp then
    s.onWarp fun w => { w with span := { w.span with ending := true } } else s)

/-! ## Placing a run (R335) -/

/-- The warps that hold a slot and a window of a core: an exited one has released them (R127). -/
def State.onCoreWarps (s : State) (core : Nat) : List Warp :=
  s.warps.filter fun w => w.park != .vacant && w.park != .exited && w.regs.coreid.toNat == core
/-- The lowest free warp slot of a core. -/
def freeSlot (ws : List Warp) : Option Nat := (List.range 32).find? fun i => ws.all fun w => w.slot != i
/-- The first place for a window of `n` entries in a core's pool, clear of windows and of entries out of
use (R91). -/
def freeWindow (ws : List Warp) (bad : List Nat) (n : Nat) : Option Nat :=
  let ends := 0 :: (ws.map fun w => w.window + w.regs.vcount.toNat) ++ bad.map (· + 1)
  ends.find? fun b => decide (b + n ≤ 4096)
    && ws.all (fun w => decide (b + n ≤ w.window) || decide (w.window + w.regs.vcount.toNat ≤ b))
    && bad.all fun e => decide (e < b) || decide (b + n ≤ e)
/-- Retired pool entries of a core (R438): their places are core × 4,096 + entry. -/
def State.badEntries (s : State) (core : Nat) : List Nat :=
  s.retiredUnits.filterMap fun u => if u.1 = 0 ∧ u.2 / 4096 = core then some (u.2 % 4096) else none

/-- The cores that may take a run: not fenced, with a slot and a window, outside the clusters to avoid. -/
def State.runCores (s : State) (n : Nat) (avoid : List Nat) : List Nat :=
  (List.range 768).filter fun c =>
    !avoid.contains (clusterOfCore c) && !(s.core c).fenced && (freeSlot (s.onCoreWarps c)).isSome
      && (freeWindow (s.onCoreWarps c) (s.badEntries c) n).isSome
/-- The core for a run: on another die than the primary's where one can take it, else on another cluster of
that die; which of them is not fixed. -/
def State.chooseCore (s : State) (n primary : Nat) (avoid : List Nat) : Option Nat :=
  let all := s.runCores n avoid
  let die := dieOfCluster (clusterOfCore primary)
  let far := all.filter fun c => dieOfCluster (clusterOfCore c) != die
  let near := all.filter fun c => dieOfCluster (clusterOfCore c) == die
  let l := if far.isEmpty then near else far
  l[Config.freeChoice s.fresh % l.length]?

/-- A run started from the span's checkpoint, every other entry a marker (R323, R335). -/
def State.startRun (s : State) (v : Vote) (role : BitVec 2) (core : Nat) : State :=
  let p := (s.warpOf v.primary.uid).getD {}
  let k := v.start
  let w : Warp :=
    { uid := s.nextUid, ctx := v.ctx, grid := v.grid, gang := p.gang, slot := (freeSlot (s.onCoreWarps core)).getD 0
      window := (freeWindow (s.onCoreWarps core) (s.badEntries core) p.regs.vcount.toNat).getD 0
      regs := { k.regs with win := k.entries, chkrole := role, coreid := BitVec.ofNat 10 core, cnt := {}, ssig := 0, rsig := 0 }
      pc := k.pc, park := .ready, handler := k.handler, hbase := k.hbase, stack := k.stack, nest := k.nest, latch := k.latch
      batch := k.batch, sealed := k.sealed, depositSeq := k.depositSeq
      span := { start := k, limit := some (v.groups + if v.primary.trap.isSome then 1 else 0), log := v.log
                gen := v.gen, bank := v.bank, slots := v.slots }
      flights := v.flights.map fun e => { e with uid := s.nextUid }
      privBase := p.privBase, privSize := p.privSize, primary := p.uid }
  { s with others := s.others ++ [{ w with age := s.fresh }], nextUid := s.nextUid + 1 }.tick

/-- Whether two runs agree: the same signatures, or the same trap at the same group (R335, R396). -/
def agrees (a b : SpanRec) : Bool :=
  !a.differs && !b.differs && a.trap == b.trap && (a.trap.isSome || (a.ssig == b.ssig && a.rsig == b.rsig))

/-- Vote `m` changed. -/
def State.onVote (s : State) (m : Nat) (f : Vote → Vote) : State := { s with votes := s.votes.modify m f }

/-- SPAN_RECORD: Hazel schedules the shadow of vote `m`, or its tiebreak once the shadow differs, where a
core can take it (R335). -/
def execEvSpanRecord (s : State) : Out :=
  .next (match s.votes[s.ev.m]? with
    | none => s
    | some v =>
      let n := v.primary.endState.regs.vcount.toNat
      match v.shadowCore, v.shadow with
      | none, _ =>
        match s.chooseCore n v.primary.core [clusterOfCore v.primary.core] with
        | some c => (s.startRun v 2 c).onVote s.ev.m fun v => { v with shadowCore := some c }
        | none => s
      | some sc, some r =>
        if v.tieCore.isSome ∨ v.winner.isSome ∨ agrees v.primary r then s
        else match s.chooseCore n v.primary.core [clusterOfCore v.primary.core, clusterOfCore sc] with
          | some c => (s.startRun v 3 c).onVote s.ev.m fun v => { v with tieCore := some c }
          | none => s
      | some _, none => s)

/-! ## Verdicts (R335 to R338, R396) -/

/-- The closing store or arrival of the winning run, performed last (R275). -/
def performLast (ag : Agent) (a : Access) (s : State) : State :=
  let va := (a.lanes.head?.map (·.va)).getD 0
  match a.kind with
  | .barrive true => s.peerArrive ag ((va - peerBase) / sramSize) ((va - peerBase) % sramSize)
  | .barrive false => onObject { ag with stamp := a.stamp } a (fun o t => latchObject ag a 1 (t.arrive o)) s
  | _ =>
    let (t, ls) := s.touchLanes { ag with stamp := a.stamp } a.lanes
    let (t, ls) := t.freeData ls
    { { t with ev := {} }.performStores ag.unheld a ls with ev := t.ev }

/-- The verdict PASS reaches the primary: the next span begins, and it goes on as its closing instruction
says (R322). -/
def passPrimary (v : Vote) (r : SpanRec) (s : State) : State :=
  let uid := v.primary.uid
  let ag := ((s.warpOf uid).getD {}).agent
  let s := match r.last with
    | some a => performLast ag a s
    | none => s
  let c := s.ctx v.ctx
  let s := s.onUid uid fun w =>
    let w := { w with regs := { w.regs with spanno := w.regs.spanno + 1, ssig := 0, rsig := 0 } }
    { w with span := { start := w.checkpoint, gen := c.gen.toNat, bank := c.bank, flights := w.flights } }
  match r.closing with
  | .none => s.onUid uid Warp.wake
  | .bsync => match s.warpOf uid with
    | some w => s.arriveBsync w
    | none => s
  | .gsync id => match s.warpOf uid with
    | some w => s.arriveGsync w id
    | none => s
  | .exit => s.onUid uid fun w => { w with park := .exiting }

/-- The record of a vote: its kind and scope, and the winning role. -/
def State.voteRec (s : State) (v : Vote) (kind scope winner : Nat) : FaultRec :=
  let w := (s.warpOf v.primary.uid).getD {}
  s.gridRec v.grid kind scope
    (s.spanWords w v.span [some v.primary.core, v.shadowCore, v.tieCore] winner v.escaped v.scratch v.released)

/-- Whether the closing store of a run finds room for its pushes (R212). -/
def State.roomForLast (s : State) (v : Vote) (r : SpanRec) : Bool :=
  match r.last with
  | some a => a.lanes.all fun l => match s.queueOf v.ctx a l with
    | some (.fifo cl seg) => !s.fifoFull cl seg
    | _ => true
  | none => true
/-- Vote `m` is over once every line of its winner has been committed and the closing store's pushes have room; where the shadow has won a span that wrote scratch, the
grid is then contained (R335, R338). -/
def finishVote (m : Nat) (s : State) : State :=
  match s.votes[m]? with
  | some v =>
    match v.winner with
    | some u =>
      if s.versions.any fun x => x.uid == u && x.span == v.span then s
      else if u ≠ v.primary.uid ∧ v.scratch then s.loseGridWith v.grid (s.voteRec v 10 2 2)
      else
        let r := if u = v.primary.uid then v.primary else v.shadow.getD v.primary
        if !s.roomForLast v r then s else passPrimary v r { s with votes := s.votes.eraseIdx m }
    | none => s
  | none => s

/-- The versions of the span's runs other than the winner's discarded. -/
def State.discardRuns (s : State) (v : Vote) (keep : Option Nat) : State :=
  let uids := (v.primary :: v.shadow.toList ++ v.tie.toList).map (·.uid)
  { s with versions := s.versions.filter fun x => !(uids.contains x.uid && x.span == v.span && some x.uid != keep) }

/-- The primary's window and state rewritten from the shadow's end checkpoint (R336); the latches of R105 belong to no
checkpoint, and stay those of the samples that the primary read. A tile in flight is what the window now holds. -/
def Warp.rewrite (w : Warp) (k : Checkpoint) : Warp :=
  let r := { k.regs with
    win := k.entries
    chkrole := w.regs.chkrole
    coreid := w.regs.coreid
    spanno := w.regs.spanno
    wstat := k.regs.wstat ||| wsREPLAYED
    cnt := w.regs.cnt
    clkHi := w.regs.clkHi
    dtbHi := w.regs.dtbHi }
  { w with
    regs := r
    flights := w.flights.map fun (e : MEntry) => (match e.dst with
      | some d => { e with tile := r.tileWords d }
      | none => e)
    hbase := k.hbase
    pc := k.pc
    handler := k.handler
    stack := k.stack
    nest := k.nest
    latch := k.latch
    batch := k.batch
    sealed := k.sealed
    ibuf := none }

/-- Containment that a vote orders: the grid lost, or its address space torn down, with the one record. -/
def State.containGrid (s : State) (v : Vote) (r : FaultRec) : State := s.loseGridWith v.grid r
def State.containCtx (s : State) (v : Vote) (r : FaultRec) : State := (s.removeCtx v.ctx).report r
/-- A trap that a vote confirms loses the grid (R396, R399). -/
def State.containTrap (s : State) (v : Vote) (r : SpanRec) : State :=
  let w := (s.warpOf v.primary.uid).getD {}
  s.loseGridWith v.grid (s.gridRec v.grid (if r.endState.handler then 2 else 1) 2
    (r.endState.regs.trapWords ++ s.warpWords w))

/-- The verdict on vote `m` once its shadow, and where they differ its tiebreak, has ended.
DEDUCED (log 23). -/
def judge (m : Nat) (s : State) : State :=
  match s.votes[m]? with
  | none => s
  | some v =>
    match v.shadow with
    | none => s
    | some sh =>
      let incomplete := sh.incomplete || (v.tie.map (·.incomplete)).getD false
      if v.winner.isSome then s
      else if incomplete then s.containGrid v (s.voteRec v 11 2 0)
      else if agrees v.primary sh then
        if v.primary.trap.isSome then s.containTrap v v.primary
        else finishVote m ((s.discardRuns v (some v.primary.uid)).onVote m fun v => { v with winner := some v.primary.uid })
      else match v.tie with
        | none => s
        | some t =>
          let win := if agrees t v.primary then 1 else if agrees t sh then 2 else 0
          let s := match win with
            | 1 => s.charge sh.core 8
            | 2 => s.charge v.primary.core 8
            | _ => s
          let commit (u : Nat) (s : State) : State := (s.discardRuns v (some u)).onVote m fun v => { v with winner := some u }
          let pass (u : Nat) (f : State → State) : State := finishVote m (f (commit u (s.report (s.voteRec v 5 1 win))))
          if win = 1 ∧ v.primary.trap.isSome then s.containTrap v v.primary
          else if win = 2 ∧ sh.trap.isSome then s.containTrap v sh
          else if v.escaped then s.containCtx v (s.voteRec v 7 3 win)
          else if v.released then s.containCtx v (s.voteRec v 8 3 win)
          else if win = 1 then pass v.primary.uid id
          else if win = 2 then
            if v.scratch then finishVote m (commit sh.uid s)
            else pass sh.uid fun s => s.onUid v.primary.uid fun w => w.rewrite sh.endState
          else s.containCtx v (s.voteRec v 9 3 0)

/-- RUN_END: the shadow or tiebreak in the focus ends its span; Hazel compares and gives the verdict where
it can (R331, R335). -/
def execEvRunEnd (s : State) : Out :=
  let w0 := s.warp
  .next (if 2 ≤ w0.regs.chkrole.toNat ∧ w0.span.ending ∧ (w0.drained ∨ w0.span.stopped) then
    match s.coverRoom w0.flights with
    | (t, false) => t
    | (t, true) =>
    let (t, bad) := (t.onWarp fun w => { w with flights := [] }).coverShadow w0.flights
    let w := t.warp
    let r := { w.spanRec with differs := w.span.stopped || bad }
    match t.votes.findIdx? fun v => v.primary.uid == w.primary && v.span == w.regs.spanno with
    | some m =>
      let t := { t with warp := {} }.onVote m fun v =>
        if w.regs.chkrole = 2 then { v with shadow := some r } else { v with tie := some r }
      judge m t
    | none => { t with warp := {}, versions := t.versions.filter fun x => x.uid != w.uid }
  else s)

/-- COMMIT: one line of vote `m`'s winner is committed, the `n`-th of those that remain, once its pool holds all tokens of
the line; the lines of the store that ends the span come after the others, and with the last line the verdict is given
(R229, R275, R329). -/
def execEvCommit (s : State) : Out :=
  .next (match s.votes[s.ev.m]? with
    | some v =>
      match v.winner with
      | some u =>
        let all := s.versions.filter fun x => x.uid == u && x.span == v.span
        let early := all.filter fun x => !x.last
        let mine := if early.isEmpty then all else early
        match mine[s.ev.n]?.or mine.head? with
        | some x => finishVote s.ev.m (s.tryCommit x)
        | none => finishVote s.ev.m s
      | none => s
    | none => s)

end Sys2Proof.Machine
end

