-- ==== Sys2Proof/Machine/Nodes.lean ====
section
/-! DEFINITION. The work of nodes: launches, copies, chains, bundles, signals, snapshots, the deposit sort,
and completion (R347 to R359, R413, R418). -/

namespace Sys2Proof.Machine

/-- Node `h` with its status decided. -/
def State.finishNode (s : State) (h status : Nat) : State := s.onNode h fun n => { n with finish := n.finish.or (some status) }
/-- The ready node at `m` of a type, with no status yet, given to `f`; one that inherits a failure and does not
run completes with PRED_FAILED (R348). -/
def withReady (type : Nat) (runsFailed : Bool) (s : State) (f : Nat → Node → Out) : Out :=
  match SMap.find s.nodes s.ev.m with
  | none => .next s
  | some n =>
    if n.phase ≠ .ready ∨ n.type ≠ type ∨ n.finish.isSome then .next s
    else if n.inherited ≠ 0 ∧ ¬ runsFailed then .next (s.finishNode s.ev.m 9)
    else f s.ev.m n

/-! ## Completion (R347, R348, R354) -/

/-- A successor's count goes down by one, or a credit is kept; below 0 it is undefined in the sense of R3 for the
context, a free value (R347). DESIGN CHOICE (log 32). -/
def decrement (ctx : Nat) (id : Word) (status : Nat) (nrun : Option Nat) (past : List Nat) (s : State) : State :=
  match s.findNode ctx id with
  | none => { s with credits := s.credits ++ [{ ctx := ctx, nodeid := id, status := status, nrun := nrun, past := past }] }
  | some h => (s.onNode h fun n => { n with
      unmet := if n.unmet = 0 then Config.freeChoice s.fresh % 2 ^ 16 else n.unmet - 1
      inherited := max n.inherited status
      nrun := n.nrun.or nrun
      past := n.past ++ past }).tick
/-- A member's completion reaches its bundle, which completes with its last member, by the worst of their
statuses (R354). -/
def State.memberOver (s : State) (n : Node) (status : Nat) : State :=
  match s.nodes.find? fun q => q.2.ctx == n.ctx && q.2.type == 3 && q.2.members.contains n.nodeid with
  | none => { s with credits := s.credits ++ [{ ctx := n.ctx, nodeid := n.nodeid, status := status, member := true, past := n.past }] }
  | some (h, _) => s.onNode h fun b =>
    let b := { b with ended := b.ended ++ [n.nodeid], worst := max b.worst status, past := b.past ++ n.past }
    if b.phase = .running ∧ b.members.all fun m => b.ended.contains m then { b with finish := b.finish.or (some b.worst) } else b

/-- A node's failure is recorded (R348); RESYNC_TOO_SMALL does not fail its node (R357). -/
def State.nodeFailed (s : State) (n : Node) (status : Nat) : State :=
  if status = 0 ∨ status = 12 then s
  else s.report { kind := 14, scope := 0, ctx := n.ctx, grid := (s.grid n.grid).gridid, node := n.nodeid
                  detail := [BitVec.ofNat 32 status, BitVec.ofNat 32 n.type] }

/-! ## Event records (R354, R356, R388) -/

/-- A record written by an engine for node `h`: it is performed later, and its node's successors come after it. -/
def State.addRecord (s : State) (h : Nat) (r : EvRecord) : State :=
  { s with records := s.records ++ [{ r with id := s.nextRecord }], nextRecord := s.nextRecord + 1 }.onNode h fun n =>
    { n with past := n.past ++ [s.nextRecord] }
/-- The record that an engine performs next taken off its list, and one changed. -/
def State.dropRecord (s : State) (r : EvRecord) : State := { s with records := s.records.filter fun x => x.id != r.id }
def State.onRecord (s : State) (r : EvRecord) (f : EvRecord → EvRecord) : State :=
  { s with records := s.records.map fun (x : EvRecord) => (if x.id = r.id then f x else x) }
/-- A fault record performed: written to the next slot of its queue, or dropped where the queue is full (R402, R403). A
context whose queue cannot be reached is torn down (R447). -/
def State.performFault (s : State) (r : EvRecord) (x : FaultRec) : State :=
  let q := if r.host then s.dev.hfq else (s.ctx r.ctx).fq
  let set (s : State) (q : Queue) : State := if r.host then s.onDev fun d => { d with hfq := q } else s.onCtx r.ctx fun c => { c with fq := q }
  if !q.registered then s.dropRecord r
  else if q.full then set (s.dropRecord r) q.drop
  else match if r.host then some (q.slot 64) else s.ctxPhys r.ctx (q.slot 64) true with
    | none => (s.dropRecord r).tearDown r.ctx 3
    | some pa => match s.askHomes r.ctx (linesOf pa 64) with
      | (t, false) => t
      | (t, true) =>
        let p := queuePut t.mem q pa (x.words t.dtb q.seq)
        (set ({ t with mem := p.1 }.dropRecord r) p.2.1).sendOpt p.2.2
/-- The places and bytes of the next write of an event record: the words that come first, a SIGNAL's value, by a store or
by one atomic add, and then the value that the add read. -/
def EvRecord.writes (r : EvRecord) (old : BitVec 64) : List (Nat × List Byte) :=
  match r.stage with
  | 0 => r.words.map fun q => (q.2.1, bytesOfNat 4 q.2.2.toNat)
  | 1 => [(r.pa, bytesOfNat 8 (if r.add then old + r.value else r.value).toNat)]
  | _ => [(r.pa + 24, bytesOfNat 8 r.old.toNat)]
/-- The next write of a record, at the homes of its lines once they hold all their tokens (R249, R251); with its last write a
SIGNAL sends its message (R354). -/
def State.performRecord (s : State) (r : EvRecord) : State :=
  match r.fault with
  | some x => s.performFault r x
  | none =>
    let old := BitVec.ofNat 64 (s.mem.readNat r.pa 8)
    let ws := r.writes old
    match s.askHomes r.ctx (ws.flatMap fun q => linesOf q.1 q.2.length) with
    | (t, false) => t
    | (t, true) =>
      let t := ws.foldl (fun t q => t.writePhys r.ctx none q.1 q.2) t
      if r.engine = 1 ∨ 2 ≤ r.stage then (t.dropRecord r).sendOpt r.msix
      else t.onRecord r fun x => { x with stage := x.stage + 1, old := if r.add ∧ r.stage = 1 then old else 0 }
/-- The next write of an engine's first record; the records of one engine are performed in the order of their nodes'
completions (R356). -/
def State.recordWrite (s : State) (engine : Nat) : State :=
  match s.records.find? fun r => r.engine == engine with
  | some r => s.performRecord r
  | none => s

/-- The places of `n` words of a context's structure, where every one can be written. -/
def State.ctxPlaces (s : State) (ctx va : Nat) : Nat → Option (List (Nat × Nat))
  | 0 => some []
  | n + 1 => match s.ctxPhys ctx va true, State.ctxPlaces s ctx (va + 4) n with
    | some a, some ps => some ((va, a) :: ps)
    | _, _ => none

/-- The completion record of a TIMED node whose record in Equinox is done, and with it the node's status; an
address that cannot be translated makes it RECORD_FAULT (R388). -/
def State.recordTimed (s : State) (h : Nat) : State :=
  match s.timed.find? fun t => t.node == h with
  | none => s
  | some t => match t.done with
    | none => s
    | some st =>
      let n := s.node h
      let bit (b : Bool) (k : Nat) : Nat := if b then 2 ^ k else 0
      let flags := bit t.late 0 + bit t.holdover 1 + bit t.lost 2 + bit t.straggler 3
      let ws : List Word := [BitVec.ofNat 32 st, BitVec.ofNat 32 flags, loHalf t.achieved, hiHalf t.achieved,
        loHalf s.dtb, hiHalf s.dtb, BitVec.ofNat 32 t.count, 0]
      let s := { s with timed := s.timed.filter fun x => x.node != h }
      match s.ctxPlaces n.ctx ((n.w 17).toNat + 2 ^ 32 * (n.w 18).toNat) 8 with
      | some ps => (s.addRecord h { id := 0, engine := 1, ctx := n.ctx, words := (ps.zip ws).map fun q => (q.1.1, q.1.2, q.2) }).onNode h
        fun x => { x with finish := some st }
      | none => s.onNode h fun x => { x with finish := some 14 }

/-- A node whose status is decided completes: its failure is recorded, it leaves the table, and its successors' counts
go down (R347, R348). -/
def State.completeNode (s : State) (h : Nat) : State :=
  match SMap.find s.nodes h with
  | none => s
  | some n => match n.finish with
    | none => s
    | some st =>
      let s := s.nodeFailed n st
      let n := s.node h
      let s := { s with
        nodes := SMap.del s.nodes h
        timed := s.timed.map fun (t : TimedRec) => (if t.action = 0 ∧ t.acted ∧ t.done = none ∧ t.target = n.ctx
          ∧ (s.node t.node).w 19 = n.nodeid then { t with done := some st } else t) }
      let s := if n.sub then s.memberOver n st else s
      let succs := ((List.range (min 8 n.nsucc)).map fun i => n.w (4 + i)).filter fun w => w != 0
      let cont := if n.type = 0 then n.w 57 else 0
      let s := succs.foldl (fun s id =>
        decrement n.ctx id (if st = 12 then 0 else st) (if id = cont then n.nrun else none) n.past s) s
      (s.settle.trySaved n.ctx).tryResumed n.ctx

/-- NODE_COMPLETE: node `m` whose status is decided completes. A TIMED node's completion record is written first
(R388). -/
def execEvNodeComplete (s : State) : Out := .next ((s.recordTimed s.ev.m).completeNode s.ev.m)

/-! ## Launch packets (R350, R351) -/

/-- The 64-bit value of two words of a node. -/
def Node.addr (n : Node) (i : Nat) : Nat := (n.w i).toNat + 2 ^ 32 * (n.w (i + 1)).toNat
/-- A value of the packet, or where it is 0 of the metadata, or the default. -/
def orElse (packet : Nat) (given : Option Nat) (dflt : Nat) : Nat := if packet ≠ 0 then packet else given.getD dflt

/-- The launch of a node, merged with an image's metadata (R350). `rpf` is the finalised image's entry
packet, length and metadata. -/
def Node.launch (n : Node) (rpf : Option (Nat × Nat × List (Nat × Nat))) : Launch :=
  let w (i : Nat) : Nat := (n.w i).toNat
  let mv (t : Nat) : Option Nat := match rpf with
    | some (_, _, ms) => ((ms.filter fun m => m.1 == t).getLast?).map (·.2)
    | none => none
  let ms := match rpf with
    | some (_, _, ms) => ms
    | none => []
  let d (x : Nat) : Nat := if rpf.isSome then x else 0
  let warps := fld (w 19) 8 5
  let gcount := orElse (w 54 % 512) (mv 7) 0
  let stable (i : Nat) : Nat := orElse (w (44 + i)) (((ms.filter fun m => m.1 == 6 && m.2 % 16 == i).getLast?).map fun m => m.2 / 16 * 128) 0
  let gx := match n.nrun with
    | some r => if w 15 = 0 then r else w 15
    | none => w 15
  let one := n.nrun.isSome && w 15 == 0
  { image := n.addr 12, pol := (n.w 14).getLsbD 13, lat := (n.w 14).getLsbD 12
    coop := (n.w 14).getLsbD 11 || (w 54 % 512 == 0 && (mv 7).isSome), native := (n.w 14).getLsbD 10
    red := orElse (fld (w 14) 8 2) ((mv 5).map (· % 4)) 0, k := orElse (fld (w 14) 4 4) ((mv 5).map fun v => fld v 4 4) 0
    timed := n.isTimed, gx := gx, gy := if one then 1 else w 16, gz := if one then 1 else w 17
    vbnd := orElse (fld (w 18) 16 12) ((mv 1).map (· / 2 ^ 16)) (d 64)
    vcount := orElse (fld (w 18) 0 12) ((mv 1).map (· % 2 ^ 16)) (d 64)
    warps := if warps = 0 then 32 else warps, gang := orElse (w 19 % 8) (mv 2) (d 1)
    scratch := orElse (w 20) (mv 3) 0, priv := orElse (w 21) (mv 4) 0, pbase := n.addr 22
    args := (List.range 16).map fun i => n.w (24 + i)
    seed := n.w 40, chkarea := n.addr 41, logsz := w 43, stable := (List.range 8).map stable
    gtab := n.addr 52, gcount := gcount, darea := n.addr 55, cont := w 57
    entry := orElse (w 58 % 2 ^ 30) (rpf.map (·.1)) 0
    npkt := match rpf with
      | some (_, k, _) => k
      | none => w 59 % 2 ^ 30 }

/-- The bases of the stable ranges: argument pairs (R418). -/
def Launch.stableBase (l : Launch) (i : Nat) : Nat := (pair (l.args.getD (2 * i) 0) (l.args.getD (2 * i + 1) 0)).toNat
/-- Whether a declared stable range breaks R418. -/
def Launch.stableBad (l : Launch) (i : Nat) : Bool :=
  let n := l.stable.getD i 0
  n != 0 && (n % 128 != 0 || l.stableBase i % 128 != 0 || !inOneWindow (l.stableBase i) n || windowOf (l.stableBase i) != .glob)

/-- Gangs and blocks of a launch. -/
def Launch.gangs (l : Launch) : Nat := l.gx * l.gy * l.gz
def Launch.blocks (l : Launch) : Nat := l.gangs * l.gang

/-- The group table of a launch as members of each entry, from the copy that its node holds, or that it breaks R413. -/
def Node.groupTable (n : Node) (l : Launch) : Option (List (List Nat)) :=
  let es := n.groups.take l.gcount
  let ok (ms : List Nat) : Bool := !ms.isEmpty && ms.all (fun m => decide (m < l.blocks)) && (ms.zip ms.tail).all fun q => decide (q.1 < q.2)
  let all := (es.filterMap id).flatten
  if (l.coop ∨ l.gcount ≠ 0) ∧ l.gtab % 8 ≠ 0 ∨ 256 < l.gcount ∨ es.length < l.gcount
      ∨ es.any (fun (o : Option (List Nat)) => !o.any ok) ∨ all.any (fun m => decide (4 < all.count m)) then none
  else some (es.filterMap id)

/-- Whether fields of the packet that metadata cannot override are outside the limits of R351, so that no translation is
made; a field of 0 is one that the image's metadata may give. -/
def Node.packetBad (n : Node) (l : Launch) : Bool :=
  (l.vcount != 0 && (l.vcount % 8 != 0 || decide (2048 < l.vcount) || decide (4096 < l.vcount * l.warps)))
    || (l.vbnd != 0 && (l.vbnd % 8 != 0 || decide (2048 < l.vbnd))) || (l.vcount != 0 && decide (l.vcount < l.vbnd))
    || decide (4 < l.gang) || decide (2 ^ 23 < l.scratch) || l.priv % 4 != 0
    || (l.red != 0 && (l.chkarea == 0 || decide (l.logsz < 2 ^ 18)))
    || (l.red == 1 && decide (8 < l.k)) || (l.red == 2 && l.k != 0)
    || (l.gcount != 0 && !l.coop) || decide (256 < l.gcount)
    || (List.range 8).any (fun i => l.stableBad i)
    || (n.groupTable { l with gang := if l.gang = 0 then 4 else l.gang }).isNone
/-- Whether a merged launch is outside the limits of R351, but for its entry packet. -/
def Node.limitsBad (n : Node) (l : Launch) : Bool :=
  l.vcount % 8 != 0 || decide (l.vcount < 8) || decide (2048 < l.vcount) || l.vbnd % 8 != 0 || decide (l.vbnd < 8) || decide (l.vcount < l.vbnd)
    || decide (4096 < l.vcount * l.warps) || l.gang == 0 || decide (4 < l.gang)
    || decide (2 ^ 23 < l.scratch) || l.priv % 4 != 0
    || (l.red != 0 && (l.chkarea == 0 || decide (l.logsz < 2 ^ 18)))
    || (l.gcount != 0 && !l.coop) || decide (256 < l.gcount)
    || (l.red == 1 && (l.k == 0 || decide (8 < l.k))) || (l.red != 1 && l.k != 0)
    || (List.range 8).any (fun i => l.stableBad i) || (n.groupTable l).isNone
/-- Whether the limits of R351 on the launch merged with the metadata that an image's records give are broken, which is
judged before the image is translated; metadata that the translator refuses is not merged. -/
def Node.mergedBad (n : Node) (rs : List Nat) : Bool :=
  match rpfParts rs with
  | none => false
  | some im => im.metasOk && n.limitsBad (n.launch (some (0, 1, im.metas)))
/-- Whether a launch is outside the limits of R351 that are judged before its image is translated. -/
def State.earlyBad (s : State) (n : Node) (l : Launch) : Bool :=
  l.gx == 0 || l.gy == 0 || l.gz == 0 || decide (2 ^ 32 < l.gangs)
    || ((l.darea == 0) != (l.cont == 0))
    || (l.native && (decide (2 ^ 44 ≤ l.image) || l.npkt == 0))
    || (!l.native && ((n.w 59).toNat % 2 ^ 30 != 0 || (s.ctx n.ctx).codewin == 0 || n.packetBad l))
    || l.image % 4096 != 0 || l.chkarea % 4096 != 0 || l.pbase % 128 != 0 || l.darea % 64 != 0
    || (List.range 8).any fun i => (n.w (44 + i)).toNat % 128 != 0
/-- The limits of R351 on the merged launch. -/
def Node.lateBad (n : Node) (l : Launch) : Bool := n.limitsBad l || decide (l.npkt ≤ l.entry)

/-! ## Cooperative grids (R352) -/

/-- Segments that a gang needs (R364). -/
def Launch.segments (l : Launch) : Nat := (l.scratch + segSize - 1) / segSize
/-- A number put in its place among rising ones. -/
def insertNat (x : Nat) : List Nat → List Nat
  | [] => [x]
  | y :: ys => if x < y then x :: y :: ys else if x = y then y :: ys else y :: insertNat x ys
/-- Windows of `n` entries in the gaps between retired entries of a pool. -/
def windowsIn (n : Nat) (bad : List Nat) : Nat :=
  let bad := bad.foldl (fun l x => insertNat x l) []
  let cuts := 0 :: (bad.map (· + 1))
  (cuts.zip (bad ++ [4096])).foldl (fun k q => k + (q.2 - q.1) / n) 0
/-- Blocks of a launch that an empty core holds. -/
def State.coreBlocks (s : State) (l : Launch) (core : Nat) : Nat :=
  if (s.core core).fenced then 0 else min (32 / l.warps) (windowsIn l.vcount (s.badEntries core) / l.warps)
/-- Gangs of a launch that an empty cluster holds. -/
def State.clusterGangs (s : State) (l : Launch) (cl : Nat) : Nat :=
  let cs := (List.range 4).map fun i => s.coreBlocks l (4 * cl + i)
  let segs := ((List.range 32).filter fun k => !(s.segment cl k).retired).length
  let fits (m : Nat) : Bool := decide (l.gang * m ≤ cs.foldl (fun n c => n + min c m) 0) && decide (l.segments * m ≤ segs)
  ((List.range 129).filter fits).foldl max 0
/-- Whether all gangs of a cooperative launch could be resident together. -/
def State.coopFits (s : State) (l : Launch) : Bool :=
  decide (l.gangs ≤ (List.range 192).foldl (fun n cl => n + s.clusterGangs l cl) 0)

/-! ## Images (R87 to R89) -/

/-- The bytes of an image's records, where they can be read. -/
def State.imageRecords (s : State) (ctx va : Nat) : Option (List Nat) :=
  match s.ctxWords ctx va 2 with
  | some [n, _] => (s.ctxWords ctx va (2 * max 1 n.toNat)).map fun ws =>
      (List.range (max 1 n.toNat)).map fun i => (ws.getD (2 * i) 0).toNat + 2 ^ 32 * (ws.getD (2 * i + 1) 0).toNat
  | _ => none
/-- The translation-cache entry of an image. -/
def State.cached (s : State) (rs : List Nat) : Option CachedImage := s.images.find? fun m => m.source == rs
/-- Whether a grid that is still running runs from an image; a run is kept for it (R89). -/
def State.imageUsed (s : State) (place : Nat) : Bool := s.grids.any fun g => !g.2.ended && !g.2.lost && g.2.image == some place
/-- A finalised image evicted, with the runs that map it and that no grid runs from any more. -/
def State.dropImage (s : State) (place : Nat) : State :=
  { s with
    images := s.images.filter fun x => x.place != place
    mem := s.mem.clearRange place (2 ^ 34)
    ctxs := s.ctxs.mapVal fun c => { c with codeRuns := c.codeRuns.filter fun r => r.2 != place } }
/-- The cache with room for `n` more bytes of its 64 MiB: least recently used images that no grid runs from go. Where
those do not make room, the image is stored all the same. DESIGN CHOICE (log 29). -/
def evictFor (n : Nat) : Nat → State → State
  | 0, s => s
  | k + 1, s =>
    if (s.images.foldl (fun t m => t + m.size) 0) + n ≤ 2 ^ 26 then s
    else match (s.images.reverse.find? fun m => !s.imageUsed m.place) with
      | some m => evictFor n k (s.dropImage m.place)
      | none => s

/-- RPF_TRANSLATE: the translator finalises the image of LAUNCH node `m` into the translation cache, or the
node completes with the refusal's status (R86 to R88). -/
def execEvRpfTranslate (s : State) : Out :=
  withReady 0 false s fun h n =>
    .next (if (n.launch none).native ∨ s.earlyBad n (n.launch none) then s
    else match s.imageRecords n.ctx (n.addr 12) with
      | none => s.finishNode h 2
      | some rs =>
        if n.mergedBad rs ∨ (s.cached rs).isSome then s
        else match finalise rs with
          | .error e => s.finishNode h e
          | .ok f =>
            let s := evictFor f.size s.images.length s
            let place := imagePlace s.nextImage
            let m : CachedImage := { place := place, source := rs, npkt := f.npkt, entry := f.entry, size := f.size, metas := f.metas }
            { s with
              images := m :: s.images
              nextImage := s.nextImage + 1
              mem := f.bytes.foldl (fun mem q => mem.writeBytes (place + q.1) q.2) s.mem })

/-- The runs of a context whose image some grid of it still runs from, and the given one (R89). A run that no grid of
the context uses any more is unmapped at the context's next launch of an image, or when its image is evicted.
DESIGN CHOICE (log 29). -/
def State.liveRuns (s : State) (ctx place : Nat) : List (Nat × Nat) :=
  (s.ctx ctx).codeRuns.filter fun r => r.2 == place ||
    s.grids.any fun g => g.2.ctx == ctx && !g.2.ended && !g.2.lost && g.2.image == some r.2
/-- The offset of a new run in the code window: the front end's choice among those that are free (R89). -/
def State.runOffset (s : State) (runs : List (Nat × Nat)) (size : Nat) : Nat :=
  let pages := (size + 4095) / 4096 * 4096
  let sizeOf (place : Nat) : Nat := (((s.images.find? fun m => m.place == place).map (·.size)).getD 0 + 4095) / 4096 * 4096
  let free (o : Nat) : Bool := decide (o + pages ≤ 2 ^ 36) && runs.all fun r => decide (o + pages ≤ r.1) || decide (r.1 + sizeOf r.2 ≤ o)
  let pick := Config.freeChoice s.fresh % 2 ^ 24 * 4096
  if free pick then pick
  else ((0 :: runs.map fun r => r.1 + sizeOf r.2).find? free).getD 0
/-- The image mapped for a context: the base of its run (R89). -/
def State.mapRun (s : State) (ctx : Nat) (m : CachedImage) : State × Nat :=
  let runs := s.liveRuns ctx m.place
  let win := (s.ctx ctx).codewin.toNat
  let s := { s with images := m :: s.images.filter fun x => x.place != m.place }
  match runs.find? fun r => r.2 == m.place with
  | some r => (s.onCtx ctx fun c => { c with codeRuns := runs }, win + r.1)
  | none =>
    let o := s.runOffset runs m.size
    ((s.onCtx ctx fun c => { c with codeRuns := runs ++ [(o, m.place)] }).tick, win + o)

/-! ## Launching (R350 to R353) -/

/-- A grid handed to the scheduler (R350 to R352); what its context keeps of rewritten code is of running grids only (R64).
DESIGN CHOICE (log 10). -/
def State.launchGrid (s : State) (h : Nat) (n : Node) (l : Launch) (m : Option CachedImage) (groups : List (List Nat)) : State :=
  let (s, base) := match m with
    | some m => s.mapRun n.ctx m
    | none => (s, l.image)
  let c := s.ctx n.ctx
  let stable := (List.range 8).map fun i => (l.stableBase i, l.stable.getD i 0)
  let g : Grid :=
    { ctx := n.ctx, gridid := c.nextGrid + 1, node := h, prio := n.prio, launch := l, codeBase := base, codeLen := l.npkt
      entry := l.entry, groups := groups, stable := stable, pinned := s.pinsOf n.ctx stable
      total := l.gangs, order := n.order, image := m.map (·.place) }
  ({ s.pruneCode n.ctx with grids := SMap.put s.grids s.nextGrid g, nextGrid := s.nextGrid + 1 }.onCtx n.ctx fun c => { c with nextGrid := c.nextGrid + 1 }).onNode h
    fun x => { x with phase := .running, grid := s.nextGrid, accepted := true }

/-- NODE_LAUNCH: ready LAUNCH node `m` is checked and its grid handed to the scheduler; an RPF image that is
not in the translation cache is waited for (R351, R352, R359). -/
def execEvNodeLaunch (s : State) : Out :=
  withReady 0 false s fun h n =>
    let l0 := n.launch none
    .next (if n.nrun = some 0 ∧ n.w 15 = 0 then s.finishNode h 0
    else if s.earlyBad n l0 then s.finishNode h 7
    else
      let go (l : Launch) (m : Option CachedImage) : State :=
        if n.lateBad l then s.finishNode h 7
        else if l.coop ∧ ¬ s.coopFits l then s.finishNode h 8
        else match n.groupTable l with
          | some gs => s.launchGrid h n l m gs
          | none => s.finishNode h 7
      if l0.native then go l0 none
      else match s.imageRecords n.ctx (n.addr 12) with
        | none => s
        | some rs =>
          if n.mergedBad rs then s.finishNode h 7
          else match s.cached rs with
            | some m => go (n.launch (some (m.entry, m.npkt, m.metas))) (some m)
            | none => s)

/-- A grid has ended (R347, R353): its children may be ready. -/
def State.endGrid (s : State) (g : Nat) : State :=
  let gr := s.grid g
  ({ s with endedGrids := s.endedGrids ++ [(gr.ctx, gr.gridid)] }.onGrid g fun x => { x with ended := true }).settle

/-! ## The deposit sort (R359) -/

/-- A deposit record's place in the order of R314. -/
def depositRank (r : List Word) : Nat :=
  let w (i : Nat) : Nat := (r.getD i 0).toNat
  (((((w 4 % 2 ^ 16 * 2 ^ 32 + w 8) * 2 ^ 32 + w 7) * 2 ^ 32 + w 6) * 4 + fld (w 4) 29 2) * 32 + fld (w 4) 24 5) * 2 ^ 37
    + fld (w 4) 16 5 * 2 ^ 32 + w 5
/-- A record put in its place among sorted ones. -/
def insertRec (r : List Word) : List (List Word) → List (List Word)
  | [] => [r]
  | x :: xs => if depositRank r < depositRank x then r :: x :: xs else x :: insertRec r xs
/-- Records in order. -/
def sortRecs (rs : List (List Word)) : List (List Word) := rs.foldl (fun l r => insertRec r l) []
/-- The runs of equal keys: key, first slot and count. -/
def keyRuns : Nat → List (List Word) → List (Nat × Nat × Nat)
  | _, [] => []
  | i, r :: rs =>
    let k := (r.getD 4 0).toNat % 2 ^ 16
    match keyRuns (i + 1) rs with
    | (k', f, c) :: rest => if k = k' then (k, i, c + 1) :: rest else (k, i, 1) :: (k', f, c) :: rest
    | [] => [(k, i, 1)]

/-- DEPOSIT_SORT: the sorter of grid `k`, whose gangs have all retired, orders its records, writes the run
table and NRUN, and completes the node (R353, R359). An area that cannot be reached loses the grid. -/
def execEvDepositSort (s : State) : Out :=
  let g := s.ev.k
  let gr := s.grid g
  let area := gr.launch.darea
  .next (if area = 0 ∨ gr.ended ∨ gr.lost ∨ gr.total = 0 ∨ gr.retired < gr.total then s
    else match s.ctxWords gr.ctx area 2 with
      | some [cap, used] =>
        match s.ctxWords gr.ctx (area + 64) (12 * used.toNat) with
        | some ws =>
          let rs := sortRecs ((List.range used.toNat).map fun i => (ws.drop (12 * i)).take 12)
          let runs := keyRuns 0 rs
          let table := runs.flatMap fun r => [BitVec.ofNat 32 r.1, BitVec.ofNat 32 r.2.1, BitVec.ofNat 32 r.2.2]
          let t := ((s.putCtxWords gr.ctx (area + 64) rs.flatten).bind fun t =>
            t.putCtxWords gr.ctx (area + 64 + 48 * cap.toNat) table).bind fun t =>
            t.putCtxWords gr.ctx (area + 8) [BitVec.ofNat 32 runs.length]
          match t with
          | some t => ((t.onNode gr.node fun n => { n with nrun := some runs.length }).finishNode gr.node 0).endGrid g
          | none => s.removeGrid g 10
        | none => s.removeGrid g 10
      | _ => s.removeGrid g 10)

/-! ## Copies, chains and bundles (R354) -/

/-- A job of a node in the engine of a cluster that the scheduler chooses among those with room. -/
def State.nodeJob (s : State) (h : Nat) (n : Node) (job : Job) : State :=
  let cls := (List.range 192).filter fun cl => decide ((s.cluster cl).engine.length < engineDepth)
  match cls[Config.freeChoice s.fresh % cls.length]? with
  | none => s
  | some cl =>
    let j : EngineJob := { job := job, ctx := n.ctx, node := some h, stamp := s.nextEntry, binds := match job with
      | .chain va _ _ => s.chainBinds n.ctx 4096 va
      | .copy _ => false }
    (({ s with nextEntry := s.nextEntry + 1 }.tick.onCluster cl fun c => { c with engine := c.engine ++ [j] }).onNode h
      fun x => { x with phase := .running, accepted := true })

/-- A bundle takes note of members that completed before it was consumed. -/
def State.gatherMembers (s : State) (h : Nat) (n : Node) : State :=
  let mine (c : Credit) : Bool := c.member && c.ctx == n.ctx && n.members.contains c.nodeid
  let cs := s.credits.filter mine
  { s with credits := s.credits.filter fun c => !mine c }.onNode h fun b => { b with
    ended := b.ended ++ cs.map Credit.nodeid
    worst := cs.foldl (fun w (c : Credit) => max w c.status) b.worst
    past := b.past ++ cs.flatMap fun (c : Credit) => c.past }

/-- A member handed to the scheduler: it is ready, once its grid's parent has ended where it is a child, and its TIMED record
has acted where it has one (R347, R354). -/
def State.handOver (s : State) (m : Nat) : State :=
  let s := s.onNode m fun n => { n with handed := true }
  if s.isReady (s.node m) then s.makeReady m else s
/-- NODE_BUNDLE: ready BUNDLE node `m` hands its members to the scheduler in one step; a bundle that inherits a
failure does not run, and its members complete with it. -/
def execEvNodeBundle (s : State) : Out :=
  match SMap.find s.nodes s.ev.m with
  | none => .next s
  | some n =>
    if n.phase ≠ .ready ∨ n.type ≠ 3 ∨ n.finish.isSome then .next s
    else
      let h := s.ev.m
      let s := s.gatherMembers h n
      let ms := n.members.filterMap fun m => s.findNode n.ctx m
      .next (if n.inherited ≠ 0 then
        let s := ms.foldl (fun s m => s.finishNode m 9) s
        s.finishNode h 9
      else
        let s := s.onNode h fun b =>
          let b := { b with phase := .running }
          if b.members.all fun m => b.ended.contains m then { b with finish := some b.worst } else b
        ms.foldl (fun s m => s.handOver m) s)

/-- Whether the scheduler has accepted every member of the bundle that a grid's node belongs to (R354). -/
def State.bundleIn (s : State) (n : Node) : Bool :=
  !n.sub || (match s.nodes.find? fun q => q.2.ctx == n.ctx && q.2.type == 3 && q.2.members.contains n.nodeid with
    | none => false
    | some (_, b) => b.members.all fun m => b.ended.contains m || (match s.findNode n.ctx m with
      | some h => (s.node h).accepted || (s.node h).finish.isSome
      | none => false))

/-! ## Records (R354 to R357) -/

/-- NODE_SIGNAL: ready SIGNAL node `m` writes its event record and completes, so that its records come in the order of
completions; the message follows the record, or comes at once where there is none (R354, R356). -/
def execEvNodeSignal (s : State) : Out :=
  withReady 4 true s fun h n =>
    let va := n.addr 12
    let x := (n.w 16).toNat
    let int := if x.testBit 1 then some (fld x 2 11) else none
    let fin (t : State) (st : Nat) : State := (t.finishNode h st).completeNode h
    .next (match s.ctxPhys n.ctx va true with
      | none => fin (s.sendOpt int) 14
      | some a =>
        let ws : List Word := [BitVec.ofNat 32 n.inherited, n.nodeid, loHalf s.dtb, hiHalf s.dtb]
        fin (s.addRecord h { id := 0, ctx := n.ctx, words := ws.zipIdx.map fun q => (va + 8 + 4 * q.2, a + 8 + 4 * q.2, q.1)
                             va := va, pa := a, add := x.testBit 0, value := pair (n.w 14) (n.w 15), msix := int }) n.inherited)

/-- NODE_EVFENCE: ready EVFENCE node `m` completes once every event record of its transitive predecessors has been
performed (R356); with `b` engine `n` makes the next write of its first record that has not been performed. -/
def execEvNodeEvfence (s : State) : Out :=
  if s.ev.b then .next (s.recordWrite s.ev.n)
  else withReady 5 true s fun h n =>
    .next (if s.records.any fun r => n.past.contains r.id then s else s.finishNode h n.inherited)

/-- The state code of a context, a node and the clock in a snapshot and in CTXCTL (R357). -/
def CtxPhase.code : CtxPhase → Nat
  | .none | .running => 0
  | .saving => 1
  | .saved => 2
  | .frozen => 3
  | .tornDown => 4
def NodePhase.code : NodePhase → Nat
  | .waiting => 0
  | .ready => 1
  | .running => 2
def ClockState.code : ClockState → Nat
  | .locked => 0
  | .holdover => 1
  | .lost => 2

/-- Words as a 32-byte record. -/
def record8 (ws : List Nat) : List Word := (List.range 8).map fun i => BitVec.ofNat 32 (ws.getD i 0)
/-- The sections of a snapshot: contexts, rings, pending nodes, unread fault records. -/
def State.snapCtxs (s : State) : List (List Word) :=
  (s.ctxs.filter fun c => c.2.phase != .none).map fun c =>
    record8 [c.1, c.2.phase.code, s.grids.countP fun g => g.2.ctx == c.1 && !g.2.ended && !g.2.lost,
      s.versions.countP fun v => v.ctx == c.1, s.nodeUse c.1]
def State.snapRings (s : State) : List (List Word) :=
  s.ctxs.flatMap fun c => (c.2.rings.filter fun r => r.2.registered).map fun r =>
    let resv := match s.ctxPhys c.1 (r.2.addr.toNat + 16) false with
      | some a => s.mem.readNat a 4
      | none => (Config.freeWord s.fresh).toNat
    record8 [c.1, r.1, r.2.logn, resv, r.2.rd.toNat, if r.2.frozen then 1 else 0, if s.wakePend c.1 r.2 then 1 else 0]
def State.snapNodes (s : State) : List (List Word) :=
  s.nodes.map fun q => record8 [q.2.ctx, q.2.nodeid.toNat, q.2.type, q.2.prio, q.2.unmet, q.2.phase.code, q.2.inherited]
def State.snapQueue (s : State) (ctx : Option Nat) (q : Queue) : List (List Word) :=
  if !q.registered then []
  else (List.range (q.wr - q.rd).toNat).map fun i =>
    let va := q.base.toNat + 64 * ((q.rd.toNat + i) % 2 ^ q.logn)
    match ctx with
    | some c => (s.ctxWords c va 16).getD (s.freeWords 16)
    | none => (List.range 16).map fun k => BitVec.ofNat 32 (s.mem.readNat (va + 4 * k) 4)
def State.snapRecs (s : State) : List (List Word) :=
  (s.ctxs.flatMap fun c => s.snapQueue (some c.1) c.2.fq) ++ s.snapQueue none s.dev.hfq

/-- Whether the descriptor of a ring of a context, or a record of its fault queue, cannot be read (R447). -/
def State.snapLost (s : State) (k : Nat) (c : Ctx) : Bool :=
  c.phase != .none && c.phase != .tornDown
    && (c.rings.any (fun r => r.2.registered && (s.ctxPhys k (r.2.addr.toNat + 16) false).isNone)
      || (c.fq.registered && (List.range (c.fq.wr - c.fq.rd).toNat).any fun i =>
          (s.ctxWords k (c.fq.base.toNat + 64 * ((c.fq.rd.toNat + i) % 2 ^ c.fq.logn)) 16).isNone))
/-- NODE_RESYNC: ready RESYNC node `m` writes a snapshot, or where its buffer is too small the header alone
(R357). A context whose ring or queue the snapshot cannot read is torn down first (R447). DEDUCED (log 32). -/
def execEvNodeResync (s : State) : Out :=
  withReady 7 true s fun h n =>
    if s.ctxs.any fun c => s.snapLost c.1 c.2 then
      .next (s.ctxs.foldl (fun t c => if s.snapLost c.1 c.2 then t.tearDown c.1 3 else t) s)
    else
    let cs := s.snapCtxs
    let rs := s.snapRings
    let ns := s.snapNodes
    let fs := s.snapRecs
    let need := 64 + 32 * (cs.length + rs.length + ns.length) + 64 * fs.length
    let size := (n.w 14).toNat
    let fits := decide (need ≤ size)
    let fenced := s.cores.countP fun c => c.2.fenced
    let st := if fits then n.inherited else if n.inherited ≠ 0 then n.inherited else 12
    let header : List Word := [BitVec.ofNat 32 need, BitVec.ofNat 32 (if fits then n.inherited else 12), loHalf s.dtb, hiHalf s.dtb] ++
      [s.dev.clock.code, cs.length, rs.length, ns.length, fs.length, fenced, 0, 0, 0, 0, 0, 0].map (BitVec.ofNat 32)
    .next (match s.putCtxWords n.ctx (n.addr 12) (header ++ if fits then (cs ++ rs ++ ns ++ fs).flatten else []) with
      | some t => t.finishNode h st
      | none => s.finishNode h 14)

end Sys2Proof.Machine
end

