-- ==== Sys2Proof/Machine/Sched.lean ====
section
/-! DEFINITION. The scheduler and the leaf controllers: the command links, offers, placement, and the end of
gangs and grids (R91, R97, R100, R215, R318, R361 to R367, R434). -/

namespace Sys2Proof.Machine

/-! ## The command link (R361, R434) -/

/-- The permits that a message returns reach the scheduler (`up`) or the leaf, which can then send. Past 8 it is a
firmware fault: the permits are discarded and the cluster is fenced (R434). -/
def State.takePret (s : State) (cl : Nat) (up : Bool) (n : Nat) : State :=
  let c := s.cluster cl
  let held := if up then c.permitsDown.toNat else c.permitsUp.toNat
  if held + n ≤ 8 then
    (s.onCluster cl fun c => if up then { c with permitsDown := c.permitsDown + BitVec.ofNat 4 n }
      else { c with permitsUp := c.permitsUp + BitVec.ofNat 4 n }).flushLink cl (!up)
  else
    let s := (List.range 4).foldl (fun s i => if (s.core (4 * cl + i)).fenced then s else s.moveOff (4 * cl + i)) s
    (s.report (unitRec 19 0 2 cl [0, 2])).askHealth 2
/-- The next message of a cluster's link in one direction received, if it has been sent and is of a kind: its gang
and the state without it, one permit more owed and those that it returns taken. -/
def State.receive (s : State) (cl : Nat) (kind : LinkKind) : Option (Nat × State) :=
  match s.msgs.find? fun m => m.cluster == cl && m.kind.isUp == kind.isUp with
  | some m =>
    if m.kind = kind ∧ m.sent then
      let t := { s with msgs := s.msgs.erase m }.onCluster cl fun c =>
        if kind.isUp then { c with owedUp := c.owedUp + 1 } else { c with owedDown := c.owedDown + 1 }
      some (m.gang, t.takePret cl kind.isUp m.pret.toNat)
    else none
  | none => none
/-- A message about a gang put on a cluster's link. -/
def State.send (s : State) (cl : Nat) (kind : LinkKind) (gang : Nat) : State :=
  s.post { cluster := cl, kind := kind, gang := gang }

/-- PRET: a message that returns `n` permits alone, no longer owed, reaches the scheduler (`b`) or the leaf of
cluster `k` (R361). -/
def execEvPret (s : State) : Out :=
  let cl := s.ev.k
  let n := s.ev.n
  .next (if n = 0 ∨ 192 ≤ cl then s
    else (s.onCluster cl fun c =>
      if s.ev.b then { c with owedDown := BitVec.ofNat 4 (c.owedDown.toNat - n) }
      else { c with owedUp := BitVec.ofNat 4 (c.owedUp.toNat - n) }).takePret cl s.ev.b n)

/-! ## Resources of a cluster (R91, R364) -/

/-- `k` members of a list, each a free choice among those left. -/
def pickFree (fresh : Nat) : Nat → List Nat → List Nat
  | 0, _ => []
  | k + 1, l => match l[Config.freeChoice (fresh + k) % l.length]? with
    | some x => x :: pickFree fresh k (l.erase x)
    | none => []

/-- Slots and windows of `n` entries for `k` warps beside those of a core. -/
def windowsFor (bad : List Nat) (n : Nat) : Nat → List Warp → Option (List (Nat × Nat))
  | 0, _ => some []
  | k + 1, ws => match freeSlot ws, freeWindow ws bad n with
    | some sl, some wi =>
      let w : Warp := { slot := sl, window := wi, park := .ready, regs := { vcount := BitVec.ofNat 12 n } }
      (windowsFor bad n k (w :: ws)).map fun l => (sl, wi) :: l
    | _, _ => none
/-- Whether every block resident on a core, but for shadow and tiebreak runs, is of a context (R215). -/
def State.coreServes (s : State) (ctx core : Nat) : Bool :=
  (s.onCoreWarps core).all fun w => w.ctx == ctx || decide (2 ≤ w.regs.chkrole.toNat)
/-- Whether a core can take a block of a launch of a context. -/
def State.coreFits (s : State) (l : Launch) (ctx core : Nat) : Bool :=
  !(s.core core).fenced && s.coreServes ctx core && (windowsFor (s.badEntries core) l.vcount l.warps (s.onCoreWarps core)).isSome
/-- Segments of a cluster that no gang claims, those in CACHE mode or the others. -/
def State.freeSegs (s : State) (cl : Nat) (cache : Bool) : List Nat :=
  (List.range 32).filter fun k =>
    let g := s.segment cl k
    !g.claimed && !g.retired && (g.mode == .cache) == cache

/-- The cores and segments that a leaf takes for a gang of a launch of a context: any distinct cores that fit, and free
segments in ascending order, of those in CACHE mode only where no other is free. DEDUCED (log 33). -/
def State.claim (s : State) (l : Launch) (ctx cl : Nat) : Option (List Nat × List Nat) :=
  let cores := ((List.range 4).map (4 * cl + ·)).filter fun c => s.coreFits l ctx c
  let other := s.freeSegs cl false
  let cache := s.freeSegs cl true
  let k := l.segments
  if cores.length < l.gang ∨ other.length + cache.length < k then none
  else
    let chosen := if k ≤ other.length then pickFree (s.fresh + 4) k other else other ++ pickFree (s.fresh + 4) (k - other.length) cache
    some (pickFree s.fresh l.gang cores, (List.range 32).filter fun x => chosen.contains x)

/-- The segments of a gang claimed, in SCRATCH mode and zero (R207, R364, R423). -/
def State.claimSegs (s : State) (cl h ctx : Nat) (segs : List Nat) : State :=
  segs.zipIdx.foldl (fun s q => (s.setSegMode cl q.1 .scratch).onSegment cl q.1 fun g => { g with
    claimed := true
    lseg := BitVec.ofNat 5 q.2
    ctx := BitVec.ofNat 12 ctx
    gang := h
    head := 0
    fifo := [] }) s

/-- A B-store with every word 0. -/
def State.zeroB (s : State) (core : Nat) : State :=
  { s with bstore := s.bstore.filter fun b => b.1 / (128 * 16384) != core }
/-- The B-stores of the cores that a context's blocks come to: one that last belonged to another context is zeroed
first (R215). DEDUCED (log 41). -/
def State.takeCores (s : State) (ctx : Nat) (cores : List Nat) : State :=
  cores.foldl (fun s c => if (s.core c).bOwner = some ctx then s else (s.zeroB c).onCore c fun k => { k with bOwner := some ctx }) s

/-! ## Checked blocks (R318) -/

/-- CRC-32C of bytes, from a register value (R318). -/
def crcBit (c : Nat) : Nat := if c % 2 = 1 then (c / 2) ^^^ 0x82F63B78 else c / 2
def crcByte (c : Nat) (b : Byte) : Nat := (List.range 8).foldl (fun c _ => crcBit c) (c ^^^ b.toNat)
def crc32c (bs : List Byte) : Nat := (bs.foldl crcByte 0xFFFFFFFF) ^^^ 0xFFFFFFFF
/-- Whether a block of a launch is checked. -/
def Launch.checked (l : Launch) (x y z rank : Nat) : Bool :=
  match l.red with
  | 0 => false
  | 1 => crc32c (bytesOfWords [BitVec.ofNat 32 x, BitVec.ofNat 32 y, BitVec.ofNat 32 z, l.seed ^^^ BitVec.ofNat 32 rank]) % 2 ^ l.k == 0
  | _ => true

/-! ## Placement (R97, R98, R100, R364) -/

/-- The seal range of a warp's first span: every vector name below VBND and the tiles of its window (R323). -/
def firstSeal (l : Launch) : Seal :=
  { first := 0, count := min l.vbnd 64
    tiles := BitVec.ofNat 3 (((List.range 3).filter fun t => decide (l.vbnd + 512 * t + 511 < l.vcount)).foldl (fun n t => n + 2 ^ t) 0) }

/-- A warp as it is launched: argument words in S0 to S15, every entry a marker, the launch values of R100. -/
def State.newWarp (s : State) (h : Nat) (g : Gang) (rank wid core slot window : Nat) : Warp :=
  let gr := s.grid g.grid
  let l := gr.launch
  let linear := gr.linear g.x g.y g.z rank
  let w : Warp :=
    { uid := s.nextUid + rank * l.warps + wid, ctx := g.ctx, grid := g.grid, gang := h, slot := slot, window := window
      regs := { s := Vector.ofFn fun i => if i.val < 16 then l.args.getD i.val 0 else 0
                vbnd := BitVec.ofNat 12 l.vbnd, vcount := BitVec.ofNat 12 l.vcount
                wid := BitVec.ofNat 5 wid, bidx := BitVec.ofNat 32 g.x, bidy := BitVec.ofNat 32 g.y, bidz := BitVec.ofNat 32 g.z
                gangrank := BitVec.ofNat 2 rank, gridid := gr.gridid, coreid := BitVec.ofNat 10 core
                chkrole := if l.checked g.x g.y g.z rank then 1 else 0, kbase := BitVec.ofNat 32 (gr.codeBase / 4096) }
      pc := { packet := BitVec.ofNat 30 gr.entry }, park := if l.coop then .unstarted else .ready, sealed := firstSeal l
      age := s.fresh, privBase := l.pbase + (linear * l.warps + wid) * (l.priv / 4) * 128, privSize := l.priv }
  let c := s.ctx g.ctx
  { w with span := { start := w.checkpoint, gen := c.gen.toNat, bank := c.bank } }

/-- The warps of a gang on its cores. -/
def State.gangWarps (s : State) (h : Nat) (g : Gang) (cores : List Nat) : List Warp :=
  let l := (s.grid g.grid).launch
  cores.zipIdx.flatMap fun q =>
    ((windowsFor (s.badEntries q.1) l.vcount l.warps (s.onCoreWarps q.1)).getD []).zipIdx.map fun x =>
      s.newWarp h g q.2 x.2 q.1 x.1.1 x.1.2

/-- A gang placed on a cluster, if every resource is free at once. -/
def State.placeGang (s : State) (h cl : Nat) : Option State :=
  let g := s.gang h
  let l := (s.grid g.grid).launch
  (s.claim l g.ctx cl).map fun (cores, segs) =>
    let ws := s.gangWarps h g cores
    let s := ((s.tick 40).takeCores g.ctx cores).claimSegs cl h g.ctx segs
    { s with others := s.others ++ ws, nextUid := s.nextUid + ws.length }.onGang h fun g => { g with
      phase := .running
      cluster := cl
      cores := cores
      segs := segs
      firstCluster := some cl
      firstSegs := segs }

/-- Whether a claim has to wait for misses: it takes a way of a cache that has some outstanding (R207). -/
def State.claimWaits (s : State) (cl : Nat) (claimed : Option (List Nat × List Nat)) : Bool :=
  claimed.any fun q => q.2.any (fun k => (s.segment cl k).mode == .cache) && s.cohReqs.any fun r => r.holder == cl
/-- PLACE: the leaf of cluster `k` places the gang of its next PLACE, or refuses it and changes nothing
(R364). -/
def execEvPlace (s : State) : Out :=
  let cl := s.ev.k
  .next (match if s.dev.fwState = 1 then s.receive cl .place else none with
    | none => s
    | some (h, t) =>
      let g := t.gang h
      if t.claimWaits cl (t.claim (t.grid g.grid).launch g.ctx cl) then s
      else match t.placeGang h cl with
      | some u => u.send cl .placed h
      | none => t.send cl .refused h)

/-! ## Offers (R360, R363, R365) -/

/-- What the scheduler may offer next: a gang of a grid, to place or to restore, or a cooperative grid whole. -/
structure Offer where
  grid : Nat
  /-- the gangs concerned, by number in the grid -/
  gangs : List Nat
  restore : Bool
  level : Nat
  deriving DecidableEq, Repr

/-- The gang of a grid with a number, if it has been made. -/
def Grid.handle (g : Grid) (n : Nat) : Option Nat := g.gangs[n]?
/-- The numbers of a grid's gangs in a phase. -/
def State.gangsIn (s : State) (g : Grid) (p : GangPhase) : List Nat :=
  (g.gangs.zipIdx.filter fun q => (s.gang q.1).phase == p).map (·.2)

/-- The offers of a grid: saved gangs to restore come first, then refused ones, then the next. -/
def State.offersOf (s : State) (gi : Nat) (g : Grid) : List Offer :=
  let c := s.ctx g.ctx
  if s.dev.fwState ≠ 1 ∨ g.lost ∨ g.ended ∨ c.switchPending ∨ c.phase = .saved ∨ c.phase = .tornDown ∨ ¬ s.bundleIn (s.node g.node) then []
  else
    let saved := s.gangsIn g .saved
    let waiting := s.gangsIn g .waiting
    let fresh := if g.gangs.length < g.total then (List.range (g.total - g.gangs.length)).map (g.gangs.length + ·) else []
    let one (l : List Nat) (r : Bool) : List Offer := match l with
      | [] => []
      | n :: _ => [⟨gi, [n], r, g.prio⟩]
    if g.launch.coop then
      if !saved.isEmpty then
        (if (s.gangsIn g .running).any fun n => ((g.handle n).map fun h => (s.gang h).moved).getD false then [] else [⟨gi, saved, true, g.prio⟩])
      else if !(waiting ++ fresh).isEmpty ∧ (s.gangsIn g .running).isEmpty ∧ (s.gangsIn g .offered).isEmpty then [⟨gi, waiting ++ fresh, false, g.prio⟩]
      else []
    else one saved true ++ one waiting false ++ (if waiting.isEmpty then one fresh false else [])

/-- An offer put in its place: higher levels first, then the order of readiness; a refused or saved gang before
its grid's next. -/
def insertOffer (rank : Offer → Nat) (o : Offer) : List Offer → List Offer
  | [] => [o]
  | x :: xs => if rank o < rank x then o :: x :: xs else x :: insertOffer rank o xs
/-- The place of work in the order in which it is taken: higher levels first, then gangs that come back, then the order of
readiness (R360). -/
def workRank (level : Nat) (back : Bool) (order : Nat) : Nat := ((15 - level) * 2 + (if back then 0 else 1)) * 2 ^ 64 + order
/-- The place of an offer, and of a node. -/
def State.offerRank (s : State) (o : Offer) : Nat :=
  let g := s.grid o.grid
  workRank o.level (o.restore || (o.gangs.head?.map fun n => decide (n < g.gangs.length)).getD false) g.order
def Node.rank (n : Node) : Nat := workRank n.prio false n.order

/-- Every offer in order; there is none while no firmware runs (R456). -/
def State.offers (s : State) : List Offer :=
  (s.grids.flatMap fun g => s.offersOf g.1 g.2).foldl (fun l o => insertOffer s.offerRank o l) []

/-- The clusters in rotation for a level, after the last that accepted a gang of it. -/
def State.rotation (s : State) (level : Nat) : List Nat :=
  let k := SMap.get s.lastCluster level 0
  (List.range 192).map fun i => (k + i) % 192

/-- The machine as the leaves last reported it, with every offer under way placed: what the scheduler counts as free. What
an EXIT, a save or a retirement has given back counts as taken until RETIRED or SAVED has come (R363). -/
def State.view (s : State) : State :=
  let held (w : Warp) : Warp := if w.park = .exited then { w with park := .unstarted } else w
  s.msgs.foldl (fun t m => match m.kind with
    | .place | .restore | .refused => (t.placeGang m.gang m.cluster).getD t
    | .retired | .saved => m.segs.foldl (fun t k => t.onSegment m.cluster k fun g => { g with claimed := true }) { t with others := t.others ++ m.places }
    | _ => t) { s with warp := held s.warp, others := s.others.map held }

/-- A gang made for a grid's number, if it is not there yet: its handle. -/
def State.makeGang (s : State) (gi n : Nat) : State × Nat :=
  let gr := s.grid gi
  match gr.handle n with
  | some h => (s, h)
  | none =>
    let l := gr.launch
    let g : Gang := { grid := gi, ctx := gr.ctx, x := n % l.gx, y := n / l.gx % l.gy, z := n / (l.gx * l.gy), number := n }
    ({ s with gangs := SMap.put s.gangs s.nextGang g, nextGang := s.nextGang + 1 }.onGrid gi fun x =>
      { x with gangs := x.gangs ++ [s.nextGang] }, s.nextGang)

/-- Clusters for gangs of a launch, one after the other, on the view. -/
def packGangs (l : Launch) (gi : Nat) (rot : List Nat) : List Nat → State → Option (List (Nat × Nat))
  | [], _ => some []
  | n :: ns, v =>
    match rot.find? fun cl => (v.claim l (v.grid gi).ctx cl).isSome with
    | none => none
    | some cl =>
      let (v, h) := v.makeGang gi n
      match v.placeGang h cl with
      | none => none
      | some v => (packGangs l gi rot ns v).map fun r => (n, cl) :: r

/-- An offer sent: its gangs made, and a PLACE or RESTORE to each cluster. -/
def State.sendOffer (s : State) (o : Offer) (where_ : List (Nat × Nat)) : State :=
  where_.foldl (fun s q =>
    let (s, h) := s.makeGang o.grid q.1
    let g := s.gang h
    (s.onGang h fun g => { g with phase := if o.restore then .restoring else .offered, cluster := q.2, placed := false }).post
      { cluster := q.2, kind := if o.restore then .restore else .place, gang := h
        image := if o.restore then ((s.saveArea g.ctx).map (·.1)).getD 0 + g.imageOff else 0 }) s

/-- The clusters that a cooperative grid has chosen: enough of them in rotation, each taken as empty. -/
def chosenFor (s : State) (l : Launch) : Nat → List Nat → List Nat
  | _, [] => []
  | need, cl :: rest =>
    if need = 0 then [] else
      let k := s.clusterGangs l cl
      if k = 0 then chosenFor s l need rest else cl :: chosenFor s l (need - k) rest

/-- The offers in order: the first that fits is sent. `kept` are clusters reserved for a head gang or chosen for
a cooperative grid, each with the lowest level whose gangs it takes. DEDUCED (log 33). -/
def tryOffers (s v : State) (kept : List (Nat × Nat)) (head : Bool) : List Offer → Option State
  | [] => none
  | o :: os =>
    let l := (s.grid o.grid).launch
    let rot := (s.rotation o.level).filter fun cl => kept.all fun k => k.1 != cl || decide (k.2 ≤ o.level)
    match packGangs l o.grid rot o.gangs v with
    | some p => some (s.sendOffer o p)
    | none =>
      let kept := if l.coop then kept ++ (chosenFor s l o.gangs.length rot).map fun cl => (cl, o.level)
        else if head then
          let key := o.grid * 2 ^ 33 + o.gangs.headD 0
          match (SMap.find s.reserved key).or (rot.find? fun cl => decide (1 ≤ s.clusterGangs l cl)) with
          | some cl => kept ++ [(cl, 16)]
          | none => kept
        else kept
      tryOffers s v kept false os

/-- The cluster reserved for the head gang kept while it fits nowhere (R363). -/
def State.keepReserved (s : State) : State :=
  match s.offers with
  | [] => { s with reserved := [] }
  | o :: _ =>
    let l := (s.grid o.grid).launch
    let key := o.grid * 2 ^ 33 + o.gangs.headD 0
    let rot := s.rotation o.level
    if l.coop ∨ rot.any fun cl => (s.view.claim l (s.grid o.grid).ctx cl).isSome then { s with reserved := [] }
    else match (SMap.find s.reserved key).or (rot.find? fun cl => decide (1 ≤ s.clusterGangs l cl)) with
      | some cl => { s with reserved := [(key, cl)] }
      | none => { s with reserved := [] }

/-- Whether a node is a COPY or CHAIN node that an engine could take now. -/
def State.isJob (s : State) (n : Node) : Bool :=
  n.phase == .ready && (n.type == 1 || n.type == 2) && n.finish.isNone && n.inherited == 0
    && (List.range 192).any fun cl => decide ((s.cluster cl).engine.length < engineDepth)
/-- The offers that come before every COPY and CHAIN node that an engine could take (R360). -/
def State.firstOffers (s : State) : List Offer :=
  s.offers.filter fun o => s.nodes.all fun q => !s.isJob q.2 || decide (s.offerRank o < q.2.rank)

/-- GANG_OFFER: the scheduler offers the next gang that fits to a cluster in rotation (R360, R363, R365). -/
def execEvGangOffer (s : State) : Out :=
  let s := s.keepReserved
  .next ((tryOffers s s.view [] true s.firstOffers).getD s)

/-! ## COPY and CHAIN nodes (R354, R360) -/

/-- Whether a COPY or CHAIN node is the next work that the scheduler takes: none before it of those nodes, nor a gang that
fits (R360). DEDUCED (log 33). -/
def State.firstJob (s : State) (n : Node) : Bool :=
  s.nodes.all (fun q => !s.isJob q.2 || decide (n.rank ≤ q.2.rank))
    && (tryOffers s s.view [] true (s.offers.filter fun o => decide (s.offerRank o < n.rank))).isNone
/-- NODE_COPY: ready COPY node `m`, the next in its turn, runs on a copy engine; a copy of no bytes completes at once. -/
def execEvNodeCopy (s : State) : Out :=
  withReady 1 false s fun h n =>
    .next (if !s.firstJob n then s else if n.copy.len = 0 then s.finishNode h 0 else s.nodeJob h n (.copy n.copy))
/-- NODE_CHAIN: ready CHAIN node `m`, the next in its turn, runs on a chain engine, with the context's active banks
(R420). -/
def execEvNodeChain (s : State) : Out :=
  withReady 2 false s fun h n =>
    .next (if s.firstJob n then s.nodeJob h n (.chain (n.addr 12) 0 (s.ctx n.ctx).bank) else s)

/-! ## What the leaf answers (R361, R365) -/

/-- The warps of a grid that wait for every gang to be placed started (R365). -/
def State.startGrid (s : State) (gi : Nat) : State :=
  ((s.onGrid gi fun g => { g with began := true }).mapWarps fun w =>
    if w.grid = gi ∧ w.park = .unstarted then { w with park := .ready, age := s.fresh } else w).tick

/-- A placement undone that has not started: its warps, windows and segments freed, and what is said of it on the link taken
back. -/
def State.withdraw (s : State) (h : Nat) : State :=
  let mine (w : Warp) : Bool := w.gang == h && w.park == .unstarted
  let s := s.freeSegments h
  ({ s with
    warp := s.warp.vacate mine
    others := s.others.filter fun w => !mine w }.unsend (fun m => m.gang == h && (!m.kind.isUp || m.kind == LinkKind.placed || m.kind == LinkKind.refused))).onGang h fun g => { g with
      phase := if g.phase = GangPhase.restoring then .saved else .waiting
      cores := []
      segs := []
      firstCluster := if g.phase = GangPhase.restoring then g.firstCluster else none
      firstSegs := if g.phase = GangPhase.restoring then g.firstSegs else []
      placed := false }

/-- RETIRED: the scheduler counts the retired gang of cluster `k`'s next message; with a grid's last gang the
node completes, or its deposits are left to the sorter (R353, R359, R361). -/
def execEvRetired (s : State) : Out :=
  let cl := s.ev.k
  .next (match s.receive cl .retired with
    | none => s
    | some (h, s) =>
      let gi := (s.gang h).grid
      let s := s.onGrid gi fun g => { g with retired := g.retired + 1 }
      let s := s.trySaved (s.gang h).ctx
      let gr := s.grid gi
      if gr.lost ∨ gr.ended ∨ gr.retired < gr.total ∨ gr.launch.darea ≠ 0 then s
      else (s.finishNode gr.node 0).endGrid gi)

/-- FAULT: the scheduler receives the fault report of cluster `k`'s next message (R361); the grid it is about
has been taken off every die with the record (R407). -/
def execEvFault (s : State) : Out :=
  .next (match s.receive s.ev.k .fault with
    | none => s
    | some (_, s) => s.settle)

/-! ## Issue fairness (R366, R367) -/

/-- WARP_BOOST: the warp in the focus has been ready and not issued for 256 cycles (R367). -/
def execEvWarpBoost (s : State) : Out :=
  .next (if s.warp.park = .ready then (s.onWarp fun w => { w with boost := true, boostCount := 256, boostAt := if w.boost then w.boostAt else s.fresh }).tick else s)

end Sys2Proof.Machine
end

