-- ==== Sys2Proof/Machine/Health.lean ====
section
/-! DEFINITION. Uncorrectable errors (R406, R410, R454), firmware (R448, R456), resets (R457), the clock and
the trips of the module (R31, R458, R459), HSEC and demerits (R435), the suspect-unit map (R425), health
records (R455), and the performance counters (R441, R442). -/

namespace Sys2Proof.Machine

/-! ## Uncorrectable errors (R406, R410) -/

/-- The grids of the warps whose windows hold a pool entry of a core. -/
def State.poolOwners (s : State) (core n : Nat) : List Nat :=
  ((s.onCoreWarps core).filter fun w => decide (w.window ≤ n) && decide (n < w.window + w.regs.vcount.toNat)).map fun w => w.grid
/-- Whether an entry forms results in the array. -/
def MEntry.inArray (e : MEntry) : Bool := match e.op with
  | .mma _ _ _ _ => true
  | _ => false
/-- The grid of the operation that holds a plane of a core's array: plane 0 is that of the entry at the head of its matrix
queue, and plane 1 may be filling for the next (R166). -/
def State.planeOwners (s : State) (core plane : Nat) : List Nat :=
  (((s.core core).mq.takeWhile MEntry.inArray).drop plane).head?.toList.map fun e => (s.gang e.gang).grid
/-- The grid that a claimed segment in SCRATCH or FIFO mode belongs to. -/
def State.segmentOwners (s : State) (cl seg : Nat) : List Nat :=
  let g := s.segment cl seg
  if g.claimed ∧ g.mode ≠ .cache then [(s.gang g.gang).grid] else []
/-- Every grid with a gang on a core. -/
def State.coreOwners (s : State) (core : Nat) : List Nat :=
  (s.gangs.filterMap fun g => if g.2.cores.contains core && g.2.phase != .retired then some g.2.grid else none).eraseDups

/-- An error that costs the owners of a unit their grids, with a record for each, or one where it costs none. -/
def State.containOwners (s : State) (p : ErrPlace) (scrub : Bool) (level : Word) (gs : List Nat) : State :=
  let s := s.logError p true scrub
  let words := uncorrectableWords level p.loc false
  let live := gs.eraseDups.filter fun g => !(s.grid g).lost && !(s.grid g).ended
  if live.isEmpty then s.report (unitRec 15 0 p.ukind p.unit words)
  else live.foldl (fun s g => s.loseOwner g p.ukind p.unit words) s

/-- The contexts with work on the dies at either end of a link: gangs that run there, and jobs of its engines. -/
def State.contextsAt (s : State) (dies : List Nat) : List Nat :=
  ((s.gangs.filterMap fun g => if dies.contains (dieOfCluster g.2.cluster) && !g.2.cores.isEmpty then some g.2.ctx else none)
    ++ s.clusters.flatMap fun c => if dies.contains (dieOfCluster c.1) then c.2.engine.map fun j => j.ctx else []).eraseDups
/-- The dies at the ends of a link. -/
def linkEnds (k : Nat) : List Nat :=
  match k with
  | 0 => [0, 1]
  | 1 => [0, 2]
  | 2 => [1, 3]
  | 3 => [2, 3]
  | _ => [0]
/-- An uncorrectable header on link `k` (0 to 3 die to die, 4 to 11 a fabric port): every context in its replay
window is torn down, or where that overflowed every context with work at either end; one HEADER_BLAME record
names the link (R410). -/
def State.blameHeader (s : State) (k : Nat) : State :=
  let set := (SMap.get s.dev.blame k []).filter fun q => decide ((s.dtb - q.2).toNat ≤ 4000)
  let wide := decide (32 < set.length)
  let cs := if wide then s.contextsAt (linkEnds k) else set.map (·.1)
  let live := cs.filter fun c => (s.ctx c).phase != .none && (s.ctx c).phase != .tornDown
  let s := live.foldl (fun s c => s.removeCtx c) s
  let unit := if k < 4 then k else k - 4
  let kind := if k < 4 then 8 else 7
  let scope := if live.isEmpty then 0 else 3
  let s := (s.report (unitRec 15 scope kind unit (uncorrectableWords s.freeWord 0 false))).tick
  s.report (unitRec 16 3 kind unit [BitVec.ofNat 32 live.length, if wide then 1 else 0])

/-- A tag or home token field that cannot be read, at a place that the record of its containment will name: what its holder
had of the line is lost, and the line is recovered (R228, R257, R406). -/
def State.loseTag (s : State) (p : ErrPlace) (h x : Nat) : State :=
  ((s.onDev fun d => { d with lostAt := SMap.put d.lostAt x p }).setTok h x {}).recover x
/-- A header as it arrived, from its bytes (R231). -/
def headerOf (bs : List Byte) : BitVec 128 := BitVec.ofNat 128 (wordOfBytes bs)

/-- UNCORRECTABLE: an error that cannot be corrected, by where it is found: `k` = 0 pool entry `n` of core `m`,
1 accumulator plane `n` of core `m`, 2 segment `n` of cluster `m`, 3 B-store of core `m`, 4 clean data and 5 dirty
data of a line cached at level `n`, 6 a memory word, 7 a tag or home token field, at the address `v`; 8 the
header of link `m`, whose message `n` carried tokens if `b`: with 16 `bytes` they are the header, which must be one that
cannot be used (R231). Elsewhere `b` says that the scrubber found it, which it does only while it runs (R225).
DEDUCED (log 36). -/
def execEvUncorrectable (s : State) : Out :=
  let m := s.ev.m
  let n := s.ev.n
  let v := s.ev.v.toNat
  let x := v / 128
  let scrub := s.ev.b
  let cached (level : Nat) : ErrPlace := errPlace (if level = 2 ∨ level = 3 ∨ level = 4 then level else 3) m n v
  let level : Nat := match s.ev.k with
    | 0 => 0
    | 2 => 2
    | 3 => 1
    | 4 | 5 => (cached n).level
    | 7 => if n = 2 ∨ n = 3 ∨ n = 4 then n else (memPlace v).level
    | _ => (memPlace v).level
  .next (if scrub ∧ s.ev.k ≠ 1 ∧ s.ev.k ≠ 8 ∧ ¬ s.scrubs level then s else match s.ev.k with
    | 0 => s.containOwners (errPlace 0 m n s.ev.w.toNat) scrub 0 (s.poolOwners (m % 768) (n % 4096))
    | 1 =>
      let p : ErrPlace := ⟨dieOfCluster (clusterOfCore (m % 768)), 0, 1, m % 768, 0⟩
      let live := (s.planeOwners (m % 768) (n % 2)).filter fun g => !(s.grid g).lost && !(s.grid g).ended
      let words := uncorrectableWords s.freeWord s.freeWord.toNat false
      if live.isEmpty then (s.report (unitRec 15 0 1 p.unit words)).tick
      else (live.foldl (fun s g => s.loseOwner g 1 p.unit words) s).tick
    | 2 => s.containOwners (errPlace 2 m n v) scrub 2 (s.segmentOwners (m % 192) (n % 32))
    | 3 => s.containOwners (errPlace 1 m n v) scrub 1 (s.coreOwners (m % 768))
    | 4 => s.containOwners (cached n) scrub (BitVec.ofNat 32 (cached n).level) []
    | 5 => if cacheable v then (s.logError (cached n) true scrub).containPage (cached n) v true else s
    | 6 => if cacheable v then (s.logError (memPlace v) true scrub).containPage (memPlace v) v false else s
    | 7 =>
      let h := if n = 2 then m % 192 else if n = 3 then poolOf (m % 4) else homeHolder x
      let p := if n = 2 ∨ n = 3 ∨ n = 4 then cached n else memPlace v
      if cacheable v then (s.logError p true scrub).loseTag p h x else s
    | 8 =>
      if s.ev.bytes.length = 16 ∧ ¬ headerBad (headerOf s.ev.bytes) then s
      else match if s.ev.b then s.cohMsgs[n]? else none with
      | some c =>
        let t := { s with cohMsgs := s.cohMsgs.eraseIdx n }
        (if c.tok = 0 then t else t.recover c.line).blameHeader (m % 12)
      | none => s.blameHeader (m % 12)
    | _ => s)

/-! ## Resets (R457) -/

/-- The machine after a reset. Every register has its reset value; a warm reset keeps the data of HBM4 and
DDR-5, of a line that was dirty its memory copy, the demerits and the fenced cores, HSEC, the error logs and what they
took out of use. Host and peer
memory are not the device's. DEDUCED (log 37). -/
def State.resetAs (s : State) (warm : Bool) : State :=
  let base : State :=
    { mem := s.mem.filter fun c => decide (c.1 < 2 ^ 52) && (warm || decide (2 ^ 42 ≤ c.1))
      agenda := s.agenda, ev := s.ev, fresh := s.fresh }
  if !warm then base
  else
    let base := { base with
      cores := s.cores.mapVal fun c => { demerits := c.demerits, fenced := c.fenced }
      errors := s.errors
      retiredUnits := s.retiredUnits
      quarantine := s.quarantine
      mem := s.memCopy.foldl (fun m q => m.writeBytes (128 * q.1) q.2) base.mem
      dev := { hsec := s.dev.hsec, logovf := s.dev.logovf, nret := s.dev.nret, quarTimes := s.dev.quarTimes, quarDtb := s.dev.quarDtb,
               quarAt := s.dev.quarAt } }
    s.retiredUnits.foldl (fun t u =>
      if u.1 = 2 then t.onSegment (u.2 / 32) (u.2 % 32) fun g => { g with retired := true } else t) base

/-- WARM_RESET: the host writes `w` to RESETCTL; 0xA5 resets the device (R445, R457). -/
def execEvWarmReset (s : State) : Out := .next (if s.ev.w = 0xA5 then s.resetAs true else s)
/-- COLD_RESET: PERST#, or power has returned (R457, R459). -/
def execEvColdReset (s : State) : Out := .next (s.resetAs false)

/-! ## The clock and the trips (R31, R458, R459) -/

/-- The core clock lowered or restored by 50 MHz, between 0.8 and 2.0 GHz. -/
def State.stepClock (s : State) (up : Bool) : State :=
  s.onDev fun d => { d with mhz := if up then min 2000 (d.mhz + 50) else max 800 (d.mhz - 50) }
/-- The module trips off: nothing acts until power returns, with the effect of a cold reset. -/
def State.moduleOff (s : State) : State := s.onDev fun d => { d with off := true, fwReason := 4 }

/-- CLOCK_STEP: the power manager lowers the core clock, or with `b` restores it (R31). -/
def execEvClockStep (s : State) : Out := .next (s.stepClock s.ev.b)
/-- POWER_TRIP: the limit is still exceeded at 0.8 GHz after 10 ms (R458). -/
def execEvPowerTrip (s : State) : Out := .next (if s.dev.mhz = 800 then s.moduleOff else s)
/-- JUNCTION_95: a die junction at 95 °C lowers the clock (R459). -/
def execEvJunction95 (s : State) : Out := .next (s.stepClock false)
/-- JUNCTION_105: a die junction at 105 °C turns the module off (R459). -/
def execEvJunction105 (s : State) : Out := .next s.moduleOff
/-- FLOW_LOW: a flow below 2.0 L/min for 1 s turns the module off (R459). -/
def execEvFlowLow (s : State) : Out := .next s.moduleOff

/-! ## HSEC (R435) -/

/-- HSEC at a later time: each whole hour that it passes lowers every core's demerits by 1 (R435), and each multiple of
HPERIOD asks for a record (R455). -/
def State.hsecTo (s : State) (h : Nat) : State :=
  let hours := h / 3600 - s.dev.hsec.toNat / 3600
  let p := s.dev.hperiod.toNat
  let periods := if p = 0 then 0 else h / p - s.dev.hsec.toNat / p
  { s with cores := s.cores.mapVal fun c => { c with demerits := BitVec.ofNat 8 (c.demerits.toNat - hours) } }.onDev fun d =>
    { d with hsec := BitVec.ofNat 32 h, healthAsk := d.healthAsk ++ List.replicate periods 1 }
/-- DEMERIT_DECAY: HSEC counts: up to its next whole hour, or only `n` seconds on where `n` is not 0 and the hour is farther
off (R435). -/
def execEvDemeritDecay (s : State) : Out :=
  let h := s.dev.hsec.toNat
  let hour := (h / 3600 + 1) * 3600
  .next (s.hsecTo (if s.ev.n = 0 then hour else min hour (h + s.ev.n)))

/-! ## The suspect-unit map (R425) -/

/-- UKIND and number of an entry of the map (R21, R425). -/
def suspectUnit (u : Nat) : Nat × Nat :=
  if u < 768 then (1, u) else if u < 960 then (2, u - 768) else if u < 1216 then (3, u - 960)
  else if u < 1344 then (4, u - 1216) else if u < 1360 then (5, u - 1344) else if u < 1372 then (6, u - 1360)
  else if u < 1380 then (7, u - 1372) else if u < 1384 then (8, u - 1380) else (9, u - 1384)
/-- The two words of an entry. -/
def State.suspectWords (s : State) (u : Nat) : List Word :=
  let (kind, n) := suspectUnit u
  let core := s.core n
  let fenced := (kind == 1 && core.fenced) || (kind == 2 && (List.range 4).all fun k => (s.core (4 * n + k)).fenced)
  let marked := s.errors.any fun e => e.ukind == kind && e.unit == n && (e.lasting || e.ue) && decide (s.dev.hsec.toNat < e.hsec + 86400)
  let suspect := marked || (kind == 1 && (decide (16 ≤ core.demerits.toNat) || core.limitHit))
  let dem := if kind = 1 then core.demerits.toNat else 0
  [BitVec.ofNat 32 (kind * 2 ^ 28 + n),
   BitVec.ofNat 32 ((if fenced then 2 ^ 31 else 0) + (if suspect then 2 ^ 30 else 0) + dem * 2 ^ 16 + SMap.get s.dev.nret u 0)]

/-! ## Health records (R455) -/

/-- The four counts of the error log of a die and level. -/
def State.logSummary (s : State) (d v : Nat) : List Byte :=
  let t := s.errTable d v
  if v = 7 then bytesOfNat 8 0
  else bytesOfNat 2 t.length ++ bytesOfNat 2 (t.countP fun e => e.lasting) ++ bytesOfNat 2 (t.countP fun e => e.retired)
    ++ bytesOfNat 2 (SMap.get s.dev.logovf (8 * d + v) 0).toNat
/-- The 11,584 bytes of a record. Its digest is a function of the running image, and its signature depends on a key that the
manual does not give (log 5). -/
def State.healthBytes (s : State) (cause : Nat) (seq : BitVec 64) : List Byte :=
  let nonce := if cause = 0 then s.dev.askNonce.toNat else 0
  bytesOfNat 4 0x484C5448 ++ bytesOfNat 4 1 ++ bytesOfNat 8 Config.serial.toNat ++ bytesOfNat 8 seq.toNat
    ++ bytesOfNat 8 s.dev.hsec.toNat ++ bytesOfNat 8 s.dtb.toNat ++ bytesOfNat 8 nonce
    ++ (List.range 48).map (Config.digestByte s.dev.fwImage)
    ++ bytesOfNat 4 cause ++ bytesOfNat 4 s.dev.clock.code ++ bytesOfNat 24 0
    ++ bytesOfWords ((List.range 1388).flatMap s.suspectWords)
    ++ (List.range 4).flatMap (fun d => (List.range 8).flatMap fun v => s.logSummary d v)
    ++ (List.range 96).map fun i => Config.freeByte (s.fresh + i)

/-- HREQ: the host asks for a record by writing 1; requests that wait are merged, with the latest nonce. -/
def execEvHreq (s : State) : Out :=
  .next (if s.ev.w = 1 then
    s.onDev fun d => { d with
      healthAsk := if d.healthAsk.contains 0 then d.healthAsk else d.healthAsk ++ [0]
      askNonce := d.hnonce }
  else s)
/-- HEALTH_PERIODIC: HSEC reaches the next multiple of HPERIOD and a record is asked for; 0 disables it. -/
def execEvHealthPeriodic (s : State) : Out :=
  let p := s.dev.hperiod.toNat
  .next (if p = 0 then s else s.hsecTo ((s.dev.hsec.toNat / p + 1) * p))
/-- HEALTH_RECORD: the next record asked for is written to the health ring, which is filled as a fault queue
is (R402, R403). -/
def execEvHealthRecord (s : State) : Out :=
  .next (match s.dev.healthAsk with
    | [] => s
    | cause :: rest =>
      let s := s.onDev fun d => { d with healthAsk := rest }
      let q := s.dev.hq
      if !q.registered then s
      else if q.full then s.onDev fun d => { d with hq := q.drop }
      else
        let seq := s.dev.healthSeq + 1
        let m := s.mem.writeBytes (q.slot 11584) (s.healthBytes cause seq)
        let t := { s with mem := m }.tick 96
        (t.onDev fun d => { d with hq := q.push, healthSeq := seq }).sendOpt (if q.rd = q.wr then some q.vector else none))

/-! ## Firmware (R448, R456) -/

/-- LDRGO: the host writes 1, and the block verifies the image in the loader window. -/
def execEvLdrgo (s : State) : Out :=
  .next (if s.ev.w = 1 ∧ (s.dev.fwState = 1 ∨ s.dev.fwState = 2) then s.onDev fun d => { d with fwState := 3, fwReason := 0 } else s)
/-- FIRMWARE_VERIFIED: verification ends. With `b` the image, of version `n`, starts and FWSTAT reads READY: the one that the
driver has loaded, or after a reset the module's own, which has no bytes here. Otherwise it is not run, and FWSTAT reads FAIL with reason 1 (signature) or 3 (malformed). -/
def execEvFirmwareVerified (s : State) : Out :=
  .next (if s.dev.fwState = 0 ∨ s.dev.fwState = 3 then
    s.onDev fun d => { d with
      fwState := if s.ev.b then 1 else 2
      fwReason := if s.ev.b then 0 else if s.ev.n = 3 then 3 else 1
      fwVersion := if s.ev.b then BitVec.ofNat 16 s.ev.n else 0
      fwImage := if !s.ev.b then d.fwImage else if d.fwState = 3 then (List.range d.ldrlen.toNat).map d.loader.read else [] }
  else s)
/-- HEARTBEAT_MISSED: placement stops, every context is torn down with a TORN_DOWN record of SCOPE 4, and FWSTAT
reads FAIL (R456). -/
def execEvHeartbeatMissed (s : State) : Out :=
  let live := s.ctxs.filterMap fun c => if c.2.phase = .none ∨ c.2.phase = .tornDown then none else some c.1
  .next (if s.dev.fwState ≠ 1 then s
    else (live.foldl (fun s c => s.tearDown c 2 4) s).onDev fun d => { d with fwState := 2, fwReason := 2, fwVersion := 0 })

/-! ## Performance counters (R441, R442) -/

/-- The events whose number only the timing of an implementation gives; the others are counted where they occur (R441).
DESIGN CHOICE (log 40). -/
def timedEvent (slice : Bool) (event : Nat) : Bool :=
  if slice then event == 32 || event == 33 || event == 34
  else event == 1 || (decide (3 ≤ event) && decide (event ≤ 10))
/-- PMC_WRAP: counter `n` of core `k`, or with `b` of L2 slice `k`, counts `v` of its events, which are of context `m`, and
wraps modulo 2^48 (R442). -/
def execEvPmcWrap (s : State) : Out :=
  let n := s.ev.n % 8
  let sel := if s.ev.b then SMap.get s.l2pmcsel (8 * (s.ev.k % 256) + n) 0 else SMap.get (s.core (s.ev.k % 768)).pmcsel n 0
  let event := sel.toNat % 256
  .next (if !timedEvent s.ev.b event || !pmcCounts sel event s.ev.m then s
    else if s.ev.b then s.slicePmc (s.ev.k % 256) n s.ev.v.toNat
    else s.corePmc (s.ev.k % 768) n s.ev.v.toNat)

/-! ## Corrected transfers (R223, R224, R440) -/

/-- FLIT_RETRANSMIT: a flit of link `k`, 0 to 3 die to die and 4 to 11 a fabric port, is sent again (R223), with `b` the one
sent again before it. A port that would send one a ninth time declares its link down instead (R452). -/
def execEvFlitRetransmit (s : State) : Out :=
  let k := s.ev.k % 12
  let row := if s.ev.b then SMap.get s.dev.retxRow k 0 + 1 else 1
  .next (if s.dev.portsDown.contains k then s
    else if 4 ≤ k ∧ 8 < row then s.onDev fun d => { d with portsDown := d.portsDown ++ [k] }
    else s.onDev fun d => { d with retx := SMap.upd d.retx k 0 (· + 1), retxRow := SMap.put d.retxRow k row })
/-- PARITY_DISCARD: a flit or queue entry of cluster `k` is discarded and sent again (R224). -/
def execEvParityDiscard (s : State) : Out :=
  .next (s.onCluster (s.ev.k % 192) fun c => { c with parcnt := c.parcnt + 1 })

end Sys2Proof.Machine
end

