-- ==== Sys2Proof/Machine/Switch.lean ====
section
/-! DEFINITION. Pre-emption and restoration: a switch taking effect and ending, saving a gang and its image,
and restoring it (R111, R174, R369 to R380, R384, R385, R429, R477). -/

namespace Sys2Proof.Machine

/-! ## A PREEMPT and a RESUME take effect (R370, R384, R385) -/

/-- Whether a PREEMPT of a context acts on nothing: it is torn down or absent, or has no save area. -/
def Ctx.noPreempt (c : Ctx) : Bool := c.phase == .tornDown || c.phase == .none || c.swdesc == 0
/-- A PREEMPT acts: from now a switch is pending, fabric injection stops, parked warps are held and the context
is SAVING. A context that is SAVING or SAVED is left as it is. -/
def State.actPreempt (s : State) (c : Nat) : State :=
  if (s.ctx c).phase = .running ∨ (s.ctx c).phase = .frozen then
    let s := s.onCtx c fun x => { x with phase := .saving, switchPending := true, injectionStopped := true, saveDone := 0 }
    (s.mapWarps fun w => if w.ctx = c ∧ w.regs.chkrole.toNat < 2 then w.holdParked else w).trySaved c
  else s

/-- A RESUME of a SAVED context acts: it leaves SAVED, the switch is no longer pending and injection resumes. -/
def State.actResume (s : State) (c : Nat) : State :=
  if (s.ctx c).phase = .saved then
    (s.onCtx c fun x => { x with phase := .running, switchPending := false, injectionStopped := false, saveDone := 0 }).onCtx c Ctx.ringPhase
  else s

/-- DRIVER_PREEMPT: SWREQ of context `k` receives 1 (R373); a request that would be NOT_APPLICABLE is ignored. -/
def execEvDriverPreempt (s : State) : Out :=
  .next (if (s.ctx s.ev.k).noPreempt then s else s.actPreempt s.ev.k)
/-- DRIVER_RESUME: SWREQ of context `k` receives 2 (R369). -/
def execEvDriverResume (s : State) : Out := .next ((s.actResume s.ev.k).tryResumed s.ev.k)

/-! ## Saving a gang (R371, R374, R376, R429) -/

/-- The place in its context's save area of the next image: past those that it holds or has set aside.
DEDUCED (log 24). -/
def State.imageEnd (s : State) (ctx : Nat) : Nat :=
  s.gangs.foldl (fun n x => if x.2.ctx = ctx ∧ (x.2.phase = .saved ∨ x.2.phase = .restoring ∨ (x.2.told ∧ x.2.phase = .running)) then
    max n (x.2.imageOff + x.2.imageSize) else n) 0
/-- The most bytes that the save image of a gang takes (R371, R374): the records, each with a pending-fault record, the
segments, their FIFO indices, the waiters of its barriers, and with POL = 1 the B-stores. -/
def State.imageBound (s : State) (g : Gang) : Nat :=
  let l := (s.grid g.grid).launch
  let warps := l.gang * l.warps
  warps * (960 + 128 * l.vcount) + g.segs.length * (segSize + 8) + 4 + 12 * warps + (if l.pol then l.gang * 8388608 else 0)

/-- SAVE: with `b` the scheduler tells the leaf of gang `m` to save it, over the gang's link, with the address of its
save image; else the leaf of cluster `k` receives its next SAVE (R361, R371). -/
def execEvSave (s : State) : Out :=
  let g := s.gang s.ev.m
  .next (if s.ev.b then
    if g.phase = .running ∧ ¬ g.told ∧ ((s.ctx g.ctx).switchPending ∨ g.moved) then
      let off := s.imageEnd g.ctx
      (s.onGang s.ev.m fun x => { x with told := true, imageOff := off, imageSize := s.imageBound g }).post
        { cluster := g.cluster, kind := .save, gang := s.ev.m, image := ((s.saveArea g.ctx).map (·.1)).getD 0 + off }
    else s
  else match s.receive s.ev.k .save with
    | some (h, t) => t.onGang h fun x => { x with asked := x.told && x.phase == .running }
    | none => s)

/-- The warps of a gang, its shadow and tiebreak runs left out, by block and warp number. -/
def State.gangMembers (s : State) (h : Nat) : List Warp :=
  let ws := s.warps.filter fun w => w.gang == h && w.park != .vacant && w.regs.chkrole.toNat < 2
  (List.range 4).flatMap fun r => (List.range 32).flatMap fun i =>
    ws.filter fun w => w.regs.gangrank.toNat == r && w.regs.wid.toNat == i

/-- Whether an outstanding load or atomic of a warp has been sent back whole, but for lanes whose results have landed: it is
not outstanding while its warp is saved (R205, R429). -/
def State.isBack (s : State) (w : Warp) (a : Access) : Bool :=
  (match a.kind with
    | .load _ _ _ | .sload _ | .atom _ _ _ => true
    | _ => false)
  && !a.lanes.isEmpty && a.due.isEmpty && a.lanes.all fun l => l.stage == 0 && l.seen.isEmpty && l.next.any fun p =>
    match s.locNow w.ctx a.push p with
    | .logged _ _ | .pushLog _ _ => true
    | _ => false
/-- Whether a warp may be saved now: it has exited, or it is held at a blocking point with every access
performed or sent back, every matrix entry complete, and no span before Hazel (R174, R368, R371, R429). -/
def State.savable (s : State) (w : Warp) : Bool :=
  w.park == .exited || (w.held && w.park.blocking && w.flights.all (·.done) && w.regs.cnt.m == 0
    && w.out.all (fun a => a.kind == .fence || a.kind == .fenceRel || a.kind == .fenceAcq || s.isBack w a)
    && !(s.votes.any fun v => v.primary.uid == w.uid))
/-- The counters that the accesses sent back hold raised while their warp runs. -/
def Warp.backCounts (w : Warp) (c : Counters) : Counters :=
  w.out.foldl (fun c a => match a.kind with
    | .atom _ 0 _ => { c with a := c.a + 1 }
    | .atom _ _ _ => { c with s := c.s + 1 }
    | .load _ _ _ | .sload _ => { c with l := c.l + 1 }
    | _ => c) c

/-- The blocking-point kind and wake operands of a park (R368, R374). -/
def parkWords : Park → Nat × List Word
  | .barrier _ par off _ _ => (1, [off, if par then 1 else 0, 0, 0])
  | .monitor p c x _ _ => (2, [BitVec.ofNat 32 p, BitVec.ofNat 32 (p / 2 ^ 32), BitVec.ofNat 32 c, x])
  | .bsync => (3, [0, 0, 0, 0])
  | .gsync g => (4, [BitVec.ofNat 32 g, 0, 0, 0])
  | .fifo seg => (5, [BitVec.ofNat 32 seg, 0, 0, 0])
  | .far _ _ => (6, [0, 0, 0, 0])
  | .batch n => (7, [n, 0, 0, 0])
  | .verdict => (8, [0, 0, 0, 0])
  | .held => (9, [0, 0, 0, 0])
  | .fault _ _ _ _ => (10, [0, 0, 0, 0])
  | .yield => (11, [0, 0, 0, 0])
  | .fabric => (12, [0, 0, 0, 0])
  | _ => (0, [0, 0, 0, 0])
/-- The pending-fault record of a warp that has one (R205, R374): the faulting address, the access kind as a page
request gives it, and the PC of the instruction. DEDUCED (log 24). -/
def Warp.pfrWords (w : Warp) : Option (List Word) :=
  match w.park with
  | .fault _ i0 i1 fetch => some [i0, i1 &&& 0xFFFFF, (if i1.getLsbD 30 then 1 else 0) ||| (if fetch then 2 else 0), w.pc.word, 0, 0, 0, 0]
  | .far _ (some (va, write, pc)) => some [adr0 va, adr1w va, if write then 1 else 0, pc.word, 0, 0, 0, 0]
  | _ => none
def Warp.pfr (w : Warp) : Bool := w.pfrWords.isSome
/-- The 16 words of a save record's header (R374). -/
def Warp.header (w : Warp) : List Word :=
  let (kind, args) := parkWords w.park
  let exited := w.park == .exited
  let bit (b : Bool) (n : Nat) : Nat := if b then 2 ^ n else 0
  let latch := match w.latch with
    | some l => latchIndex l.cause
    | none => 0
  [BitVec.ofNat 32 (kind * 2 ^ 28 + bit w.pend 27 + bit exited 26 + bit w.pfr 25 + latch * 2 ^ 20
      + w.regs.wid.toNat * 2 ^ 5 + w.regs.gangrank.toNat * 2 ^ 3),
    if exited then 0 else w.pc.word] ++ args ++
    [if w.pend then w.wval else 0] ++ ((w.latch.map Latch.address).getD [0, 0]) ++ [0, 0, 0, 0, 0, 0, 0]
/-- Bytes of a warp's save record. -/
def Warp.recordSize (w : Warp) : Nat := 64 + 256 + 512 + 96 + (if w.pfr then 32 else 0) + 128 * w.regs.vcount.toNat
/-- A warp's save record as words: the blocks that only the firmware lays out hold free values (R374). -/
def Warp.recordWords (w : Warp) (fresh : Nat) : List Word :=
  w.header ++ (List.range 216).map (fun i => Config.freeWord (fresh + i)) ++ w.pfrWords.getD [] ++
    (List.range w.regs.vcount.toNat).flatMap fun n => (w.regs.entry n).toList

/-- The counters of a save record: of L, S, M and A only the 1 of an armed monitor (R429). -/
def Warp.savedCounts (w : Warp) : Counters :=
  { c := w.regs.cnt.c, a := match w.park with
      | .monitor _ _ _ _ _ => 1
      | _ => 0 }
/-- A warp as its image holds it: at no place of any cluster's SRAM, with no packet fetched, and no entry in flight
that owns a region (R174); a checked primary's are kept for the tile records of their wait (R331). -/
def Warp.imaged (g : Gang) (w : Warp) : Warp :=
  { w with
    park := match w.park with
      | .barrier _ par off pc poll => .barrier (2 ^ 40 + off.toNat) par off pc poll
      | .fifo seg => .fifo (64 + (g.segs.findIdx? fun x => x == seg).getD 0)
      | p => p
    flights := if w.regs.chkrole = 1 then w.flights.map fun e => { e with
      reads := []
      writes := []
      bwords := 0 } else []
    regs := { w.regs with clkHi := none, dtbHi := none, cnt := if w.park = .exited then w.regs.cnt else w.savedCounts }
    nest := w.nest.map Nest.saved
    stale := []
    ibuf := none
    boost := false }

/-- The B-store words of the gang's cores, by block (R371). -/
def State.bstoreOf (s : State) (cores : List Nat) : SMap Word :=
  cores.zipIdx.flatMap fun q => (s.bstore.filter fun b => b.1 / (128 * 16384) == q.1).map fun b => (q.2 * (128 * 16384) + b.1 % (128 * 16384), b.2)

/-- The words of a segment as its image holds them: its bytes, or the entries of a FIFO at their slots (R371). -/
def State.segmentWords (s : State) (cl seg : Nat) : List Word :=
  let g := s.segment cl seg
  (List.range (segSize / 4)).map fun i =>
    if g.mode = .fifo then
      match g.fifo[(i / 32 + 2048 - g.head.toNat) % 2048]? with
      | some e => laneAt e (i % 32)
      | none => 0
    else BitVec.ofNat 32 (s.sram.readNat (sramAddr cl seg (4 * i)) 4)
/-- The warps parked at barriers of a gang: the object's offset, the parity, and the warp's RANK and WID (R371). -/
def waiterWords (ws : List Warp) : List Word :=
  let l := ws.filterMap fun w => match w.park with
    | .barrier _ par off _ _ => some [off, if par then 1 else 0, BitVec.ofNat 32 (w.regs.gangrank.toNat * 32 + w.regs.wid.toNat)]
    | _ => none
  BitVec.ofNat 32 l.length :: l.flatten
/-- The segment image of a gang: its segments, the index and count of each FIFO, the waiters of its barriers, and
with POL = 1 the B-stores of its cores (R371). DEDUCED (log 24). -/
def State.segmentImage (s : State) (g : Gang) (pol : Bool) (ws : List Warp) : List Word :=
  g.segs.flatMap (s.segmentWords g.cluster) ++
    g.segs.flatMap (fun k =>
      let x := s.segment g.cluster k
      [x.head.setWidth 32, BitVec.ofNat 32 x.fifo.length]) ++
    waiterWords ws ++
    (if pol then g.cores.flatMap fun c => (List.range (128 * 16384)).map fun i => SMap.get s.bstore (c * (128 * 16384) + i) 0 else [])

/-- The save image of a gang written where its SAVE said (R371 step 3 and 4, R374); nothing where it does not fit or an
area cannot be reached. DEDUCED (log 24). -/
def State.writeImage (s : State) (h : Nat) (ws : List Warp) : Option State :=
  let g := s.gang h
  let image := s.segmentImage g (s.grid g.grid).launch.pol ws
  let size := ws.foldl (fun n w => n + w.recordSize) 0 + 4 * image.length
  match s.saveArea g.ctx with
  | none => none
  | some (base, room) =>
    if room < g.imageOff + size then none
    else
      let (s, va, heads) := ws.foldl (fun (q : Option State × Nat × List Nat) w =>
        (q.1.bind fun s => (s.tick 216).putCtxWords g.ctx q.2.1 (w.recordWords s.fresh), q.2.1 + w.recordSize, q.2.2 ++ [q.2.1]))
        (some s, base + g.imageOff, [])
      (s.bind fun s => s.putCtxWords g.ctx va image).map fun s => s.onGang h fun x => { x with
        imageSize := size
        headers := heads.map fun a => (s.ctxPhys g.ctx a true).getD 0 }

/-- Whether a gang's copies let it be saved: none is left that is not held (R371, R477). -/
def State.copiesHeld (s : State) (h : Nat) : Bool :=
  s.clusters.all fun c => c.2.engine.all fun j => j.gang != h || j.node.isSome || s.jobHeld j

/-- GANG_SAVE: gang `m`, which its leaf has been told to save, is saved once every warp of it is held or has
exited and its work is done; its resources are freed and SAVED goes up (R371). -/
def execEvGangSave (s : State) : Out :=
  let h := s.ev.m
  let g := s.gang h
  let ws := s.gangMembers h
  let ready := g.phase == .running && g.asked && ws.all s.savable && s.copiesHeld h
    && (s.cluster g.cluster).changes.all fun k => !(ws.any fun w => k.warp == some w.uid)
  .next (if !ready then s
  else match s.writeImage h ws with
    | none => s.tearDown g.ctx 1
    | some s =>
      let jobs := s.clusters.flatMap fun c => c.2.engine.filter fun j => j.gang == h && j.node.isNone
      let bytes := g.segs.zipIdx.flatMap fun q =>
        (s.sram.filter fun b => b.1 / segSize == g.cluster * 32 + q.1).map fun b => (q.2 * segSize + b.1 % segSize, b.2)
      let segs := g.segs.map fun k => s.segment g.cluster k
      let image := ws.map (Warp.imaged g)
      let bst := if (s.grid g.grid).launch.pol then s.bstoreOf g.cores else []
      let gone (w : Warp) : Bool := w.gang == h && w.park != .vacant && w.regs.chkrole.toNat < 2
      let s := s.freeSegments h
      let s := { s with
        warp := s.warp.vacate gone
        others := s.others.filter fun w => !gone w
        clusters := s.clusters.mapVal fun c => { c with engine := c.engine.filter fun (j : EngineJob) => !(j.gang == h && j.node.isNone) } }
      let s := s.onGang h fun x => { x with
        phase := .saved
        told := false
        asked := false
        placed := false
        cores := []
        segs := []
        image := image
        imageBytes := bytes
        imageSegs := segs
        imageJobs := jobs
        imageB := bst }
      s.post { cluster := g.cluster, kind := .saved, gang := h, places := ws.map Warp.placeOnly, segs := g.segs })

/-- SAVED: the scheduler records the saved gang of cluster `k`'s next message; with the last one the context is
SAVED (R372). -/
def execEvSaved (s : State) : Out :=
  .next (match s.receive s.ev.k .saved with
    | none => s
    | some (h, s) => (s.onCtx (s.gang h).ctx fun c => { c with saveDone := c.saveDone + 1 }).trySaved (s.gang h).ctx)

/-! ## PEND in a saved header (R375) -/

/-- The PEND bit and the value written in the headers of saved warps that have been woken since. -/
def State.syncPend (s : State) : State :=
  let due := s.gangs.flatMap fun g => if g.2.phase = .saved then
    (g.2.image.zip g.2.headers).filter fun q => q.1.pend && (s.mem.read (q.2 + 3)).toNat / 8 % 2 == 0 else []
  due.foldl (fun s q => { s with
    mem := (s.mem.write (q.2 + 3) (s.mem.read (q.2 + 3) ||| 8)).writeBytes (q.2 + 24) (bytesOfNat 4 q.1.wval.toNat) }) s

/-! ## Restoring a gang (R273, R377, R380) -/

/-- The parks of a restored gang's warps at their new places. -/
def Warp.relocate (g : Gang) (w : Warp) : Warp :=
  { w with park := match w.park with
      | .barrier _ par off pc poll => .barrier (g.place off.toNat) par off pc poll
      | .fifo n => .fifo (g.segs.getD (n - 64) 0)
      | p => p }

/-- An entry of the arrival log performed (R378); a failure that it meets has no agent left to report to.
DEDUCED (log 24). -/
def State.replay (s : State) (g : Gang) (e : ArrivalEntry) : State :=
  let a := g.place e.off
  match e.kind with
  | 0 =>
    let bs := e.data.flatMap fun w => bytesOfNat 4 w.toNat
    (List.range 16).foldl (fun s i => if e.mask.testBit i then s.writeSram (a + i) [bs.getD i 0] else s) s
  | 1 => (s.arrive a).1
  | 2 => (s.countBytes a e.mask).1
  | _ => s.pushEntry g.cluster ((g.segOf e.off).getD 0) (Vector.ofFn fun i => e.data.getD i.val 0)
/-- An entry of the arrival log performed and gone from the log; a push that finds no room stays there until a pop makes room
(R211). DESIGN CHOICE (log 24). -/
def State.replayEntry (s : State) (g : Gang) (e : ArrivalEntry) : State :=
  if e.kind = 3 ∧ s.fifoFull g.cluster ((g.segOf e.off).getD 0) then s else (s.replay g e).dropEntry g.ctx e

/-- A restored warp woken where its wake came while it was held, or its condition holds now (R377). -/
def State.wakeRestored (s : State) (w : Warp) : Warp :=
  let w := { w with held := false, pend := false }
  let running (h : Nat) : Bool := (s.gang h).phase == .running
  match w.park with
  | .barrier obj par _ _ _ => if s.objPh obj ≠ par then { w with park := .ready } else w
  | .fifo seg => if (s.segment w.cluster seg).fifo.isEmpty then w else { w with park := .ready }
  | .far gs _ => if gs.all running then { w with park := .ready } else w
  | .batch _ | .fabric | .yield => { w with park := .ready }
  | _ => w
/-- A held wake applied: a monitor writes the value whose evaluation held (R375, R377). -/
def Warp.applyPend (w : Warp) : Warp :=
  let w' := { w with held := false, pend := false }
  match w.park with
  | .monitor _ _ _ d _ =>
    let r := w'.regs.setSn d w.wval
    let w' := { w' with park := .ready, regs := { r with cnt := { r.cnt with a := r.cnt.a - 1 } } }
    if w.regs.chkrole = 1 then { w' with span := { w'.span with log := w'.span.log ++ [⟨3, [w.wval]⟩], used := w'.span.used + 8 } } else w'
  | _ => { w' with park := .ready }

/-- A warp of a restored gang: it is woken, stays parked, or while a switch is pending again is held (R370). An armed monitor
reads its word once its pool has a token for it, at the restore or when it polls (R254). -/
def State.comesBack (s : State) (w : Warp) : State × Warp :=
  if w.park = .exited then (s, { w with held := false })
  else if w.pend then (s, s.holdWarp w.applyPend)
  else match w.park with
    | .monitor p _ _ _ _ =>
      let (t, v) := s.monitorRead w p
      let w := { w with held := false }
      (t, t.holdWarp ((v.map w.evaluate).getD w))
    | _ => (s, s.holdWarp (s.wakeRestored w))
def State.comeBack (s : State) : List Warp → State × List Warp
  | [] => (s, [])
  | w :: ws =>
    let (t, w) := s.comesBack w
    let (u, l) := t.comeBack ws
    (u, w :: l)

/-- What a claim for a restored gang holds until it starts: a slot and a window of each of its warps (R364). -/
def State.heldPlaces (s : State) (h : Nat) (g : Gang) (cores : List Nat) : List Warp :=
  let l := (s.grid g.grid).launch
  cores.zipIdx.flatMap fun q =>
    ((windowsFor (s.badEntries q.1) l.vcount l.warps (s.onCoreWarps q.1)).getD []).zipIdx.map fun x =>
      { ctx := g.ctx, grid := g.grid, gang := h, slot := x.1.1, window := x.1.2, park := .unstarted
        regs := { vcount := BitVec.ofNat 12 l.vcount, wid := BitVec.ofNat 5 x.2, gangrank := BitVec.ofNat 2 q.2, coreid := BitVec.ofNat 10 q.1 } }
/-- The images of a restored gang's warps at the places held for them. -/
def State.restoredWarps (s : State) (h : Nat) (g : Gang) (image : List Warp) : List Warp :=
  image.map fun w =>
    let cnt := if w.park = .exited then w.regs.cnt else w.backCounts w.regs.cnt
    let place := (s.warps.find? fun x => x.gang == h && x.park == .unstarted && x.regs.gangrank == w.regs.gangrank && x.regs.wid == w.regs.wid).getD {}
    { w with slot := place.slot, window := place.window, age := s.fresh
             regs := { w.regs with coreid := BitVec.ofNat 10 (g.cores.getD w.regs.gangrank.toNat 0), wstat := w.regs.wstat ||| wsRESUMED, cnt := cnt } }

/-- The segments of a restored gang as they were saved (R377 step 1). -/
def State.restoreSegs (s : State) (g : Gang) (bytes : Memory) (saved : List Segment) : State :=
  let s := saved.zipIdx.foldl (fun s q =>
    let seg := g.segs.getD q.2 0
    (if q.1.mode = .scratch then s else s.setSegMode g.cluster seg q.1.mode).onSegment g.cluster seg fun x =>
      { x with fifo := q.1.fifo, head := q.1.head }) s
  { s with sram := bytes.foldl (fun m b => m.write (g.place b.1) b.2) s.sram }

/-- The B-stores of a restored gang's cores: with POL = 1 the saved words; else what they hold, 0 or words of the
context, each word by a free choice where no other block is on the core (R215, R377). DEDUCED (log 41). -/
def State.restoreB (s : State) (pol : Bool) (cores : List Nat) (image : SMap Word) : State :=
  if pol then
    let s := cores.foldl State.zeroB s
    { s with bstore := image.foldl (fun m b =>
        SMap.put m (cores.getD (b.1 / (128 * 16384)) 0 * (128 * 16384) + b.1 % (128 * 16384)) b.2) s.bstore }
  else
    let alone := cores.filter fun c => (s.onCoreWarps c).all fun w => decide (2 ≤ w.regs.chkrole.toNat)
    { s with bstore := s.bstore.filter fun b =>
        !alone.contains (b.1 / (128 * 16384)) || Config.freeChoice (s.fresh + b.1) % 2 == 0 }.tick (768 * 128 * 16384)

/-- The resources of a restored gang claimed (R377 step 1). -/
def State.claimRestore (s : State) (h cl : Nat) (cores segs : List Nat) : State :=
  let g := s.gang h
  let held := s.heldPlaces h g cores
  let s := ((s.tick 40).takeCores g.ctx cores).claimSegs cl h g.ctx segs
  { s with others := s.others ++ held }.onGang h fun x => { x with cluster := cl, cores := cores, segs := segs }

/-- A gang restored where its resources have been claimed (R377): its segments, B-stores and log entries, then its
warps and copies, which start together; while a switch is pending again the parked ones are held (R370). A gang that had an
arrival-log entry refused is then lost (R380). Nothing of one whose grid is lost meanwhile, before it or with a log that cannot be reached (R447). -/
def State.finishRestore (s : State) (h : Nat) : State :=
  if (s.gang h).phase ≠ .restoring then s else
  let g := { s.gang h with phase := .running, told := false, asked := false, moved := (s.gang h).cores.any fun c => (s.core c).fenced }
  let s := (s.restoreB (s.grid g.grid).launch.pol g.cores g.imageB).restoreSegs g g.imageBytes g.imageSegs
  let s := s.onGang h fun x => { x with image := (s.restoredWarps h g g.image).map (Warp.relocate g) }
  let place (w : Warp) : Bool := w.gang == h && w.park == .unstarted
  let s := { s with warp := s.warp.vacate place, others := s.others.filter fun w => !place w }
  let entries := (s.ctx g.ctx).alog.filter fun e => e.gang == h
  let s := entries.foldl (fun s e => s.replayEntry g e) s
  if (s.gang h).phase ≠ .restoring then s else
  let s := s.onGang h fun _ => { g with image := (s.gang h).image }
  let (s, ws) := s.comeBack (s.gang h).image
  let jobs := g.imageJobs.map fun (j : EngineJob) => { j with halt := none, core := match s.warpOf (j.warp.getD 0) with
    | some w => w.regs.coreid.toNat
    | none => j.core }
  let head := (s.ctx g.ctx).alogHead
  let s := ({ s with others := s.others ++ ws }.onGang h fun x =>
    { x with image := [], imageBytes := [], imageSegs := [], imageJobs := [], imageB := [], headers := [] }).onCluster g.cluster fun c =>
      { c with engine := c.engine ++ jobs }
  let s := s.tick.mapWarps fun w => match w.park with
    | .far gs _ => if ¬ gs.isEmpty ∧ gs.all fun x => (s.gang x).phase == .running then w.wake else w
    | _ => w
  let s := s.onCtx g.ctx fun c => { c with saveDone := c.saveDone + 1 }
  (if g.overflowed then s.loseGridWith g.grid (s.gridRec g.grid 20 2 [BitVec.ofNat 32 h, head]) else s).tryResumed g.ctx

/-- RESTORE: the leaf of cluster `k` claims what the gang of its next RESTORE needs and restores it, or refuses it where
it does not fit (R377). A gang of a cooperative grid waits until every gang of its grid has been placed (R365). -/
def execEvRestore (s : State) : Out :=
  let cl := s.ev.k
  .next (match s.receive cl .restore with
    | none => s
    | some (h, t) =>
      let g := t.gang h
      let l := (t.grid g.grid).launch
      if t.claimWaits cl (t.claim l g.ctx cl) then s
      else match t.claim l g.ctx cl with
      | none => t.send cl .refused h
      | some (cores, segs) =>
        let u := t.claimRestore h cl cores segs
        (if l.coop then u else u.finishRestore h).send cl .placed h)

/-! ## What the leaf answers to an offer (R361, R365) -/

/-- PLACED: the scheduler records the gang of cluster `k`'s next message as placed; a cooperative grid starts, or is
restored, with its last gang, and a timed LAUNCH is done with its first (R365, R384). -/
def execEvPlaced (s : State) : Out :=
  let cl := s.ev.k
  .next (match s.receive cl .placed with
    | none => s
    | some (h, s) =>
      let g := s.gang h
      let gr := s.grid g.grid
      let s := { s with lastCluster := SMap.put s.lastCluster gr.prio ((cl + 1) % 192) }.onGang h fun g => { g with placed := true }
      let id := (s.node gr.node).nodeid
      let s := { s with timed := s.timed.map fun (t : TimedRec) =>
        (if t.action = 0 ∧ t.acted ∧ t.done = none ∧ t.target = gr.ctx ∧ (s.node t.node).w 19 = id then { t with done := some 0, count := 1 } else t) }
      let gr := s.grid g.grid
      if gr.launch.coop ∧ gr.gangs.length = gr.total
          ∧ gr.gangs.all (fun x => (s.gang x).placed || (s.gang x).phase == .retired) then
        let back := gr.gangs.filter fun x => (s.gang x).phase == .restoring
        if back.isEmpty then s.startGrid g.grid else back.foldl (fun s x => s.finishRestore x) s
      else s)

/-- REFUSED: the refused gang of cluster `k`'s next message returns to the head of its level; a cooperative
grid's placements that have not started are withdrawn (R361, R365). A context that waited for it alone is SAVED
(R372). -/
def execEvRefused (s : State) : Out :=
  let cl := s.ev.k
  .next (match s.receive cl .refused with
    | none => s
    | some (h, s) =>
      let g := s.gang h
      let s := s.onGang h fun g => { g with phase := match g.phase with
        | .restoring => .saved
        | .offered => .waiting
        | p => p }
      let s := if (s.grid g.grid).launch.coop ∧ (g.phase = .offered ∨ g.phase = .restoring) then
        (s.grid g.grid).gangs.foldl (fun s x =>
          if (s.gang x).phase = .restoring ∨ (g.phase = .offered ∧ ((s.gang x).phase = .running ∨ (s.gang x).phase = .offered)) then s.withdraw x else s) s
      else s
      s.trySaved g.ctx)

end Sys2Proof.Machine
end

