-- ==== Sys2Proof/Machine/Host.lean ====
section
/-! DEFINITION. The management register space BAR0 (R443 to R448), contexts (R447), page requests and
invalidations (R416, R417), the BAR2 window (R449, R451), and the fabric transport (R452, R453). -/

namespace Sys2Proof.Machine

/-! ## Contexts (R357, R369, R447) -/

/-- CONTEXT_CREATE: the host writes CTXCTL of context `k` with VALID = 1 (R419, R447). -/
def execEvContextCreate (s : State) : Out :=
  .next (if s.ev.k ≤ 4094 ∧ s.ev.w.getLsbD 0 ∧ (s.ctx s.ev.k).phase = .none then
    s.onCtx s.ev.k fun c => { c with ctl := 1, phase := .running }
  else s)

/-- A context that has been released: its registers stay, its tables and rings are gone. -/
def Ctx.released (c : Ctx) : Ctx :=
  { ptroot := c.ptroot, codewin := c.codewin, tblimg := c.tblimg, nodeshare := c.nodeshare, trapdesc := c.trapdesc
    swdesc := c.swdesc, fq := c.fq, prq := c.prq, invbase := c.invbase, invlen := c.invlen }
/-- CONTEXT_RELEASE: the host writes CTXCTL of context `k` with VALID = 0, after its teardown (R447). The B-stores
that belonged to it then belong to no context that can be created (R215, log 41). -/
def execEvContextRelease (s : State) : Out :=
  let k := s.ev.k
  .next (if ¬ s.ev.w.getLsbD 0 ∧ (s.ctx k).phase = .tornDown then
    { s with
      cores := s.cores.mapVal fun c => if c.bOwner = some k then { c with bOwner := some 0xFFF } else c
      endedGrids := s.endedGrids.filter fun g => g.1 != k
      nodes := s.nodes.filter fun n => n.2.ctx != k }.onCtx k Ctx.released
  else s)

/-- TEARDOWN: the host writes CTXCTL.TEARDOWN of context `k` (R408, R447). -/
def execEvTeardown (s : State) : Out :=
  .next (if s.ev.w.getLsbD 1 ∧ (s.ctx s.ev.k).phase ≠ .none then s.tearDown s.ev.k 0 else s)

/-! ## Page requests (R416) -/

/-- The request of a context that a tag names, if it is open. -/
def Ctx.request (c : Ctx) (tag : Nat) : Option PageReq := c.open_.find? fun r => r.tag == tag
/-- A warp parked on a request changed. -/
def State.onFaulted (s : State) (c tag : Nat) (f : Warp → Word → Word → Warp) : State :=
  s.mapWarps fun w => match w.park with
    | .fault t i0 i1 _ => if w.ctx = c ∧ t = tag then f w i0 i1 else w
    | _ => w
/-- The request closed, and the entries and engine jobs that wait for it let go. -/
def State.closeRequest (s : State) (c tag : Nat) : State :=
  let s := s.onCtx c fun x => { x with open_ := x.open_.filter fun r => r.tag != tag }
  { s with
    cores := s.cores.mapVal fun k => { k with mq := k.mq.map fun (e : MEntry) =>
      (if e.ctx = c ∧ e.waiting = some tag then { e with waiting := none } else e) }
    clusters := s.clusters.mapVal fun k => { k with engine := k.engine.map fun (j : EngineJob) =>
      (if j.ctx = c ∧ j.waiting = some tag then { j with waiting := none } else j) } }

/-- PRDONE: the driver answers tag `w` of context `k`; every parked access reissues and translates again. -/
def execEvPrdone (s : State) : Out :=
  let tag := s.ev.w.toNat % 2 ^ 32
  .next (match (s.ctx s.ev.k).request tag with
    | some _ => (s.onFaulted s.ev.k tag fun w _ _ => w.wake).closeRequest s.ev.k tag
    | none => s)

/-- The first address of a page that a matrix entry or an engine job was held for. -/
def pageAddr (page : Nat) (as : List Nat) : Nat := (as.find? fun a => a / 4096 == page).getD (page * 4096)
/-- A job whose request failed: COPY_FAULT is latched, and it stops (R304, R308). -/
def State.failJob (s : State) (cl m : Nat) (j : EngineJob) (page : Nat) : State :=
  match j.job with
  | .copy c =>
    ((s.stopCopy cl j c).latchJob j causeCopyFault (pageAddr page [c.src + j.next c, c.dst + j.next c, c.old + j.next c]) 0).endJob cl m j true
  | .chain va _ _ =>
    match j.stepWords with
    | none => (s.latchJob j causeCopyFault va 0).endJob cl m j true
    | some d =>
      let c := stepCopy d
      ((s.stopCopy cl j c).latchJob j causeCopyFault (pageAddr page [c.src + j.next c, c.dst + j.next c]) 0).endJob cl m j true

/-- PRFAIL: the driver answers tag `w` of context `k`; parked accesses raise PAGE_FAULT, copies and chains latch
COPY_FAULT, and a matrix entry its MATRIX_FAULT (R197, R304, R416). -/
def execEvPrfail (s : State) : Out :=
  let k := s.ev.k
  let tag := s.ev.w.toNat % 2 ^ 32
  .next (match (s.ctx k).request tag with
    | none => s
    | some r =>
      let jobs := s.clusters.flatMap fun c => (c.2.engine.zipIdx.filter fun q => q.1.ctx == k && q.1.waiting == some tag).reverse.map fun q => (c.1, q.2, q.1)
      let entries := s.cores.flatMap fun c => c.2.mq.filter fun e => e.ctx == k && e.waiting == some tag
      let s := s.onFaulted k tag fun w i0 i1 => w.wakeWithTrap causePageFault i0 i1 w.pc
      let s := s.closeRequest k tag
      let s := jobs.foldl (fun s q => s.failJob q.1 q.2.1 { q.2.2 with waiting := none } r.page) s
      entries.foldl (fun s e =>
        let parts := ((e.reads ++ e.writes).filter fun r => r.global).flatMap fun r => r.parts.map (·.1)
        faultTile { e with waiting := none } (pageAddr r.page parts) s) s)

/-! ## Invalidation (R417) -/

/-- INVALIDATE: the host writes INVCTL of context `k`, and 1 in bit 0 starts an invalidation of the range. -/
def execEvInvalidate (s : State) : Out :=
  .next (if s.ev.w.getLsbD 0 ∧ (s.ctx s.ev.k).phase ≠ .none then
    s.onCtx s.ev.k fun c => { c with invctl := 1, invalidating := true }
  else s)
/-- Whether pages from a virtual page meet a context's invalidation range. -/
def Ctx.invalidates (c : Ctx) (vpage : Nat) (pages : Nat := 1) : Bool :=
  decide (c.invbase.toNat < (vpage + pages) * 4096) && decide (vpage * 4096 < c.invbase.toNat + c.invlen.toNat)
/-- Whether something that was translated in a context's invalidation range has not been performed: an access, a held write,
a matrix entry that has started, or a record under way. -/
def State.translatedIn (s : State) (k : Nat) (c : Ctx) : Bool :=
  (s.allWarps.any fun w => w.ctx == k && (
    (w.out.any fun a => a.lanes.any fun l => l.pieces.any fun p => match p.loc with
      | .phys _ => c.invalidates (p.va / 4096)
      | _ => false)
    || w.flights.any fun e => !e.done && (e.pages.getD []).any fun p => c.invalidates p.1))
  || (s.versions.any fun v => v.ctx == k && c.invalidates (v.va / 4096))
  || s.records.any fun r => r.ctx == k && (r.words.any (fun q => c.invalidates (q.1 / 4096)) || (r.words.isEmpty && c.invalidates (r.va / 4096)))
/-- INVALIDATION_DONE: nothing translated by an entry of the range is outstanding, and no TLB holds one. -/
def execEvInvalidationDone (s : State) : Out :=
  let k := s.ev.k
  let c := s.ctx k
  let busy := s.translatedIn k c
  .next (if c.invalidating ∧ ¬ busy then
    s.onCtx k fun c => { c with invctl := 0, invalidating := false, tlb := c.tlb.filter fun e => !c.invalidates e.vpage e.pages }
  else s)

/-! ## Fenced cores (R339, R446) -/

/-- UNFENCE: bit 31 with a core number in [9:0] unfences the core and zeroes its demerits. -/
def execEvUnfence (s : State) : Out :=
  let core := s.ev.w.toNat % 1024
  .next (if s.ev.w.getLsbD 31 ∧ core < 768 then s.onCore core fun c => { c with fenced := false, demerits := 0 } else s)

/-! ## Reading BAR0 (R444 to R448) -/

def ofNat64 (n : Nat) : BitVec 64 := BitVec.ofNat 64 n
/-- The registers of a context page that are 64 bits wide. -/
def Ctx.reg64 (c : Ctx) (o : Nat) : Option (BitVec 64) :=
  match o with
  | 0x008 => some c.ptroot
  | 0x010 => some c.codewin
  | 0x018 => some c.tblimg
  | 0x060 => some c.swdesc
  | 0x080 => some c.fq.base
  | 0x0A0 => some c.prq.base
  | 0x0D0 => some c.invbase
  | 0x0D8 => some c.invlen
  | _ => if 0x100 ≤ o ∧ o < 0x500 ∧ o % 16 = 0 then some (c.ring ((o - 0x100) / 16)).addr else none
/-- STATE of CTXCTL as in R357; a context that does not exist reads 0. -/
def Ctx.ctlWord (c : Ctx) : Word := (c.ctl.setWidth 32 &&& 1) ||| BitVec.ofNat 32 (c.phase.code * 16)
/-- RINGCTL of a ring (R381, R447). -/
def State.ringCtl (s : State) (k : Nat) (r : Ring) : Word :=
  (if r.frozen then 3 else 0) ||| (if s.wakePend k r then 4 else 0) ||| (r.ctl &&& 8)
/-- The registers of a context page that are 32 bits wide. -/
def State.ctxReg32 (s : State) (k o : Nat) : Word :=
  let c := s.ctx k
  match o with
  | 0x000 => c.ctlWord
  | 0x020 => c.nodeshare
  | 0x088 => c.fq.cfg.setWidth 32
  | 0x08C => c.fq.rd
  | 0x090 => c.fq.wr
  | 0x094 => c.fq.dropped.setWidth 32
  | 0x0A8 => c.prq.cfg.setWidth 32
  | 0x0AC => c.prq.rd
  | 0x0B0 => c.prq.wr
  | 0x0E0 => c.invctl
  | _ =>
    if 0x040 ≤ o ∧ o < 0x060 then c.trapdesc.toList.getD ((o - 0x040) / 4) 0
    else if 0x100 ≤ o ∧ o < 0x500 ∧ o % 16 = 12 then s.ringCtl k (c.ring ((o - 0x100) / 16))
    else 0

/-- The 64-bit registers of the device-control block (R445). -/
def Dev.reg64 (d : Dev) (dtb : BitVec 64) (o : Nat) : Option (BitVec 64) :=
  match o with
  | 0x0008 => some Config.serial
  | 0x0028 => some d.hnonce
  | 0x0040 => some d.hq.base
  | 0x0060 => some d.hfq.base
  | 0x0080 => some d.b2win
  | 0x0110 => some dtb
  | _ => none
/-- The 32-bit registers of the device-control block (R445, R448). -/
def Dev.reg32 (d : Dev) (o : Nat) : Word :=
  match o with
  | 0x0000 => 0x0B090101
  | 0x0010 => d.fwVersion ++ d.fwReason ++ (0 : BitVec 6) ++ d.fwState
  | 0x0018 => d.pwrlim
  | 0x001C => d.hostcap
  | 0x0020 => d.hperiod
  | 0x0048 => d.hq.cfg.setWidth 32
  | 0x004C => d.hq.rd
  | 0x0050 => d.hq.wr
  | 0x0068 => d.hfq.cfg.setWidth 32
  | 0x006C => d.hfq.rd
  | 0x0070 => d.hfq.wr
  | 0x0074 => d.hfq.dropped.setWidth 32
  | 0x0100 => d.ptpctl
  | 0x0104 => BitVec.ofNat 32 d.clock.code
  | 0x0108 => d.ptpofs
  | 0x0118 => d.hsec
  | 0x0140 => d.vecperf
  | 0x0144 => d.vecfab
  | 0x0200 => d.ldrlen
  | _ => 0
/-- The reliability-and-clocks block (R446). -/
def State.relReg (s : State) (o : Nat) : Word :=
  if o < 28 then s.dev.scrubctl.toList.getD (o / 4) 0
  else if 0x40 ≤ o ∧ o < 0x5C then s.dev.winctl.toList.getD ((o - 0x40) / 4) 0
  else if 0x80 ≤ o ∧ o < 0x90 then s.dev.toktime.toList.getD ((o - 0x80) / 4) 0
  else if 0x100 ≤ o ∧ o < 0x100 + 4 * 768 then (s.core ((o - 0x100) / 4)).replaycnt
  else if 0x1000 ≤ o ∧ o < 0x1030 then SMap.get s.dev.retx ((o - 0x1000) / 4) 0
  else if 0x1100 ≤ o ∧ o < 0x1400 then (s.cluster ((o - 0x1100) / 4)).parcnt
  else if 0x1400 ≤ o ∧ o < 0x1480 then SMap.get s.dev.logovf ((o - 0x1400) / 4) 0
  else 0
/-- An entry of a persistent-request table (R239), an error log (R424) and the peer table (R453). -/
def PReq.bits (e : PReq) : Nat :=
  2 ^ 63 + (if e.act then 2 ^ 62 else 0) + (if e.rd then 2 ^ 61 else 0) + e.ddie * 2 ^ 59 + (if e.rec_ then 2 ^ 58 else 0) + e.line * 128
def ErrEntry.words (e : ErrEntry) : List Word :=
  let bit (b : Bool) (n : Nat) : Nat := if b then 2 ^ n else 0
  [BitVec.ofNat 32 (e.level * 2 ^ 28 + bit e.ue 27 + bit e.lasting 26 + bit e.retired 25 + bit e.scrub 24 + e.wcnt * 2 ^ 16),
   BitVec.ofNat 32 (e.ukind * 2 ^ 28 + e.unit), loHalf e.loc, hiHalf e.loc, loHalf e.first, hiHalf e.first, loHalf e.last, hiHalf e.last]
def Peer.word2 (p : Peer) : Word := (p.state.setWidth 32) <<< 8 ||| p.ports.setWidth 32
/-- The self-check registers of a core (R175). -/
def Core.achk (c : Core) (i : Nat) : Word :=
  match i with
  | 0 => c.achkctl
  | 1 => c.achkcnt.setWidth 32
  | 2 => c.achktot
  | _ => 0

/-- The 64-bit register at an offset of BAR0, if there is one. -/
def State.bar64 (s : State) (off : Nat) : Option (BitVec 64) :=
  if off < 0x10000 then s.dev.reg64 s.dtb off
  else if 0x30000 ≤ off ∧ off < 0x38000 then
    (s.preq ((off - 0x30000) / 0x800) ((off - 0x30000) % 0x800 / 8)).map fun e => ofNat64 e.bits
  else if 0x38000 ≤ off ∧ off < 0x38000 + 16 * 512 ∧ off % 16 = 0 then
    some ((SMap.get s.peers ((off - 0x38000) / 16) {}).mac.setWidth 64)
  else if 0xA0000 ≤ off ∧ off < 0xB8000 ∧ off % 128 < 64 then
    some ((SMap.get (s.core ((off - 0xA0000) / 128)).pmc (off % 128 / 8) 0).setWidth 64)
  else if 0xB8000 ≤ off ∧ off < 0xC0000 ∧ off % 128 < 64 then
    some ((SMap.get s.l2pmc (8 * ((off - 0xB8000) / 128) + off % 128 / 8) 0).setWidth 64)
  else if 0x1000000 ≤ off ∧ off < 0x1000000 + 4095 * 4096 then
    (s.ctx ((off - 0x1000000) / 4096)).reg64 (off % 4096)
  else none
/-- The 32-bit register at an offset of BAR0; an unimplemented offset reads 0 (R443). -/
def State.bar32 (s : State) (off : Nat) : Word :=
  if off < 0x10000 then s.dev.reg32 off
  else if off < 0x20000 then s.relReg (off - 0x10000)
  else if off < 0x30000 then
    let d := (off - 0x20000) / 0x4000
    let c := (off - 0x20000) % 0x4000 / 4
    if c = 4095 then 0 else BitVec.ofNat 32 (s.vsctx d c)
  else if 0x38000 ≤ off ∧ off < 0x38000 + 16 * 512 then
    if off % 16 = 8 then (SMap.get s.peers ((off - 0x38000) / 16) {}).word2 else 0
  else if 0x40000 ≤ off ∧ off < 0x80000 then
    let o := off - 0x40000
    match (s.errTable (o / 0x10000) (o % 0x10000 / 0x2000))[o % 0x2000 / 32]? with
    | some e => e.words.getD (o % 32 / 4) 0
    | none => 0
  else if 0x80000 ≤ off ∧ off < 0x80000 + 8 * 1388 then
    (s.suspectWords ((off - 0x80000) / 8)).getD (off % 8 / 4) 0
  else if 0x90000 ≤ off ∧ off < 0x90000 + 16 * 768 then (s.core ((off - 0x90000) / 16)).achk (off % 16 / 4)
  else if 0xA0000 ≤ off ∧ off < 0xB8000 ∧ 64 ≤ off % 128 ∧ off % 128 < 96 then
    SMap.get (s.core ((off - 0xA0000) / 128)).pmcsel ((off % 128 - 64) / 4) 0
  else if 0xB8000 ≤ off ∧ off < 0xC0000 ∧ 64 ≤ off % 128 ∧ off % 128 < 96 then
    SMap.get s.l2pmcsel (8 * ((off - 0xB8000) / 128) + (off % 128 - 64) / 4) 0
  else if 0xC0000 ≤ off ∧ off < 0xC4000 then
    if off = 0xC0000 then Config.certLength
    else BitVec.ofNat 32 (wordOfBytes ((List.range 4).map fun i => Config.certByte (off - 0xC0004 + i)))
  else if 0x800000 ≤ off ∧ off < 0x1000000 then BitVec.ofNat 32 (s.dev.loader.readNat (off - 0x800000) 4)
  else if 0x1000000 ≤ off ∧ off < 0x1000000 + 4095 * 4096 then s.ctxReg32 ((off - 0x1000000) / 4096) (off % 4096)
  else 0
/-- The word that a host read of 32 bits at an offset of BAR0 returns. -/
def State.barRead (s : State) (off : Nat) : Word :=
  if off % 4 ≠ 0 then 0
  else match s.bar64 (off / 8 * 8) with
    | some v => if off % 8 = 0 then loHalf v else hiHalf v
    | none => s.bar32 off

/-! ## Writing BAR0: the registers with no behaviour of their own -/

/-- A value held between two bounds. -/
def clamp (lo hi x : Nat) : Nat := max lo (min hi x)
/-- The bits of a queue's configuration, and an address that is a multiple of 4,096. -/
def cfgMask (v : Word) : BitVec 64 := (v &&& 0xFFFF001F).setWidth 64
def pageMask (v : BitVec 64) : BitVec 64 := v &&& 0xFFFFFFFFFFFFF000

/-- A 64-bit register of a context page written; PTROOT only while VALID = 0. -/
def Ctx.put64 (c : Ctx) (o : Nat) (v : BitVec 64) : Option Ctx :=
  match o with
  | 0x008 => some (if c.ctl.getLsbD 0 then c else { c with ptroot := v &&& 0x000FFFFFFFFFF001 })
  | 0x010 => some { c with codewin := v &&& 0x00000FF000000000 }
  | 0x018 => some { c with tblimg := pageMask v }
  | 0x060 => some { c with swdesc := v }
  | 0x080 => some { c with fq := { c.fq with base := pageMask v } }
  | 0x0A0 => some { c with prq := { c.prq with base := pageMask v } }
  | 0x0D0 => some { c with invbase := pageMask v }
  | 0x0D8 => some { c with invlen := pageMask v }
  | _ => none
/-- The reserved bits of the trap descriptor's words read 0 (R392). -/
def trapMask : List Word := [0xFFFFF000, 0xFFFFFFFF, 0x3FFFFFFF, 0, 0xFFFFFFFE, 0xFFFFFFFF, 0, 0]
/-- A 32-bit register of a context page written. DEDUCED (log 38). -/
def Ctx.put32 (c : Ctx) (o : Nat) (v : Word) : Ctx :=
  match o with
  | 0x020 => { c with nodeshare := v &&& 0x1FFFF }
  | 0x088 => { c with fq := { c.fq with cfg := cfgMask v } }
  | 0x08C => { c with fq := { c.fq with rd := v } }
  | 0x094 => { c with fq := { c.fq with dropped := v.setWidth 16 } }
  | 0x0A8 => { c with prq := { c.prq with cfg := cfgMask v } }
  | 0x0AC => { c with prq := { c.prq with rd := v } }
  | _ =>
    if h : 0x040 ≤ o ∧ o < 0x060 then
      { c with trapdesc := c.trapdesc.set ((o - 0x040) / 4) (v &&& trapMask.getD ((o - 0x040) / 4) 0) (by omega) }
    else if 0x100 ≤ o ∧ o < 0x500 ∧ o % 16 = 12 then
      { c with rings := SMap.upd c.rings ((o - 0x100) / 16) {} fun r => { r with ctl := if r.registered && r.dev then 0 else v &&& 8 } }
    else c
/-- A 64-bit register of the device-control block written. -/
def Dev.put64 (d : Dev) (o : Nat) (v : BitVec 64) : Option Dev :=
  match o with
  | 0x0028 => some { d with hnonce := v }
  | 0x0040 => some { d with hq := { d.hq with base := pageMask v } }
  | 0x0060 => some { d with hfq := { d.hfq with base := pageMask v } }
  | 0x0080 => some { d with b2win := v &&& 0xFFFFFFF000000000 }
  | _ => none
/-- A 32-bit register of the device-control block written. -/
def Dev.put32 (d : Dev) (o : Nat) (v : Word) : Dev :=
  match o with
  | 0x0018 => { d with pwrlim := BitVec.ofNat 32 (clamp 2000 4800 (v.toNat % 8192)) }
  | 0x0020 => { d with hperiod := v }
  | 0x0048 => { d with hq := { d.hq with cfg := cfgMask v } }
  | 0x004C => { d with hq := { d.hq with rd := v } }
  | 0x0068 => { d with hfq := { d.hfq with cfg := cfgMask v } }
  | 0x006C => { d with hfq := { d.hfq with rd := v } }
  | 0x0074 => { d with hfq := { d.hfq with dropped := v.setWidth 16 } }
  | 0x0100 => { d with ptpctl := v &&& 0x80FF01FF }
  | 0x0140 => { d with vecperf := v &&& 0x7FF }
  | 0x0144 => { d with vecfab := v &&& 0x7FF }
  | 0x0200 => { d with ldrlen := v }
  | _ => d
/-- A field in which a written 0 is taken as 1. -/
def atLeast1 (n : Nat) : Nat := if n = 0 then 1 else n
def scrubValue (v : Word) : Word := (v &&& 0x80000000) ||| BitVec.ofNat 32 (atLeast1 (v.toNat % 2 ^ 24))
def winValue (v : Word) : Word := BitVec.ofNat 32 (atLeast1 (v.toNat / 2 ^ 24) * 2 ^ 24 + atLeast1 (v.toNat % 2 ^ 24))
def tokValue (v : Word) : Word :=
  BitVec.ofNat 32 (fld v.toNat 28 3 * 2 ^ 28 + atLeast1 (fld v.toNat 16 12) * 2 ^ 16 + max 256 (v.toNat % 65536))
def vsValue (v : Word) : Word := (v &&& 0x80000000) ||| BitVec.ofNat 32 (min 393216 (v.toNat % 2 ^ 19))
def achkValue (v : Word) : Word := (v &&& 0x20000) ||| BitVec.ofNat 32 (clamp 64 65536 (v.toNat % 2 ^ 17))
/-- A PMCSEL register written over its value: OVF is cleared by writing 1. -/
def pmcselValue (old v : Word) : Word := (v &&& 0xDFFF00FF &&& 0xDFFFFFFF) ||| (old &&& ~~~v &&& 0x20000000)

/-- A register of the reliability-and-clocks block written. -/
def Dev.putRel (d : Dev) (o : Nat) (v : Word) : Dev :=
  if h : o < 28 then { d with
      scrubctl := d.scrubctl.set (o / 4) (scrubValue v) (by omega)
      scrubSaved := SMap.del d.scrubSaved (o / 4) }
  else if h : 0x40 ≤ o ∧ o < 0x5C then { d with winctl := d.winctl.set ((o - 0x40) / 4) (winValue v) (by omega) }
  else if h : 0x80 ≤ o ∧ o < 0x90 then { d with toktime := d.toktime.set ((o - 0x80) / 4) (tokValue v) (by omega) }
  else d

/-- A 64-bit register written, or none where the offset has no such register that is written. -/
def State.barPut64 (s : State) (off : Nat) (v : BitVec 64) : Option State :=
  if off < 0x10000 then (s.dev.put64 off v).map fun d => { s with dev := d }
  else if 0x38000 ≤ off ∧ off < 0x38000 + 16 * 512 ∧ off % 16 = 0 then
    some { s with peers := SMap.upd s.peers ((off - 0x38000) / 16) {} fun p => { p with mac := v.setWidth 48 } }
  else if 0x1000000 ≤ off ∧ off < 0x1000000 + 4095 * 4096 then
    let k := (off - 0x1000000) / 4096
    ((s.ctx k).put64 (off % 4096) v).map fun c => s.onCtx k fun _ => c
  else none
/-- A 32-bit register written; one that is read-only or not implemented discards the write (R443). -/
def State.barPut32 (s : State) (off : Nat) (v : Word) : State :=
  if off < 0x10000 then s.onDev fun d => d.put32 off v
  else if off < 0x20000 then s.onDev fun d => d.putRel (off - 0x10000) v
  else if off < 0x30000 then
    let d := (off - 0x20000) / 0x4000
    let c := (off - 0x20000) % 0x4000 / 4
    if c = 4095 then s else s.onDev fun x => { x with vsctx := SMap.put x.vsctx (4096 * d + c) (vsValue v) }
  else if 0x38000 ≤ off ∧ off < 0x38000 + 16 * 512 ∧ off % 16 = 8 then
    -- 1 is PEER_SET_UP, 2 is set by the device alone
    if fld v.toNat 8 2 = 0 then
      { s with peers := SMap.upd s.peers ((off - 0x38000) / 16) {} fun p => { p with ports := v.setWidth 8, state := 0 } }
    else s
  else if 0x90000 ≤ off ∧ off < 0x90000 + 16 * 768 ∧ off % 16 = 0 then
    s.onCore ((off - 0x90000) / 16) fun c => { c with achkctl := achkValue v }
  else if 0xA0000 ≤ off ∧ off < 0xB8000 ∧ 64 ≤ off % 128 ∧ off % 128 < 96 then
    s.onCore ((off - 0xA0000) / 128) fun c => { c with pmcsel := SMap.upd c.pmcsel ((off % 128 - 64) / 4) 0 fun w => pmcselValue w v }
  else if 0xB8000 ≤ off ∧ off < 0xC0000 ∧ 64 ≤ off % 128 ∧ off % 128 < 96 then
    { s with l2pmcsel := SMap.upd s.l2pmcsel (8 * ((off - 0xB8000) / 128) + (off % 128 - 64) / 4) 0 fun w => pmcselValue w v }
  else if 0x800000 ≤ off ∧ off < 0x1000000 then
    if s.dev.fwState = 0 ∨ s.dev.fwState = 3 then s
    else s.onDev fun d => { d with loader := d.loader.writeBytes (off - 0x800000) (bytesOfNat 4 v.toNat) }
  else if 0x1000000 ≤ off ∧ off < 0x1000000 + 4095 * 4096 then
    s.onCtx ((off - 0x1000000) / 4096) fun c => c.put32 (off % 4096) v
  else s
/-- Whether an offset begins a 64-bit register that the host writes. -/
def State.writes64 (s : State) (off : Nat) : Bool := (s.barPut64 off 0).isSome
/-- A host write of 32 bits: the low word of a 64-bit register is kept until its high word is written (R444).
DEDUCED (log 38). -/
def State.barWrite (s : State) (off : Nat) (v : Word) : State :=
  let base := off / 8 * 8
  if s.writes64 base then
    if off % 8 = 0 then s.onDev fun d => { d with lowWord := SMap.put d.lowWord base v }
    else
      let low := SMap.get s.dev.lowWord base (s.barRead base)
      ((s.barPut64 base (pair low v)).getD s).onDev fun d => { d with lowWord := SMap.del d.lowWord base }
  else s.barPut32 off v

/-- REGISTER_WRITE: a host write of `n` bytes, 4 or 8, of the value `w` at offset `v` of BAR0 to registers with
no behaviour of their own; any other size or alignment is discarded (R444). -/
def execEvRegisterWrite (s : State) : Out :=
  let off := s.ev.v.toNat % 2 ^ 26
  .next (if s.ev.n = 4 ∧ off % 4 = 0 then s.barWrite off (loHalf s.ev.w)
    else if s.ev.n = 8 ∧ off % 8 = 0 then (s.barWrite off (loHalf s.ev.w)).barWrite (off + 4) (hiHalf s.ev.w)
    else s)

/-! ## Writes from outside (R249, R334, R449, R451) -/

/-- Whether an entry in flight has global bytes at a physical range. -/
def State.physHits (s : State) (e : MEntry) (a n : Nat) : Bool :=
  ((e.reads ++ e.writes).filter fun r => r.global).any fun r => r.parts.any fun p =>
    match s.translate e.ctx p.1 .read with
    | .phys b => decide (a < b + p.2) && decide (b < a + n)
    | _ => false
/-- Bytes of one page written at the homes for an agent outside: refused with a record where the page is pinned.
DEDUCED (log 39). -/
def State.outsideWrite (s : State) (agent pa : Nat) (bs : List Byte) : State :=
  match s.stablePhys (pa / 4096 * 4096) 4096 with
  | some (g, i) =>
    s.report (s.gridRec g 12 0 [BitVec.ofNat 32 pa, BitVec.ofNat 32 (pa / 2 ^ 32), BitVec.ofNat 32 i, BitVec.ofNat 32 agent])
  | none =>
    let s := if (s.allWarps.any fun w => w.flights.any fun e => s.physHits e pa bs.length)
      then s.markHazard fun e => s.physHits e pa bs.length else s
    { s with mem := s.mem.writeBytes pa bs }
/-- What a request from outside ends with: the data of its completion. -/
def State.finishIngress (s : State) (i : Ingress) : State :=
  let t := { s with ingress := s.ingress.drop 1 }
  match i.op with
  | .write false => t
  | _ => t.onDev fun d => { d with replies := i.got }
/-- The bytes that an atomic at the home leaves, if it writes any (R285). -/
def atomicBytes (fn operand swap : Nat) (old : List Byte) : Option (List Byte) :=
  (atomOp fn (wordOfBytes old) (operand % 2 ^ (8 * old.length)) (swap % 2 ^ 32)).map (bytesOfNat old.length)
/-- The oldest request from outside performed as far as one line at its home, which reads with a token of the line and
writes with all of them (R229, R249); no more of a write goes to a page that is pinned. -/
def State.serveIngress (s : State) : State :=
  match s.ingress with
  | [] => s
  | i :: rest =>
    let n := min i.bytes.length (128 - i.pa % 128)
    let u := homeUser (i.pa / 128)
    let go (i : Ingress) (t : State) : State := if i.bytes.isEmpty then t.finishIngress i else { t with ingress := i :: rest }
    if n = 0 then s.finishIngress i
    else match i.op with
      | .read =>
        match s.askReads u [i.pa / 128] with
        | (t, none) => t
        | (t, some kept) => go { i with pa := i.pa + n, bytes := i.bytes.drop n, got := i.got ++ t.readPhys { ctx := 0xFFF } i.pa n kept } t
      | .write _ =>
        if (s.stablePhys (i.pa / 4096 * 4096) 4096).isSome then
          let k := min i.bytes.length (4096 - i.pa % 4096)
          go { i with pa := i.pa + k, bytes := i.bytes.drop k } (s.outsideWrite i.agent i.pa (i.bytes.take k))
        else match s.askWrites u [i.pa / 128] with
          | (t, false) => t
          | (t, true) => go { i with pa := i.pa + n, bytes := i.bytes.drop n } (t.outsideWrite i.agent i.pa (i.bytes.take n))
      | .atomic fn operand swap =>
        match s.askWrites u [i.pa / 128] with
        | (t, false) => t
        | (t, true) =>
          let old := t.mem.readBytes i.pa i.bytes.length
          let t := match atomicBytes fn operand swap old with
            | some bs => t.outsideWrite i.agent i.pa bs
            | none => t
          go { i with bytes := [], got := old } t
/-- Requests from outside performed as far as they can be: as many lines as a count says. -/
def State.pumpIngress (s : State) : Nat → State
  | 0 => s
  | n + 1 => State.pumpIngress s.serveIngress n
/-- A request from outside goes behind those that wait at the homes (R249). -/
def State.takeIngress (s : State) (i : Ingress) : State :=
  { s with ingress := s.ingress ++ [i] }.pumpIngress (i.bytes.length / 128 + 3)
/-- A poisoned TLP, or one that fails ECRC, is not performed (R451). -/
def State.poisoned (s : State) : State := (s.report (unitRec 15 0 0 0 (uncorrectableWords s.freeWord 0 false))).tick
/-- The HBM4 address that an offset of BAR2 reaches. -/
def State.bar2 (s : State) (n : Nat) : Option Nat :=
  let pa := s.dev.b2win.toNat + s.ev.v.toNat
  if s.ev.v.toNat + n ≤ 2 ^ 36 ∧ pa + n ≤ 2 ^ 40 then some pa else none

/-- INBOUND_WRITE: a host write of at most 4,096 bytes at offset `v` of BAR2, performed at the homes; with `b` it
is poisoned. With `k` = 1 the host writes its own memory at `v`, outside the device (log 31); with `k` = 2 the homes go on
with what waits there. -/
def execEvInboundWrite (s : State) : Out :=
  let bs := s.ev.bytes.take 4096
  .next (if s.ev.b then s.poisoned
    else if s.ev.k = 2 then s.serveIngress
    else if s.ev.k = 1 then
      (if isHost s.ev.v.toNat ∧ isHost (s.ev.v.toNat + bs.length - 1) then { s with mem := s.mem.writeBytes s.ev.v.toNat bs } else s)
    else match s.bar2 bs.length with
      | some pa => s.takeIngress { agent := 2, op := .write false, pa := pa, bytes := bs }
      | none => s)
/-- INBOUND_READ: a host read of `n` bytes at offset `v` of BAR2, or with `k` = 1 of BAR0; the data of its
completion. -/
def execEvInboundRead (s : State) : Out :=
  let n := min s.ev.n 4096
  .next (if s.ev.b then s.poisoned
    else if s.ev.k = 1 then
      let off := s.ev.v.toNat % 2 ^ 26
      let whole := (n = 4 ∧ off % 4 = 0) ∨ (n = 8 ∧ off % 8 = 0)
      let bs := if whole then (List.range (n / 4)).flatMap fun i => bytesOfNat 4 (s.barRead (off + 4 * i)).toNat else List.replicate n 0
      s.onDev fun d => { d with replies := bs }
    else match s.bar2 n with
      | some pa => s.takeIngress { agent := 2, op := .read, pa := pa, bytes := List.replicate n 0 }
      | none => s)
/-- LINK_RETRAIN: the firmware records what the root port completes (R450). -/
def execEvLinkRetrain (s : State) : Out :=
  .next (s.onDev fun d => { d with hostcap := BitVec.ofNat 32 (s.ev.n % 8) })

/-! ## The fabric transport (R453) -/

/-- Whether peer `k` may have a request of `n` bytes performed at this device's homes. -/
def State.peerAsks (s : State) (n : Nat) : Bool :=
  let p := SMap.get s.peers s.ev.k {}
  p.state == 1 && (p.ports == 0 || (List.range 8).any fun i => p.ports.getLsbD i && !s.dev.portsDown.contains (4 + i))
    && cacheable (s.ev.v.toNat + n - 1) && cacheable s.ev.v.toNat
/-- TRANSPORT_READ: peer `k` reads `n` bytes at physical address `v`. -/
def execEvTransportRead (s : State) : Out :=
  let n := min s.ev.n 4096
  .next (if s.peerAsks n then s.takeIngress { agent := 3, op := .read, pa := s.ev.v.toNat, bytes := List.replicate n 0 } else s)
/-- TRANSPORT_WRITE: peer `k` writes bytes at physical address `v`. -/
def execEvTransportWrite (s : State) : Out :=
  let bs := s.ev.bytes.take 4096
  .next (if s.peerAsks bs.length then s.takeIngress { agent := 3, op := .write false, pa := s.ev.v.toNat, bytes := bs } else s)
/-- TRANSPORT_ATOMIC: peer `k` performs the atomic function `n` on the word, or for ADD.I64 the doubleword, at
physical address `v`, with operand `w` and swap value `m` (R285). -/
def execEvTransportAtomic (s : State) : Out :=
  let fn := s.ev.n
  let len := if fn = 14 then 8 else 4
  let pa := s.ev.v.toNat
  .next (if s.peerAsks len && decide (fn < 15) && pa % len == 0 then
    s.takeIngress { agent := 3, op := .atomic fn s.ev.w.toNat s.ev.m, pa := pa, bytes := List.replicate len 0 }
  else s)
/-- CPYPEER_DATA: data of a peer's CPYPEER is written at physical address `v` and acknowledged (R303). -/
def execEvCpypeerData (s : State) : Out :=
  let bs := s.ev.bytes.take 4096
  .next (if s.peerAsks bs.length then s.takeIngress { agent := 3, op := .write true, pa := s.ev.v.toNat, bytes := bs } else s)
/-- TRANSPORT_COMPLETION: the acknowledgment of copy `m` of cluster `k`'s engine, a CPYPEER whose data has been
sent; C falls (R303). -/
def execEvTransportCompletion (s : State) : Out :=
  .next (match (s.cluster s.ev.k).engine[s.ev.m]? with
    | some j => if j.sent then s.endJob s.ev.k s.ev.m j j.stopped else s
    | none => s)

/-- PEER_SET_UP: the driver writes word 2 of peer `k`'s entry with state 1, which also tries the links of its ports again
(R452, R453). DESIGN CHOICE (log 39). -/
def execEvPeerSetUp (s : State) : Out :=
  .next (if s.ev.k < 512 ∧ fld s.ev.w.toNat 8 2 = 1 then
    { s with peers := SMap.upd s.peers s.ev.k {} fun p => { p with ports := s.ev.w.setWidth 8, state := 1 } }.onDev fun d =>
      { d with portsDown := d.portsDown.filter fun k => !(s.ev.w.getLsbD (k - 4)) }
  else s)

/-- Whether a lane of an access reaches a peer. -/
def LaneAcc.reaches (l : LaneAcc) (n : Nat) : Bool :=
  l.pieces.any fun p => match p.loc with
    | .phys a => isPeer a && (a - 2 ^ 51) / 2 ^ 42 == n
    | _ => false
/-- An outstanding access when its peer goes down: reads get free values, and each write, an atomic's too, is performed or not.
DEDUCED (log 39). -/
def Access.peerDown (a : Access) (n fresh : Nat) : Access :=
  let value (l : LaneAcc) : Nat × List Word :=
    (l.key, (List.range (max 1 ((l.pieces.map (·.len)).sum / 4))).map fun i => Config.freeWord (fresh + 8 * l.key + i))
  let atomic : Bool := match a.kind with
    | .atom _ _ _ => true
    | _ => false
  let here (l : LaneAcc) : Bool := l.stage == 0 && l.reaches n
  let away (l : LaneAcc) : Bool := here l && ((a.kind.reads && !atomic) || Config.freeChoice (fresh + l.key) % 2 == 0)
  let got := if a.kind.reads then (a.lanes.filter away).map value else []
  let lands : Bool := match a.kind with
    | .atom _ h _ => h == 0
    | _ => true
  { a with
    lanes := a.lanes.filterMap fun l => if away l then l.onward else some { l with orphan := l.orphan || (atomic && here l) }
    got := a.got ++ got
    due := a.due ++ if lands then got.map (·.1) else [] }
/-- PEER_DOWN: peer `k` has given no acknowledgment for 10 ms and becomes DOWN; the driver gets the fabric vector,
and what is outstanding to it ends: a CPYPEER stops with COPY_FAULT (R304, R453). -/
def execEvPeerDown (s : State) : Out :=
  let n := s.ev.k
  .next (if (SMap.get s.peers n {}).state ≠ 1 then s
    else
      let s := { s with peers := SMap.upd s.peers n {} fun p => { p with state := 2 } }.sendMsix (s.dev.vecfab.toNat % 2048)
      let f := s.fresh
      let s := (s.mapWarps fun w => { w with out := w.out.map fun a => a.peerDown n f }).tick 1024
      let jobs := s.clusters.flatMap fun c => (c.2.engine.zipIdx.filter fun q => match q.1.job with
        | .copy k => k.fn == 6 && k.peer == n
        | _ => false).reverse.map fun q => (c.1, q.2, q.1)
      jobs.foldl (fun s q => match q.2.2.job with
        | .copy c => ((s.stopCopy q.1 q.2.2 c).latchJob q.2.2 causeCopyFault (c.dst + q.2.2.next c) 0).endJob q.1 q.2.1 q.2.2 true
        | _ => s) s)

end Sys2Proof.Machine
end

