-- ==== Sys2Proof/Machine/Timed.lean ====
section
/-! DEFINITION. Equinox: timed records, stragglers, GO messages, and the clock (R382 to R388). -/

namespace Sys2Proof.Machine

/-! ## The pending store (R383) -/

/-- NODE_TIMED: ready TIMED node `m` enters Equinox's store of 256 records; one whose T has passed is LATE. -/
def execEvNodeTimed (s : State) : Out :=
  withReady 6 false s fun h n =>
    .next (if 256 ≤ s.timed.length then s
    else
      let time : BitVec 64 := pair (n.w 14) (n.w 15)
      let t : TimedRec :=
        { node := h, target := (n.w 13).toNat, action := (n.w 12).toNat % 4, time := time
          grace := if n.w 16 = 0 then 20000 else (n.w 16).toNat, order := h, late := decide (time.toNat < s.dtb.toNat) }
      { s with timed := s.timed ++ [t] }.onNode h fun x => { x with phase := .running })

/-- Whether a record may act: in LOST it needs its GO (R387). -/
def State.mayAct (s : State) (t : TimedRec) : Bool := !t.acted && t.done.isNone && (s.dev.clock != .lost || t.go)
/-- Whether one record acts before another: by T, at one T a PREEMPT first, then by order of consumption, in which the
front end numbers nodes (R383). -/
def TimedRec.before (a b : TimedRec) : Bool :=
  decide (a.time.toNat < b.time.toNat) || (a.time == b.time &&
    ((a.action == 1 && b.action != 1) || ((a.action == 1) == (b.action == 1) && decide (a.order < b.order))))
/-- The DTB at or after an instant, free but for the records that wait (R383). DESIGN CHOICE (log 6). -/
def State.dtbAt (s : State) (time : Nat) : BitVec 64 :=
  let base := max s.dtb.toNat time
  BitVec.ofNat 64 (max base (s.dtbLimit (base + (Config.freeDWord s.fresh).toNat % 2 ^ 32)))

/-- Record `m` of an action acts, where it is the next: the DTB has reached its T, and `f` takes its steps and
says what becomes of the record. DEDUCED (log 34). -/
def actTimed (action : Nat) (f : State → TimedRec → State × (TimedRec → TimedRec)) (s : State) : Out :=
  .next (match s.timed[s.ev.m]? with
    | none => s
    | some t =>
      if t.action ≠ action ∨ ¬ s.mayAct t ∨ s.timed.any fun x => s.mayAct x && x.before t then s
      else
        let now := s.dtbAt t.time.toNat
        let s := { s with dtb := now }.tick
        let mark (x : TimedRec) : TimedRec := { x with
          acted := true
          achieved := now
          holdover := s.dev.clock == .holdover
          lost := s.dev.clock == .lost }
        let (pre, after) := f s t
        { pre with timed := pre.timed.map fun (x : TimedRec) => (if x.node = t.node then after (mark x) else x) })

/-- TIMED_PREEMPT: the PREEMPT of record `m` acts at T (R384). -/
def execEvTimedPreempt (s : State) : Out :=
  match actTimed 1 (fun s t =>
    let c := s.ctx t.target
    if c.noPreempt then (s, fun x => x.finish 13 0)
    else if c.phase = .saved then (s, fun x => x.finish 0 0)
    else if c.phase = .saving then (s, id)
    else (s, fun x => { x with starts := true })) s with
  | .next t => .next (match (s.timed[s.ev.m]?).map (·.target) with
    | some c => if (t.timed.any fun x => x.target == c && x.action == 1 && x.acted && x.starts && x.done.isNone) then t.actPreempt c else t
    | none => t)
  | o => o
/-- TIMED_RESUME: the RESUME of record `m` acts at T (R384). -/
def execEvTimedResume (s : State) : Out :=
  match actTimed 2 (fun s t =>
    if (s.ctx t.target).phase ≠ .saved then (s, fun x => x.finish 13 0)
    else (s.actResume t.target, fun x => { x with starts := true })) s with
  | .next t => .next (match (s.timed[s.ev.m]?).map (·.target) with
    | some c => if (s.ctx c).phase = .saved ∧ (t.ctx c).phase ≠ .saved then t.tryResumed c else t
    | none => t)
  | o => o
/-- Whether a gang of a node's grid has been placed (R384). -/
def State.firstPlaced (s : State) (h : Nat) : Bool :=
  s.grids.any fun g => g.2.node == h && !g.2.ended && g.2.gangs.any fun x =>
    let q := s.gang x
    q.placed || [GangPhase.saving, .saved, .restoring, .retired].contains q.phase
/-- TIMED_LAUNCH: the LAUNCH of record `m` releases the node that word 19 names (R384). -/
def execEvTimedLaunch (s : State) : Out :=
  match actTimed 0 (fun s t =>
    match s.findNode t.target ((s.node t.node).w 19) with
    | some h =>
      if ¬ (s.node h).isTimed then (s, fun x => x.finish 13 0)
      else (s.onNode h fun n => { n with released := true }, fun x => if s.firstPlaced h then { x with done := some 0, count := 1 } else x)
    | none => (s, fun x => x.finish 13 0)) s with
  | .next t => .next t.settle
  | o => o

/-! ## Stragglers and GO (R386, R387) -/

/-- Cores with a warp of a context that is not held yet, in ascending order. -/
def State.unheldCores (s : State) (c : Nat) : List Nat :=
  let ws := s.warps.filter fun w => w.ctx == c && w.park != .vacant && w.park != .exited && w.regs.chkrole.toNat < 2 && !w.held
  (List.range 768).filter fun k => ws.any fun w => w.regs.coreid.toNat == k
/-- Cores on which a gang of a context is being restored, in ascending order. -/
def State.restoringCores (s : State) (c : Nat) : List Nat :=
  (List.range 768).filter fun k => s.gangs.any fun g => g.2.ctx == c && g.2.phase == .restoring && g.2.cores.contains k

/-- STRAGGLER: the switch of record `m` is not over at T plus its grace (R386). -/
def execEvStraggler (s : State) : Out :=
  .next (match s.timed[s.ev.m]? with
    | none => s
    | some t =>
      if ¬ t.acted ∨ t.done.isSome ∨ t.straggler ∨ t.action = 0 ∨ s.dtbLimit (t.time.toNat + t.grace) < t.time.toNat + t.grace then s
      else
        let now := s.dtbAt (t.time.toNat + t.grace)
        let s := { s with dtb := now, timed := s.timed.map fun (x : TimedRec) => (if x.node = t.node then { x with straggler := true } else x) }.tick
        let cores := if t.action = 1 then s.unheldCores t.target else s.restoringCores t.target
        s.report { kind := 13, scope := 0, ctx := t.target
                   detail := [loHalf t.time, hiHalf t.time, BitVec.ofNat 32 cores.length] ++ (cores.take 5).map (BitVec.ofNat 32) })

/-- A GO for the records of a context at one T (R387). -/
def State.goFor (s : State) (c : Nat) (time : BitVec 64) : State :=
  { s with timed := s.timed.map fun (t : TimedRec) => (if t.target = c ∧ t.time = time then { t with go := true } else t) }
/-- GO: a transport control message names context `k` and T. -/
def execEvGo (s : State) : Out := .next (s.goFor s.ev.k s.ev.v)
/-- GOT: the driver writes T to GOT of context `k`. -/
def execEvGot (s : State) : Out := .next (s.goFor s.ev.k s.ev.v)

/-! ## The clock (R382) -/

/-- PTP_MESSAGE: a valid sync ends an interval with a measured offset of `v` ns from the master. In LOST the DTB
steps once to the master, and 16 intervals within ±40 ns lock it; four outside take LOCKED to HOLDOVER, one
within takes HOLDOVER back. DEDUCED (log 34). -/
def execEvPtpMessage (s : State) : Out :=
  let ofs := (s.ev.v.setWidth 32 : Word)
  let near := decide (-40 ≤ ofs.toInt) && decide (ofs.toInt ≤ 40)
  let d := s.dev
  .next (if ¬ d.ptpctl.getLsbD 31 then s
    else
      let s := s.onDev fun d => { d with ptpofs := ofs }
      match d.clock with
      | .lost =>
        if ¬ d.stepped then { s with dtb := s.dtb - BitVec.ofInt 64 ofs.toInt }.onDev fun d => { d with stepped := true, syncGood := 0 }
        else if near then
          if 16 ≤ d.syncGood + 1 then s.onDev fun d => { d with clock := .locked, stepped := false, syncGood := 0, syncBad := 0 }
          else s.onDev fun d => { d with syncGood := d.syncGood + 1 }
        else s.onDev fun d => { d with syncGood := 0 }
      | .locked =>
        if near then s.onDev fun d => { d with syncBad := 0 }
        else if 4 ≤ d.syncBad + 1 then s.onDev fun d => { d with clock := .holdover, syncBad := 0 }
        else s.onDev fun d => { d with syncBad := d.syncBad + 1 }
      | .holdover => if near then s.onDev fun d => { d with clock := .locked, syncBad := 0 } else s)
/-- SYNC_TIMEOUT: three sync intervals have passed in LOCKED with no valid sync; in LOST one has, so that the intervals
within the limit are no longer consecutive (R382). -/
def execEvSyncTimeout (s : State) : Out :=
  .next (match s.dev.clock with
    | .locked => s.onDev fun d => { d with clock := .holdover, syncBad := 0 }
    | .lost => s.onDev fun d => { d with syncGood := 0 }
    | .holdover => s)
/-- HOLDOVER_TIMEOUT: the clock has been 2 ms in HOLDOVER. -/
def execEvHoldoverTimeout (s : State) : Out :=
  .next (if s.dev.clock = .holdover then s.onDev fun d => { d with clock := .lost, stepped := false, syncGood := 0 } else s)

end Sys2Proof.Machine
end

