-- ==== Sys2Proof/Machine/Dispatch.lean ====
section
/-! DEFINITION. The meaning of each instruction: one direct call for each constructor of `Instr`. -/

namespace Sys2Proof.Machine

def exec (i : Instr) (s : State) : Host.Outcome State Fault Refusal :=
  match i with
  | .trap imm => Sys2Proof.Machine.execTrap imm s
  | .pushr o => Sys2Proof.Machine.execPushr o s
  | .gsync g => Sys2Proof.Machine.execGsync g s
  | .bra o => Sys2Proof.Machine.execBra o s
  | .bz sg o => Sys2Proof.Machine.execBz sg o s
  | .bnz sg o => Sys2Proof.Machine.execBnz sg o s
  | .bany p o => Sys2Proof.Machine.execBany p o s
  | .ball p o => Sys2Proof.Machine.execBall p o s
  | .bnone p o => Sys2Proof.Machine.execBnone p o s
  | .bdiv p o => Sys2Proof.Machine.execBdiv p o s
  | .call o => Sys2Proof.Machine.execCall o s
  | .sadd d a b => Sys2Proof.Machine.execSadd d a b s
  | .ssub d a b => Sys2Proof.Machine.execSsub d a b s
  | .smul d a b => Sys2Proof.Machine.execSmul d a b s
  | .smulhiI32 d a b => Sys2Proof.Machine.execSmulhiI32 d a b s
  | .smulhiN32 d a b => Sys2Proof.Machine.execSmulhiN32 d a b s
  | .sand d a b => Sys2Proof.Machine.execSand d a b s
  | .sor d a b => Sys2Proof.Machine.execSor d a b s
  | .sxor d a b => Sys2Proof.Machine.execSxor d a b s
  | .sshl d a b => Sys2Proof.Machine.execSshl d a b s
  | .sshrN32 d a b => Sys2Proof.Machine.execSshrN32 d a b s
  | .sshrI32 d a b => Sys2Proof.Machine.execSshrI32 d a b s
  | .sminI32 d a b => Sys2Proof.Machine.execSminI32 d a b s
  | .smaxI32 d a b => Sys2Proof.Machine.execSmaxI32 d a b s
  | .sminN32 d a b => Sys2Proof.Machine.execSminN32 d a b s
  | .smaxN32 d a b => Sys2Proof.Machine.execSmaxN32 d a b s
  | .sclz d a => Sys2Proof.Machine.execSclz d a s
  | .spopc d a => Sys2Proof.Machine.execSpopc d a s
  | .smov d a => Sys2Proof.Machine.execSmov d a s
  | .ssltI32 d a b => Sys2Proof.Machine.execSsltI32 d a b s
  | .ssltN32 d a b => Sys2Proof.Machine.execSsltN32 d a b s
  | .sseq d a b => Sys2Proof.Machine.execSseq d a b s
  | .sadd64 d a b => Sys2Proof.Machine.execSadd64 d a b s
  | .ssub64 d a b => Sys2Proof.Machine.execSsub64 d a b s
  | .saddi d a imm => Sys2Proof.Machine.execSaddi d a imm s
  | .sandi d a imm => Sys2Proof.Machine.execSandi d a imm s
  | .sori d a imm => Sys2Proof.Machine.execSori d a imm s
  | .sxori d a imm => Sys2Proof.Machine.execSxori d a imm s
  | .sshiShl d a n => Sys2Proof.Machine.execSshiShl d a n s
  | .sshiShrN32 d a n => Sys2Proof.Machine.execSshiShrN32 d a n s
  | .sshiShrI32 d a n => Sys2Proof.Machine.execSshiShrI32 d a n s
  | .sshiRotl d a n => Sys2Proof.Machine.execSshiRotl d a n s
  | .slui d imm => Sys2Proof.Machine.execSlui d imm s
  | .scmpi d a k imm => Sys2Proof.Machine.execScmpi d a k imm s
  | .sld d a imm => Sys2Proof.Machine.execSld d a imm s
  | .sst d a imm => Sys2Proof.Machine.execSst d a imm s
  | .lstart a => Sys2Proof.Machine.execLstart a s
  | .nextit d => Sys2Proof.Machine.execNextit d s
  | .brit o => Sys2Proof.Machine.execBrit o s
  | .getsr sg imm => Sys2Proof.Machine.execGetsr sg imm s
  | .setsr sg imm => Sys2Proof.Machine.execSetsr sg imm s
  | .waitc l sg y m a => Sys2Proof.Machine.execWaitc l sg y m a s
  | .vadd d a b => Sys2Proof.Machine.execVadd d a b s
  | .vsub d a b => Sys2Proof.Machine.execVsub d a b s
  | .vmul d a b => Sys2Proof.Machine.execVmul d a b s
  | .vmulhiI32 d a b => Sys2Proof.Machine.execVmulhiI32 d a b s
  | .vmulhiN32 d a b => Sys2Proof.Machine.execVmulhiN32 d a b s
  | .vminI32 d a b => Sys2Proof.Machine.execVminI32 d a b s
  | .vmaxI32 d a b => Sys2Proof.Machine.execVmaxI32 d a b s
  | .vminN32 d a b => Sys2Proof.Machine.execVminN32 d a b s
  | .vmaxN32 d a b => Sys2Proof.Machine.execVmaxN32 d a b s
  | .vand d a b => Sys2Proof.Machine.execVand d a b s
  | .vor d a b => Sys2Proof.Machine.execVor d a b s
  | .vxor d a b => Sys2Proof.Machine.execVxor d a b s
  | .vandn d a b => Sys2Proof.Machine.execVandn d a b s
  | .vshl d a b => Sys2Proof.Machine.execVshl d a b s
  | .vshrN32 d a b => Sys2Proof.Machine.execVshrN32 d a b s
  | .vshrI32 d a b => Sys2Proof.Machine.execVshrI32 d a b s
  | .vrotl d a b => Sys2Proof.Machine.execVrotl d a b s
  | .vpopc d a => Sys2Proof.Machine.execVpopc d a s
  | .vclz d a => Sys2Proof.Machine.execVclz d a s
  | .vbrev d a => Sys2Proof.Machine.execVbrev d a s
  | .vabsdI32 d a b => Sys2Proof.Machine.execVabsdI32 d a b s
  | .vaddsI32 d a b => Sys2Proof.Machine.execVaddsI32 d a b s
  | .vsubsI32 d a b => Sys2Proof.Machine.execVsubsI32 d a b s
  | .vadd64 d a b => Sys2Proof.Machine.execVadd64 d a b s
  | .vsub64 d a b => Sys2Proof.Machine.execVsub64 d a b s
  | .vdot4I8 d a b => Sys2Proof.Machine.execVdot4I8 d a b s
  | .vdot2I16 d a b => Sys2Proof.Machine.execVdot2I16 d a b s
  | .vinti f d a imm => Sys2Proof.Machine.execVinti f d a imm s
  | .vfaddF32 d a b => Sys2Proof.Machine.execVfaddF32 d a b s
  | .vfsubF32 d a b => Sys2Proof.Machine.execVfsubF32 d a b s
  | .vfmulF32 d a b => Sys2Proof.Machine.execVfmulF32 d a b s
  | .vfminF32 d a b => Sys2Proof.Machine.execVfminF32 d a b s
  | .vfmaxF32 d a b => Sys2Proof.Machine.execVfmaxF32 d a b s
  | .vfabsF32 d a => Sys2Proof.Machine.execVfabsF32 d a s
  | .vfnegF32 d a => Sys2Proof.Machine.execVfnegF32 d a s
  | .vfcpsgnF32 d a b => Sys2Proof.Machine.execVfcpsgnF32 d a b s
  | .vfaddF16x2 d a b => Sys2Proof.Machine.execVfaddF16x2 d a b s
  | .vfsubF16x2 d a b => Sys2Proof.Machine.execVfsubF16x2 d a b s
  | .vfmulF16x2 d a b => Sys2Proof.Machine.execVfmulF16x2 d a b s
  | .vfminF16x2 d a b => Sys2Proof.Machine.execVfminF16x2 d a b s
  | .vfmaxF16x2 d a b => Sys2Proof.Machine.execVfmaxF16x2 d a b s
  | .vfaddB16x2 d a b => Sys2Proof.Machine.execVfaddB16x2 d a b s
  | .vfsubB16x2 d a b => Sys2Proof.Machine.execVfsubB16x2 d a b s
  | .vfmulB16x2 d a b => Sys2Proof.Machine.execVfmulB16x2 d a b s
  | .vfminB16x2 d a b => Sys2Proof.Machine.execVfminB16x2 d a b s
  | .vfmaxB16x2 d a b => Sys2Proof.Machine.execVfmaxB16x2 d a b s
  | .vfaddF64 d a b => Sys2Proof.Machine.execVfaddF64 d a b s
  | .vfsubF64 d a b => Sys2Proof.Machine.execVfsubF64 d a b s
  | .vfmulF64 d a b => Sys2Proof.Machine.execVfmulF64 d a b s
  | .vfminF64 d a b => Sys2Proof.Machine.execVfminF64 d a b s
  | .vfmaxF64 d a b => Sys2Proof.Machine.execVfmaxF64 d a b s
  | .vcmulB16 d a b => Sys2Proof.Machine.execVcmulB16 d a b s
  | .vfmaF32 d a b e => Sys2Proof.Machine.execVfmaF32 d a b e s
  | .vfmaF16x2 d a b e => Sys2Proof.Machine.execVfmaF16x2 d a b e s
  | .vfmaB16x2 d a b e => Sys2Proof.Machine.execVfmaB16x2 d a b e s
  | .vfmaF64 d a b e => Sys2Proof.Machine.execVfmaF64 d a b e s
  | .vcmpI32 k p a b => Sys2Proof.Machine.execVcmpI32 k p a b s
  | .vcmpN32 k p a b => Sys2Proof.Machine.execVcmpN32 k p a b s
  | .vcmpF32 k p a b => Sys2Proof.Machine.execVcmpF32 k p a b s
  | .vcmpF16x2 k p a b => Sys2Proof.Machine.execVcmpF16x2 k p a b s
  | .vcvtF32I32 d a => Sys2Proof.Machine.execVcvtF32I32 d a s
  | .vcvtF32N32 d a => Sys2Proof.Machine.execVcvtF32N32 d a s
  | .vcvtI32F32 d a => Sys2Proof.Machine.execVcvtI32F32 d a s
  | .vcvtI32F32Rz d a => Sys2Proof.Machine.execVcvtI32F32Rz d a s
  | .vcvtN32F32 d a => Sys2Proof.Machine.execVcvtN32F32 d a s
  | .vcvtF16x2F32 d a => Sys2Proof.Machine.execVcvtF16x2F32 d a s
  | .vcvtB16x2F32 d a => Sys2Proof.Machine.execVcvtB16x2F32 d a s
  | .vcvtF32F16 d a => Sys2Proof.Machine.execVcvtF32F16 d a s
  | .vcvtF32F16h d a => Sys2Proof.Machine.execVcvtF32F16h d a s
  | .vcvtF32B16 d a => Sys2Proof.Machine.execVcvtF32B16 d a s
  | .vcvtF32B16h d a => Sys2Proof.Machine.execVcvtF32B16h d a s
  | .vcvtF64F32 d a => Sys2Proof.Machine.execVcvtF64F32 d a s
  | .vcvtF32F64 d a => Sys2Proof.Machine.execVcvtF32F64 d a s
  | .vcvtE4x4F32 d a => Sys2Proof.Machine.execVcvtE4x4F32 d a s
  | .vcvtE5x4F32 d a => Sys2Proof.Machine.execVcvtE5x4F32 d a s
  | .vcvtE2x8F32 d a => Sys2Proof.Machine.execVcvtE2x8F32 d a s
  | .vcvtL6F32 d a => Sys2Proof.Machine.execVcvtL6F32 d a s
  | .vcvtF32L6 d a => Sys2Proof.Machine.execVcvtF32L6 d a s
  | .vcvtF32E4 d a => Sys2Proof.Machine.execVcvtF32E4 d a s
  | .vcvtF32E5 d a => Sys2Proof.Machine.execVcvtF32E5 d a s
  | .vcvtF32E2 d a => Sys2Proof.Machine.execVcvtF32E2 d a s
  | .vrcp d a => Sys2Proof.Machine.execVrcp d a s
  | .vrsq d a => Sys2Proof.Machine.execVrsq d a s
  | .vsqrt d a => Sys2Proof.Machine.execVsqrt d a s
  | .vexp2 d a => Sys2Proof.Machine.execVexp2 d a s
  | .vlog2 d a => Sys2Proof.Machine.execVlog2 d a s
  | .vsint d a => Sys2Proof.Machine.execVsint d a s
  | .vcost d a => Sys2Proof.Machine.execVcost d a s
  | .vtanh d a => Sys2Proof.Machine.execVtanh d a s
  | .vtab t d a => Sys2Proof.Machine.execVtab t d a s
  | .vmov w d a => Sys2Proof.Machine.execVmov w d a s
  | .vmovs d a => Sys2Proof.Machine.execVmovs d a s
  | .vlaneid d => Sys2Proof.Machine.execVlaneid d s
  | .vreadl d a l => Sys2Proof.Machine.execVreadl d a l s
  | .vwritel d a l => Sys2Proof.Machine.execVwritel d a l s
  | .vfirst d a => Sys2Proof.Machine.execVfirst d a s
  | .vshflIdx d a b => Sys2Proof.Machine.execVshflIdx d a b s
  | .vshflUp d a n => Sys2Proof.Machine.execVshflUp d a n s
  | .vshflDown d a n => Sys2Proof.Machine.execVshflDown d a n s
  | .vshflXor d a n => Sys2Proof.Machine.execVshflXor d a n s
  | .vshflBcast d a n => Sys2Proof.Machine.execVshflBcast d a n s
  | .raddI32 d a => Sys2Proof.Machine.execRaddI32 d a s
  | .raddF32 d a => Sys2Proof.Machine.execRaddF32 d a s
  | .rminI32 d a => Sys2Proof.Machine.execRminI32 d a s
  | .rmaxI32 d a => Sys2Proof.Machine.execRmaxI32 d a s
  | .rminN32 d a => Sys2Proof.Machine.execRminN32 d a s
  | .rmaxN32 d a => Sys2Proof.Machine.execRmaxN32 d a s
  | .rminF32 d a => Sys2Proof.Machine.execRminF32 d a s
  | .rmaxF32 d a => Sys2Proof.Machine.execRmaxF32 d a s
  | .rand d a => Sys2Proof.Machine.execRand d a s
  | .ror d a => Sys2Proof.Machine.execRor d a s
  | .rxor d a => Sys2Proof.Machine.execRxor d a s
  | .scanaddI32 d a => Sys2Proof.Machine.execScanaddI32 d a s
  | .scanaddI32Ex d a => Sys2Proof.Machine.execScanaddI32Ex d a s
  | .scanaddF32 d a => Sys2Proof.Machine.execScanaddF32 d a s
  | .vvoteAny d a => Sys2Proof.Machine.execVvoteAny d a s
  | .vvoteAll d a => Sys2Proof.Machine.execVvoteAll d a s
  | .vvoteBallot d a => Sys2Proof.Machine.execVvoteBallot d a s
  | .vvoteCount d a => Sys2Proof.Machine.execVvoteCount d a s
  | .pand d a b => Sys2Proof.Machine.execPand d a b s
  | .por d a b => Sys2Proof.Machine.execPor d a b s
  | .pxor d a b => Sys2Proof.Machine.execPxor d a b s
  | .pandn d a b => Sys2Proof.Machine.execPandn d a b s
  | .pnot d a => Sys2Proof.Machine.execPnot d a s
  | .pmov d a => Sys2Proof.Machine.execPmov d a s
  | .setexec a => Sys2Proof.Machine.execSetexec a s
  | .getexec d => Sys2Proof.Machine.execGetexec d s
  | .pfroms d a => Sys2Proof.Machine.execPfroms d a s
  | .ptos d a => Sys2Proof.Machine.execPtos d a s
  | .execand a => Sys2Proof.Machine.execExecand a s
  | .ppopc d a => Sys2Proof.Machine.execPpopc d a s
  | .vld z q w d a b h => Sys2Proof.Machine.execVld z q w d a b h s
  | .vst z q w d a b h => Sys2Proof.Machine.execVst z q w d a b h s
  | .vatomAddI32 d a b h => Sys2Proof.Machine.execVatomAddI32 d a b h s
  | .vatomAddF32 d a b h => Sys2Proof.Machine.execVatomAddF32 d a b h s
  | .vatomAddB16x2 d a b h => Sys2Proof.Machine.execVatomAddB16x2 d a b h s
  | .vatomMinI32 d a b h => Sys2Proof.Machine.execVatomMinI32 d a b h s
  | .vatomMaxI32 d a b h => Sys2Proof.Machine.execVatomMaxI32 d a b h s
  | .vatomMinN32 d a b h => Sys2Proof.Machine.execVatomMinN32 d a b h s
  | .vatomMaxN32 d a b h => Sys2Proof.Machine.execVatomMaxN32 d a b h s
  | .vatomAnd d a b h => Sys2Proof.Machine.execVatomAnd d a b h s
  | .vatomOr d a b h => Sys2Proof.Machine.execVatomOr d a b h s
  | .vatomXor d a b h => Sys2Proof.Machine.execVatomXor d a b h s
  | .vatomXchg d a b h => Sys2Proof.Machine.execVatomXchg d a b h s
  | .vatomCas d a b h => Sys2Proof.Machine.execVatomCas d a b h s
  | .vatomIncw d a b h => Sys2Proof.Machine.execVatomIncw d a b h s
  | .vatomDecw d a b h => Sys2Proof.Machine.execVatomDecw d a b h s
  | .vatomAddI64 d a b h => Sys2Proof.Machine.execVatomAddI64 d a b h s
  | .mwait f d a b => Sys2Proof.Machine.execMwait f d a b s
  | .binit a b => Sys2Proof.Machine.execBinit a b s
  | .barrive a => Sys2Proof.Machine.execBarrive a s
  | .barrivePeer a => Sys2Proof.Machine.execBarrivePeer a s
  | .bexpect a b => Sys2Proof.Machine.execBexpect a b s
  | .bwait a b => Sys2Proof.Machine.execBwait a b s
  | .btry a b d => Sys2Proof.Machine.execBtry a b d s
  | .binval a => Sys2Proof.Machine.execBinval a s
  | .cpy a h => Sys2Proof.Machine.execCpy a h s
  | .cpymc a imm h => Sys2Proof.Machine.execCpymc a imm h s
  | .cpyb a h => Sys2Proof.Machine.execCpyb a h s
  | .cpyout a h => Sys2Proof.Machine.execCpyout a h s
  | .cpypar a l h => Sys2Proof.Machine.execCpypar a l h s
  | .cpygf a imm l h => Sys2Proof.Machine.execCpygf a imm l h s
  | .cpypeer a h => Sys2Proof.Machine.execCpypeer a h s
  | .chn a => Sys2Proof.Machine.execChn a s
  | .pref a b h => Sys2Proof.Machine.execPref a b h s
  | .wback a b => Sys2Proof.Machine.execWback a b s
  | .discard a b => Sys2Proof.Machine.execDiscard a b s
  | .bankcfg a m => Sys2Proof.Machine.execBankcfg a m s
  | .bankq a d => Sys2Proof.Machine.execBankq a d s
  | .deposit d a => Sys2Proof.Machine.execDeposit d a s
  | .mma f k t a b z x => Sys2Proof.Machine.execMma f k t a b z x s
  | .mscale t p a b => Sys2Proof.Machine.execMscale t p a b s
  | .tzero t => Sys2Proof.Machine.execTzero t s
  | .tload t a b g v => Sys2Proof.Machine.execTload t a b g v s
  | .tstore t a b g v => Sys2Proof.Machine.execTstore t a b g v s
  | .taddst t a b g v => Sys2Proof.Machine.execTaddst t a b g v s
  | .tmove t p => Sys2Proof.Machine.execTmove t p s
  | .mquant f k t a b h => Sys2Proof.Machine.execMquant f k t a b h s
  | .mbatch d => Sys2Proof.Machine.execMbatch d s
  | .mwaitb a => Sys2Proof.Machine.execMwaitb a s
  | .sigchk imm => Sys2Proof.Machine.execSigchk imm s
  | .sigset imm => Sys2Proof.Machine.execSigset imm s
  | .seal d n t => Sys2Proof.Machine.execSeal d n t s
  | .sealNovec t => Sys2Proof.Machine.execSealNovec t s
  | .tblload a t => Sys2Proof.Machine.execTblload a t s
  | .tblloadLog a => Sys2Proof.Machine.execTblloadLog a s
  | .tblswap l m => Sys2Proof.Machine.execTblswap l m s
  | .grprdCnt d a => Sys2Proof.Machine.execGrprdCnt d a s
  | .grprdMem d a b => Sys2Proof.Machine.execGrprdMem d a b s
  | .grprdSelf d a => Sys2Proof.Machine.execGrprdSelf d a s
  | .nop => Sys2Proof.Machine.execNop s
  | .exit => Sys2Proof.Machine.execExit s
  | .ret => Sys2Proof.Machine.execRet s
  | .bpt => Sys2Proof.Machine.execBpt s
  | .yield => Sys2Proof.Machine.execYield s
  | .rtt => Sys2Proof.Machine.execRtt s
  | .join => Sys2Proof.Machine.execJoin s
  | .bsync => Sys2Proof.Machine.execBsync s
  | .lstop => Sys2Proof.Machine.execLstop s
  | .fence => Sys2Proof.Machine.execFence s
  | .fenceRel => Sys2Proof.Machine.execFenceRel s
  | .fenceAcq => Sys2Proof.Machine.execFenceAcq s
  | .opfence => Sys2Proof.Machine.execOpfence s
  | .evExitComplete => Sys2Proof.Machine.execEvExitComplete s
  | .evWarpBoost => Sys2Proof.Machine.execEvWarpBoost s
  | .evLoadReturn => Sys2Proof.Machine.execEvLoadReturn s
  | .evStorePerformed => Sys2Proof.Machine.execEvStorePerformed s
  | .evAtomicReturn => Sys2Proof.Machine.execEvAtomicReturn s
  | .evAlmondEntry => Sys2Proof.Machine.execEvAlmondEntry s
  | .evCopyComplete => Sys2Proof.Machine.execEvCopyComplete s
  | .evChainStep => Sys2Proof.Machine.execEvChainStep s
  | .evMatrixEntry => Sys2Proof.Machine.execEvMatrixEntry s
  | .evAdmission => Sys2Proof.Machine.execEvAdmission s
  | .evSegmentModeChange => Sys2Proof.Machine.execEvSegmentModeChange s
  | .evArrivalLogAppend => Sys2Proof.Machine.execEvArrivalLogAppend s
  | .evMonitorPoll => Sys2Proof.Machine.execEvMonitorPoll s
  | .evBarrierPoll => Sys2Proof.Machine.execEvBarrierPoll s
  | .evSpanEnd => Sys2Proof.Machine.execEvSpanEnd s
  | .evForcedSpanEnd => Sys2Proof.Machine.execEvForcedSpanEnd s
  | .evSpanRecord => Sys2Proof.Machine.execEvSpanRecord s
  | .evRunEnd => Sys2Proof.Machine.execEvRunEnd s
  | .evCommit => Sys2Proof.Machine.execEvCommit s
  | .evHeldStore => Sys2Proof.Machine.execEvHeldStore s
  | .evClusterRead => Sys2Proof.Machine.execEvClusterRead s
  | .evTreqr => Sys2Proof.Machine.execEvTreqr s
  | .evTreqw => Sys2Proof.Machine.execEvTreqw s
  | .evTreqb => Sys2Proof.Machine.execEvTreqb s
  | .evTokd => Sys2Proof.Machine.execEvTokd s
  | .evTokn => Sys2Proof.Machine.execEvTokn s
  | .evDatab => Sys2Proof.Machine.execEvDatab s
  | .evPreq => Sys2Proof.Machine.execEvPreq s
  | .evPact => Sys2Proof.Machine.execEvPact s
  | .evPdone => Sys2Proof.Machine.execEvPdone s
  | .evPdeact => Sys2Proof.Machine.execEvPdeact s
  | .evPack => Sys2Proof.Machine.execEvPack s
  | .evWbd => Sys2Proof.Machine.execEvWbd s
  | .evWbn => Sys2Proof.Machine.execEvWbn s
  | .evTransientTimeout => Sys2Proof.Machine.execEvTransientTimeout s
  | .evBypassTimeout => Sys2Proof.Machine.execEvBypassTimeout s
  | .evPersistentDemandRepeat => Sys2Proof.Machine.execEvPersistentDemandRepeat s
  | .evPwatch => Sys2Proof.Machine.execEvPwatch s
  | .evHeadUrgent => Sys2Proof.Machine.execEvHeadUrgent s
  | .evRingRegister => Sys2Proof.Machine.execEvRingRegister s
  | .evRingUnregister => Sys2Proof.Machine.execEvRingUnregister s
  | .evDoorbell => Sys2Proof.Machine.execEvDoorbell s
  | .evRingFreeze => Sys2Proof.Machine.execEvRingFreeze s
  | .evRingRemap => Sys2Proof.Machine.execEvRingRemap s
  | .evEntryConsume => Sys2Proof.Machine.execEvEntryConsume s
  | .evNodeComplete => Sys2Proof.Machine.execEvNodeComplete s
  | .evNodeLaunch => Sys2Proof.Machine.execEvNodeLaunch s
  | .evRpfTranslate => Sys2Proof.Machine.execEvRpfTranslate s
  | .evNodeCopy => Sys2Proof.Machine.execEvNodeCopy s
  | .evNodeChain => Sys2Proof.Machine.execEvNodeChain s
  | .evNodeBundle => Sys2Proof.Machine.execEvNodeBundle s
  | .evNodeSignal => Sys2Proof.Machine.execEvNodeSignal s
  | .evNodeEvfence => Sys2Proof.Machine.execEvNodeEvfence s
  | .evNodeTimed => Sys2Proof.Machine.execEvNodeTimed s
  | .evNodeResync => Sys2Proof.Machine.execEvNodeResync s
  | .evTimedPreempt => Sys2Proof.Machine.execEvTimedPreempt s
  | .evTimedResume => Sys2Proof.Machine.execEvTimedResume s
  | .evTimedLaunch => Sys2Proof.Machine.execEvTimedLaunch s
  | .evStraggler => Sys2Proof.Machine.execEvStraggler s
  | .evGo => Sys2Proof.Machine.execEvGo s
  | .evDepositSort => Sys2Proof.Machine.execEvDepositSort s
  | .evGangOffer => Sys2Proof.Machine.execEvGangOffer s
  | .evPlace => Sys2Proof.Machine.execEvPlace s
  | .evPlaced => Sys2Proof.Machine.execEvPlaced s
  | .evRefused => Sys2Proof.Machine.execEvRefused s
  | .evRetired => Sys2Proof.Machine.execEvRetired s
  | .evSave => Sys2Proof.Machine.execEvSave s
  | .evGangSave => Sys2Proof.Machine.execEvGangSave s
  | .evSaved => Sys2Proof.Machine.execEvSaved s
  | .evRestore => Sys2Proof.Machine.execEvRestore s
  | .evFault => Sys2Proof.Machine.execEvFault s
  | .evPret => Sys2Proof.Machine.execEvPret s
  | .evContextCreate => Sys2Proof.Machine.execEvContextCreate s
  | .evContextRelease => Sys2Proof.Machine.execEvContextRelease s
  | .evTeardown => Sys2Proof.Machine.execEvTeardown s
  | .evDriverPreempt => Sys2Proof.Machine.execEvDriverPreempt s
  | .evDriverResume => Sys2Proof.Machine.execEvDriverResume s
  | .evGot => Sys2Proof.Machine.execEvGot s
  | .evPrdone => Sys2Proof.Machine.execEvPrdone s
  | .evPrfail => Sys2Proof.Machine.execEvPrfail s
  | .evInvalidate => Sys2Proof.Machine.execEvInvalidate s
  | .evInvalidationDone => Sys2Proof.Machine.execEvInvalidationDone s
  | .evUnfence => Sys2Proof.Machine.execEvUnfence s
  | .evQclear => Sys2Proof.Machine.execEvQclear s
  | .evPeerSetUp => Sys2Proof.Machine.execEvPeerSetUp s
  | .evRegisterWrite => Sys2Proof.Machine.execEvRegisterWrite s
  | .evWarmReset => Sys2Proof.Machine.execEvWarmReset s
  | .evColdReset => Sys2Proof.Machine.execEvColdReset s
  | .evHreq => Sys2Proof.Machine.execEvHreq s
  | .evHealthPeriodic => Sys2Proof.Machine.execEvHealthPeriodic s
  | .evHealthRecord => Sys2Proof.Machine.execEvHealthRecord s
  | .evLdrgo => Sys2Proof.Machine.execEvLdrgo s
  | .evFirmwareVerified => Sys2Proof.Machine.execEvFirmwareVerified s
  | .evHeartbeatMissed => Sys2Proof.Machine.execEvHeartbeatMissed s
  | .evInboundWrite => Sys2Proof.Machine.execEvInboundWrite s
  | .evInboundRead => Sys2Proof.Machine.execEvInboundRead s
  | .evLinkRetrain => Sys2Proof.Machine.execEvLinkRetrain s
  | .evTransportRead => Sys2Proof.Machine.execEvTransportRead s
  | .evTransportWrite => Sys2Proof.Machine.execEvTransportWrite s
  | .evTransportAtomic => Sys2Proof.Machine.execEvTransportAtomic s
  | .evCpypeerData => Sys2Proof.Machine.execEvCpypeerData s
  | .evTransportCompletion => Sys2Proof.Machine.execEvTransportCompletion s
  | .evPeerDown => Sys2Proof.Machine.execEvPeerDown s
  | .evFlitRetransmit => Sys2Proof.Machine.execEvFlitRetransmit s
  | .evParityDiscard => Sys2Proof.Machine.execEvParityDiscard s
  | .evGroupReplay => Sys2Proof.Machine.execEvGroupReplay s
  | .evUncorrectable => Sys2Proof.Machine.execEvUncorrectable s
  | .evScrubStep => Sys2Proof.Machine.execEvScrubStep s
  | .evQuarantineClean => Sys2Proof.Machine.execEvQuarantineClean s
  | .evDemeritDecay => Sys2Proof.Machine.execEvDemeritDecay s
  | .evPtpMessage => Sys2Proof.Machine.execEvPtpMessage s
  | .evSyncTimeout => Sys2Proof.Machine.execEvSyncTimeout s
  | .evHoldoverTimeout => Sys2Proof.Machine.execEvHoldoverTimeout s
  | .evClockStep => Sys2Proof.Machine.execEvClockStep s
  | .evPowerTrip => Sys2Proof.Machine.execEvPowerTrip s
  | .evJunction95 => Sys2Proof.Machine.execEvJunction95 s
  | .evJunction105 => Sys2Proof.Machine.execEvJunction105 s
  | .evFlowLow => Sys2Proof.Machine.execEvFlowLow s
  | .evAdaptiveUndervolting => Sys2Proof.Machine.execEvAdaptiveUndervolting s
  | .evPmcWrap => Sys2Proof.Machine.execEvPmcWrap s

end Sys2Proof.Machine
end

