-- ==== Sys2Proof/Machine/Background.lean ====
section
/-! DEFINITION. What the device still has to do on its own, and which warp a core issues from (R366, R367):
the steps taken where the agenda names none (log 2). -/

namespace Sys2Proof.Machine

/-! ## What is pending -/

/-- The event by which an outstanding operation is performed. -/
def AccKind.event (k : AccKind) (waits : Bool) : Instr :=
  match k with
  | .load _ _ _ | .sload _ | .btry _ _ | .scalar _ _ | .tblload _ _ => .evLoadReturn
  | .atom _ _ _ => .evAtomicReturn
  | _ => if waits then .evHeldStore else .evStorePerformed
/-- The outstanding operations of the warp in the focus. -/
def State.accessTurns (s : State) : List Turn :=
  s.warp.out.zipIdx.map fun q => .event (q.1.kind.event q.1.waits) { k := q.2 }
/-- What the warp in the focus waits for beside them. -/
def State.warpTurns (s : State) : List Turn :=
  (match s.warp.park with
    | .exiting => [.event .evExitComplete {}]
    | .monitor _ _ _ _ _ => [.event .evMonitorPoll {}]
    | .barrier _ _ _ _ (some _) => [.event .evBarrierPoll {}]
    | _ => []) ++
  (if s.warp.nest.isSome then [.event .evAlmondEntry {}] else []) ++
  (if s.warp.span.ending then [.event (if s.warp.regs.chkrole = 1 then .evSpanEnd else .evRunEnd) {}] else [])
/-- Copies, chains and segment changes of the clusters; the heads of the matrix queues. -/
def State.engineTurns (s : State) : List Turn :=
  s.clusters.flatMap (fun c =>
    (c.2.engine.zipIdx.map fun q => .event (match q.1.job with
      | .copy _ => .evCopyComplete
      | .chain _ _ _ => .evChainStep) { k := c.1, m := q.2 }) ++
    (c.2.changes.zipIdx.map fun q => .event .evSegmentModeChange { k := c.1, m := q.2 })) ++
  s.cores.flatMap fun c => if c.2.mq.isEmpty then [] else [.event .evAdmission { k := c.1 }, .event .evMatrixEntry { k := c.1 }]
/-- Votes. -/
def State.voteTurns (s : State) : List Turn :=
  (List.range s.votes.length).flatMap fun m => [.event .evSpanRecord { m := m }, .event .evCommit { m := m }]
/-- The events of a node. -/
def Node.turns (h : Nat) (n : Node) : List Turn :=
  if n.finish.isSome then [.event .evNodeComplete { m := h }]
  else if n.phase ≠ .ready then []
  else (match n.type with
    | 0 => [Instr.evRpfTranslate, Instr.evNodeLaunch]
    | 1 => [Instr.evNodeCopy]
    | 2 => [Instr.evNodeChain]
    | 3 => [Instr.evNodeBundle]
    | 4 => [Instr.evNodeSignal]
    | 5 => [Instr.evNodeEvfence]
    | 6 => [Instr.evNodeTimed]
    | _ => [Instr.evNodeResync]).map fun i => .event i { m := h }
/-- The front end and Equinox. The DTB does not pass to a later record while a switch is under way (log 2). -/
def State.frontTurns (s : State) : List Turn :=
  (if (s.ctxs.any fun c => c.2.rings.any fun r => r.2.registered) then [.event .evEntryConsume {}] else []) ++
  s.nodes.flatMap (fun q => q.2.turns q.1) ++
  ((List.range 4).filter fun k => s.records.any fun r => r.engine == k).map (fun k => .event .evNodeEvfence { b := true, n := k }) ++
  (s.timed.zipIdx.filter fun q => !q.1.acted && q.1.done.isNone &&
    (decide (q.1.time.toNat ≤ s.dtb.toNat) || !s.timed.any fun t => t.acted && t.done.isNone && t.action != 0)).map (fun q => .event (match q.1.action with
    | 0 => .evTimedLaunch
    | 1 => .evTimedPreempt
    | _ => .evTimedResume) { m := q.2 }) ++
  (s.timed.filter fun t => t.done.isSome).map (fun t => .event .evNodeComplete { m := t.node }) ++
  (s.timed.zipIdx.filter fun q => q.1.acted && q.1.done.isNone && !q.1.straggler && q.1.action != 0 &&
    decide (q.1.time.toNat + q.1.grace ≤ s.dtb.toNat)).map (fun q => .event .evStraggler { m := q.2 }) ++
  (s.grids.filter fun g => g.2.launch.darea != 0 && !g.2.ended && !g.2.lost).map (fun g => .event .evDepositSort { k := g.1 }) ++
  (if (s.grids.any fun g => !g.2.ended && !g.2.lost) then [.event .evGangOffer {}] else [])
/-- The event by which a message on a command link is received. -/
def LinkKind.event (k : LinkKind) : Instr :=
  match k with
  | .place => .evPlace
  | .placed => .evPlaced
  | .refused => .evRefused
  | .retired => .evRetired
  | .save => .evSave
  | .restore => .evRestore
  | .saved => .evSaved
  | .fault => .evFault
/-- The command links, and the gangs that leave. -/
def State.linkTurns (s : State) : List Turn :=
  (s.msgs.map fun m => .event m.kind.event { k := m.cluster }) ++
  s.clusters.flatMap (fun c =>
    (if c.2.owedUp = 0 then [] else [.event .evPret { k := c.1, n := c.2.owedUp.toNat }]) ++
    (if c.2.owedDown = 0 then [] else [.event .evPret { k := c.1, n := c.2.owedDown.toNat, b := true }])) ++
  (s.gangs.filter fun g => g.2.phase == .running && ((s.ctx g.2.ctx).switchPending || g.2.moved)).map fun g =>
    .event (if g.2.asked then .evGangSave else .evSave) { m := g.1, b := true }
/-- The event by which a coherence message is delivered (R232). -/
def cohEvent (type : Nat) : Instr :=
  match type with
  | 0 => .evTreqr
  | 1 => .evTreqw
  | 2 => .evTreqb
  | 3 => .evTokd
  | 4 => .evTokn
  | 5 => .evDatab
  | 6 => .evPreq
  | 7 => .evPact
  | 8 => .evPdone
  | 9 => .evPdeact
  | 10 => .evPack
  | 11 => .evWbd
  | _ => .evWbn
/-- Token coherence: the messages in flight, the reads that clusters have sent to their pools, and what times out once
no message is in flight for its line (log 2). -/
def State.tokenTurns (s : State) : List Turn :=
  let quiet (x : Nat) : Bool := !(s.cohMsgs.any fun m => m.line == x)
  (s.cohMsgs.zipIdx.map fun q => .event (cohEvent q.1.type) { k := q.2 }) ++
  (s.cohReqs.filter fun q => isCluster q.holder && !q.asked).map (fun q => .event .evClusterRead { k := q.holder, v := BitVec.ofNat 64 q.line }) ++
  (s.cohReqs.zipIdx.filter fun q => !isCluster q.1.holder && quiet q.1.line).map (fun q =>
    .event (if q.1.bypass then .evBypassTimeout else .evTransientTimeout) { k := q.2 }) ++
  (s.preqs.filter fun q => q.2.act && quiet q.2.line && (s.cachingOf (q.1 / 256)).any fun cl => (s.tok cl q.2.line).tok != 0).map fun q =>
    .event .evPersistentDemandRepeat { k := q.1 / 256, n := q.1 % 256 }
/-- The rest of the device: requests from outside, invalidations, health records and pages to clean. -/
def State.deviceTurns (s : State) : List Turn :=
  (if s.ingress.isEmpty then [] else [.event .evInboundWrite { k := 2 }]) ++
  (s.ctxs.filter fun c => c.2.invalidating).map (fun c => .event .evInvalidationDone { k := c.1 }) ++
  (if s.dev.healthAsk.isEmpty then [] else [.event .evHealthRecord {}]) ++
  (s.quarantine.filter fun q => !q.2).map fun q => .event .evQuarantineClean { v := BitVec.ofNat 64 q.1 }
/-- Everything pending; the last is that another warp comes into the focus. -/
def State.pending (s : State) : List Turn :=
  s.accessTurns ++ s.warpTurns ++ s.engineTurns ++ s.voteTurns ++ s.frontTurns ++ s.linkTurns ++ s.tokenTurns ++ s.deviceTurns ++ [.focus 0]

/-! ## One pending step -/

/-- The focus moved to another resident warp. -/
def State.focus (s : State) (k : Nat) : State :=
  match s.others[k]? with
  | some w => { s with warp := w, others := s.others.eraseIdx k ++ [s.warp] }
  | none => s
/-- A warp that could not issue may try again. -/
def State.unstall (s : State) : State :=
  { s with warp := { s.warp with stall := false }, others := s.others.map fun (w : Warp) => { w with stall := false } }
/-- A turn taken: an event with its arguments, or the focus moved. DESIGN CHOICE (log 7). -/
def State.take (s : State) : Turn → Out
  | .event i a => Sys2Proof.Machine.exec i { s.unstall with ev := a }
  | .focus k => .next (s.focus k)
/-- One step of a pass over what is pending (log 2), which ends by moving the focus: `round` is the place in the
pass, and stays where the step taken has left the list. Headers of saved warps follow their wakes (R375).
DESIGN CHOICE (log 11). -/
def State.background (s : State) : Out :=
  let t := { s with idle := 0 }.syncPend
  let n := t.pending.length
  match t.take (t.pending[t.round]?.getD (.focus 0)) with
  | .next u => .next { u with round := if n ≤ t.round + 1 then 0 else if u.pending.length < n then t.round else t.round + 1 }
  | o => o

/-! ## The warp that a core issues from (R366, R367) -/

/-- Whether the core prefers the first of two ready warps. -/
def State.prefers (s : State) (a b : Warp) : Bool :=
  let tie := decide (a.slot < b.slot)
  if a.boost != b.boost then a.boost
  else if a.boost then decide (a.boostAt < b.boostAt) || (a.boostAt == b.boostAt && tie)
  else
    let p := (s.grid a.grid).prio
    let q := (s.grid b.grid).prio
    if p ≠ q then decide (q < p) else if a.age ≠ b.age then decide (a.age < b.age) else tie
/-- Whether a warp may be able to issue. -/
def Warp.mayIssue (w : Warp) : Bool := w.park == .ready && !w.stall && !w.span.ending
/-- A warp of the same core that the core prefers to the one in the focus, or a boosted one of another core: its
place among the others. DESIGN CHOICE (log 2). -/
def State.rival (s : State) : Option Nat :=
  s.others.findIdx? fun w => w.mayIssue &&
    (if w.regs.coreid = s.warp.regs.coreid then s.prefers w s.warp else w.boost && !s.warp.boost)
/-- A warp at a cycle in which another issues: 256 ready cycles in a row boost it, any other clears its count.
DESIGN CHOICE (log 40). -/
def Warp.waited (now : Nat) (w : Warp) : Warp :=
  if w.park ≠ .ready ∨ w.stall then { w with boost := false, boostCount := 0 }
  else if w.boost then w
  else if w.boostCount.toNat + 1 < 256 then { w with boostCount := w.boostCount + 1 }
  else { w with boost := true, boostCount := 256, boostAt := now }
/-- After a cycle of the warp in the focus: its boost is spent, and the others have waited (R366, R367). -/
def State.passed (s : State) : State :=
  { s with
    idle := s.idle + 1
    warp := { s.warp with boost := false, boostCount := 0, stall := false }
    others := s.others.map fun w => w.waited s.fresh }
/-- A group of the warp in the focus has issued without replay: none of its core has been replayed in a row (R405, R433). -/
def State.unreplayed (s : State) : State :=
  { s with warp := { s.warp with replays := 0 }, others := s.others.map (Warp.unreplayed s.warp.regs.coreid) }
/-- After a group that has issued. -/
def State.waited (s : State) : State := s.passed.unreplayed

end Sys2Proof.Machine
end

