-- ==== Sys2Proof/Machine/Group.lean ====
section
/-! DEFINITION. Fetching a packet, forming the chained group at the program counter, checking it, and
issuing its words (R60 to R73). -/

namespace Sys2Proof.Machine

/-! ## Fetch (R60, R64) -/

/-- The byte address of a packet: code of the grid, or in handler mode of the handler image that the trap found (R60, R392,
R394). -/
def State.packetVa (s : State) (p : BitVec 30) : Nat :=
  (if s.warp.handler then s.warp.hbase.toNat else s.warp.regs.kbase.toNat * 4096) + 12 * p.toNat

/-- What fetching a packet gives. -/
inductive Fetched where
  | words (ws : List Nat)
  | trap (va : Nat) (perm : Bool)
  | service (va : Nat)
  deriving DecidableEq, Repr

/-- The bytes of `n` bytes of one page, with those of stored-over code as they stood before where the
packet is fetched old (R64). DEDUCED (log 14). -/
def State.codeBytes (s : State) (old : Bool) (va pa : Nat) (n : Nat) : List Byte :=
  (List.range n).map fun k =>
    match if old then SMap.find (s.ctx s.warp.ctx).codeOld (va + k) else none with
    | some b => b
    | none => s.mem.read (pa + k)

/-- The words of consecutive bytes. -/
def wordsOf : List Byte → List Nat
  | a :: b :: c :: d :: rest => wordOfBytes [a, b, c, d] :: wordsOf rest
  | _ => []

/-- A packet fetched through translation; it may lie in two pages. -/
def State.fetchPacket (s : State) (p : BitVec 30) : Fetched :=
  let va := s.packetVa p
  let n := min 12 (4096 - va % 4096)
  let old := (List.range 12).any (fun k => (SMap.find (s.ctx s.warp.ctx).codeOld (va + k)).isSome)
    && decide (Config.freeChoice (s.fresh + 1) % 2 = 0)
  match s.translate s.warp.ctx va .fetch with
  | .fail perm => .trap va perm
  | .recoverable => .service va
  | .phys a =>
    let bs := s.codeBytes old va a n
    if n = 12 then .words (wordsOf bs)
    else match s.translate s.warp.ctx (va + n) .fetch with
      | .fail perm => .trap (va + n) perm
      | .recoverable => .service (va + n)
      | .phys b => .words (wordsOf (bs ++ s.codeBytes old (va + n) b (12 - n)))

/-- The packet at the program counter: the one already fetched, which is not refetched, or a fetch. -/
def State.packet (s : State) : Fetched :=
  match s.warp.ibuf with
  | some (p, ws) => if p = s.warp.pc.packet ∧ s.warp.pc.slot ≠ 0 then .words ws else s.fetchPacket s.warp.pc.packet
  | none => s.fetchPacket s.warp.pc.packet
/-- The translation of a fetched byte, kept as one that a TLB may hold (R417). -/
def State.noteFetch (s : State) (va : Nat) : State :=
  match (s.ctx s.warp.ctx).codeOffset va, s.translate s.warp.ctx va .fetch with
  | none, .phys a => s.noteXlate s.warp.ctx va a .fetch
  | _, _ => s
/-- The translations of the packet at the program counter. -/
def State.notePacket (s : State) : State :=
  let va := s.packetVa s.warp.pc.packet
  (s.noteFetch va).noteFetch (va + 11)

/-! ## The group and its checks (R65, R67, R73) -/

/-- The words of the group that starts with the first of the words: up to the first without its chain bit. -/
def groupOf : List Nat → List Nat
  | [] => []
  | w :: ws => if w.testBit 31 then w :: groupOf ws else [w]

/-- The subcode by which a word fails, given the words of its group before it: its own encoding, then
the chain bit in slot 2, the pipes, the registers written, and the end of the group (log 20). -/
def wordCheck (before : List Nat) (slot w : Nat) : Option Nat :=
  match decodeWord w with
  | .error c => some c
  | .ok _ =>
    if slot = 2 ∧ w.testBit 31 then some 6
    else if (pipeOf w).instances < (before.countP fun v => pipeOf v == pipeOf w) + 1 then some 7
    else if (writesOf w).any fun k => before.any fun v => (writesOf v).contains k then some 8
    else if endsGroup w && w.testBit 31 then some 9
    else none

/-- The lowest-slot failing word of a group: subcode, slot and word. -/
def checkFrom (before : List Nat) (slot : Nat) : List Nat → Option (Nat × Nat × Nat)
  | [] => none
  | w :: ws =>
    match wordCheck before slot w with
    | some c => some (c, slot, w)
    | none => checkFrom (before ++ [w]) (slot + 1) ws
/-- The checks of R73 over a group. -/
def groupCheck (slot : Nat) (ws : List Nat) : Option (Nat × Nat × Nat) := checkFrom [] slot ws

/-- The instructions of a group, with their words. -/
def groupInstrs (ws : List Nat) : List (Nat × Instr) :=
  ws.filterMap fun w => match decodeWord w with
    | .ok i => some (w, i)
    | .error _ => none

/-! ## Issuing -/

/-- The registers copied for the group's reads, and its first word named (R68). -/
def State.beginGroup (s : State) : State := { s with snap := s.warp.regs, grp := { pc := s.warp.pc, entry := s.nextEntry, folds := s.warp.span.folds } }

def foldWord (handler : Bool) (w : Nat) (s : State) : State :=
  if handler || !folds w then s else s.onRegs fun r => { r with cfsig := foldCf r.cfsig w }

/-- One word issued: its meaning, then its fold. TRAP and BPT enter their trap after the fold; trap
entry does not touch CFSIG, so the order of the two does not show. -/
def issueWord (w : Nat) (i : Instr) (s : State) : Out :=
  match exec i { s with grp := { s.grp with word := w, ended := .done } } with
  | .next t => match t.grp.ended with
    | .done => .next (foldWord s.warp.handler w t)
    | _ => .next t
  | o => o

/-- The words of a group in slot order, up to the first that does not complete. DEDUCED (log 15). -/
def issueWords : List (Nat × Instr) → State → Out
  | [], s => .next s
  | (w, i) :: rest, s =>
    match issueWord w i s with
    | .next t => match t.grp.ended with
      | .done => issueWords rest t
      | _ => .next t
    | o => o

/-- The lowest vector register by which a word of the group fails the bound (R72). -/
def boundCheck (is : List (Nat × Instr)) (s : State) : Option Word :=
  is.foldl (fun r wi =>
    match exec wi.2 s with
    | .next t => match t.grp.ended with
      | .trapped c _ n => if c = causeVregBound then (match r with
          | some m => if m.toNat ≤ n.toNat then some m else some n
          | none => some n) else r
      | _ => r
    | _ => r) none

/-- The packet fetched in the state before, kept while the program counter stays in it and in its image. -/
def State.keepPacket (before s : State) (ws : List Nat) : State :=
  s.onWarp fun w => { w with
    ibuf := if w.pc.packet = before.warp.pc.packet ∧ w.pc.slot ≠ 0 ∧ w.handler = before.warp.handler then
      some (w.pc.packet, ws) else none }

/-! ## The spans of checked warps (R320, R321, R332, R420) -/

/-- Whether a word binds the context's tables (R420). -/
def bindsTables (s : State) : Instr → Bool
  | .vtab _ _ _ | .vcvtL6F32 _ _ | .vcvtF32L6 _ _ => true
  | .chn a => s.chainBinds s.warp.ctx 4096 (s.srcPair a).toNat
  | .mma f _ _ _ _ _ _ => f == 0
  | .mquant f _ _ _ _ _ => f == 0
  | _ => false
/-- Whether the hardware ends the span before the group: a primary's after 2^24 groups, or where the group would
bind another generation of the tables; a run's where its primary's span ended. DEDUCED (log 23). -/
def spanOver (is : List (Nat × Instr)) (s : State) : Bool :=
  let p := s.warp.span
  match s.warp.regs.chkrole with
  | 0 => false
  | 1 => p.groups != 0 && (decide (2 ^ 24 ≤ p.groups) ||
      ((is.any fun q => bindsTables s q.2) && p.gen != (s.ctx s.warp.ctx).gen.toNat))
  | _ => match p.limit with
    | some n => decide (n ≤ p.groups)
    | none => false
/-- The span of the warp in the focus ends before the group. -/
def State.endSpan (s : State) : State := s.onWarp fun w => { w with span := { w.span with ending := true } }
/-- A span with no group yet takes the generation that is current (R420). -/
def State.freshSpan (s : State) : State :=
  if s.warp.regs.chkrole = 1 ∧ s.warp.span.groups = 0 then
    let c := s.ctx s.warp.ctx
    s.onWarp fun w => { w with span := { w.span with gen := c.gen.toNat, bank := c.bank } }
  else s
/-- A group counted in its span. -/
def State.countGroup (s : State) : State :=
  if s.warp.regs.chkrole = 0 then s
  else s.onWarp fun w => { w with span := { w.span with groups := w.span.groups + 1 } }
/-- Whether a group's records did not fit its primary's log (R332). -/
def logFull (before after : State) : Bool :=
  before.warp.regs.chkrole == 1 && before.warp.span.groups != 0
    && decide ((before.grid before.warp.grid).launch.logsz < after.warp.span.used)

/-! ## Issuing a group -/

/-- What issuing a group came to. -/
inductive Issued where
  | went (o : Out)
  | stalled (s : State)

/-- A group-wide trap, or the trap of a word: the group takes no other effect (R11, R390).
DEDUCED (log 18). -/
def State.groupTrap (s : State) (cause : Nat) (i0 i1 : Word) : State :=
  let s := (s.forget s.warp.readStamp).unreplayed
  (enterTrap s.grp.pc cause i0 i1 { s with grp := { s.grp with ended := .trapped cause i0 i1 } }).countGroup

/-- A group that has been issued: it is counted, with the boost that it takes (R367, R441), and its warp held where it has
parked in a switch. -/
def State.groupDone (s : State) (core ctx : Nat) (boosted : Bool) : State :=
  let s := (s.countGroup.holdFocus.waited).countCore core 2 ctx
  if boosted then s.countCore core 11 ctx else s

/-- How the WAITC or MWAITB of a group waits, if it has one and waits: the group issues only when its condition holds
(R68), and a latched trap comes before it (R431). With it the state that the wait leaves. -/
def waitGate (is : List (Nat × Instr)) (s : State) : Option (Ended × State) :=
  is.findSome? fun q =>
    let waits : Option (Ended × State) := match exec q.2 s with
      | .next t => match t.grp.ended with
        | .stalled => some (.stalled, t)
        | .parked (.far g r) => some (.parked (.far g r), t)
        | .parked .held => some (.parked .held, t)
        | .trapped c i0 i1 => if s.warp.latch = some ⟨c, i0, i1⟩ then some (.trapped c i0 i1, t) else none
        | _ => none
      | _ => none
    match q.2 with
    | .waitc _ _ _ _ _ | .mwaitb _ => waits
    | _ => none

/-- The group issued from the words of its packet. A word that parks at issue ends the group where it stands: the words before
it keep their effects, and it issues again as the first of what is left of the group, with its sources as they then are; the
group counts once, when its last word has issued. Of a group that traps, a checked run keeps what its log took or gave, so
that every run takes the same records. DEDUCED (log 15). -/
def issueGroup (ws : List Nat) (s : State) : Issued :=
  let core := s.warp.regs.coreid.toNat
  let ctx := s.warp.ctx
  let b := s.freshSpan.beginGroup
  let slot := s.warp.pc.slot.val
  let g := groupOf (ws.drop slot)
  match groupCheck slot g with
  | some (c, sl, w) => .went (.next (b.groupTrap causeIllegal (BitVec.ofNat 32 (c + 256 * sl)) (BitVec.ofNat 32 w)))
  | none =>
    let is := groupInstrs g
    if spanOver is b then .went (.next s.endSpan)
    else match boundCheck is b with
    | some n => .went (.next (b.groupTrap causeVregBound 0 n))
    | none =>
      match waitGate is b with
      | some (.parked p, _) => .went (.next ({ s with warp := { s.warp with park := p } }.holdFocus.passed))
      | some (.trapped c i0 i1, _) => .went (.next ((b.onWarp fun w => { w with latch := none }).groupTrap c i0 i1))
      | some (_, t) => .stalled { t with warp := s.warp, snap := s.snap, grp := s.grp }
      | none =>
      match issueWords is b with
      | .next t =>
        match t.grp.ended with
        | .stalled => .stalled (s.withRequests t)
        | .spanEnd => .went (.next { s with fresh := t.fresh }.endSpan)
        | .spanSplit ids => .went (.next ({ s with fresh := t.fresh }.onWarp fun w => w.coverPrimary fun e => ids.contains e.id).endSpan)
        | .trapped c i0 i1 =>
          .went (.next (({ b with fresh := t.fresh }.onWarp fun w => { w with
            latch := t.warp.latch, span := { w.span with log := t.warp.span.log, used := t.warp.span.used } }).groupTrap c i0 i1))
        | .parked _ => if logFull b t then .went (.next { s with fresh := t.fresh }.endSpan) else .went (.next (s.keepPacket t ws).holdFocus.passed)
        | _ =>
          if logFull b t then .went (.next { s with fresh := t.fresh }.endSpan)
          else .went (.next ((s.keepPacket t ws).groupDone core ctx s.warp.boost))
      | o => .went o

/-- One issue of the warp in the focus: a trap that waits for it to run, or the group at its program
counter. -/
def State.issue (s : State) : Issued :=
  match s.warp.pendTrap with
  | some (c, i0, i1, pc) =>
    .went (.next ((enterTrap pc c i0 i1 (s.unreplayed.beginGroup.onWarp fun w => { w with pendTrap := none })) |> fun t =>
      if c = causeBarrierClobbered then t else t.countGroup))
  | none =>
    match s.packet with
    | .words ws => issueGroup ws { s.notePacket with fresh := s.fresh + 2 }
    | .trap va perm => .went (.next (s.beginGroup.groupTrap causePageFault (adr0 va) (faultInfo va false perm)))
    | .service va => .went (match parkFault va 2 s.beginGroup with
      | .next t => .next t.holdFocus
      | o => o)

/-- A step without a turn (log 2): the device's own pending work after 256 groups, the warp its core prefers, a
group of the focus warp if it can run, and else what is pending. -/
def State.advanceWarp (s : State) : Out :=
  if 256 ≤ s.idle then s.background
  else match s.rival with
    | some k => .next (s.focus k)
    | none =>
      if s.warp.mayIssue then
        match s.issue with
        | .went o => o
        | .stalled t => { t with warp := { t.warp with stall := true } }.background
      else s.background

/-- A step: nothing but power returning acts on a module that has tripped off (R459); else the next turn of the
agenda, or where it names none the step the machine takes itself. -/
def State.advance1 (s : State) : Out :=
  match s.agenda with
  | .event i a :: rest =>
    if s.dev.off ∧ i ≠ .evColdReset then .next { s with agenda := rest }
    else { s with agenda := rest }.take (.event i a)
  | .focus k :: rest => .next ({ s with agenda := rest }.focus k)
  | [] => if s.dev.off then .next s else s.advanceWarp

end Sys2Proof.Machine
end

