-- ==== Sys2Proof/Machine/Step.lean ====
section
/-! DEFINITION. One step of the machine. -/

namespace Sys2Proof.Machine

/-- One step: the next turn of the agenda, a device event with its arguments or another warp in the
focus; with the agenda empty, the warp in the focus issues its next group, and where it cannot, the
device's own pending work goes on (log 2). -/
def step (s : State) : Out := s.advance1

/-! ## A word placed for the next step (log 3) -/

/-- The page table that maps one page at virtual address 0x1000: root at 0x100000, one table for each
level below it, the page at physical 0x200000 with every permission (R415). DESIGN CHOICE (log 3). -/
def placedTables (m : Memory) : Memory :=
  let leaf := bytesOfNat 8 (0x200000 + 0x1F)
  let link (a : Nat) : List Byte := bytesOfNat 8 (a + 1)
  (((m.writeBytes 0x100000 (link 0x110000)).writeBytes 0x110000 (link 0x120000)).writeBytes 0x120000
    (link 0x130000)).writeBytes 0x130008 leaf

/-- The context, grid, gang and warp of a program that has been launched with its code at 0x1000 and with
the launch packet's defaults. -/
def placedCtx (c : Ctx) : Ctx := { c with phase := .running, ptroot := 0x100001 }
def placedGrid : Grid := { gridid := 1, codeBase := 0x1000, codeLen := 341, gangs := [1] }
def placedGang : Gang := { grid := 1, phase := .running, cores := [0] }
def placedWarp : Warp :=
  { uid := 1, grid := 1, gang := 1, park := .ready
    regs := { vbnd := 64, vcount := 64, gridid := 1, kbase := 1 } }

/-- `s` with the instruction of the bits `w` as the next that `step` fetches: its word at the program
counter of a launched program's only warp, in a page mapped to it (log 3). -/
def State.withFetchWord (s : State) (nbits w : Nat) : State :=
  let word := if nbits ≤ 32 then w % 2 ^ 32 else w
  { s with
    warp := placedWarp
    others := []
    agenda := []
    ctxs := SMap.upd s.ctxs 0 {} placedCtx
    grids := SMap.put s.grids 1 placedGrid
    gangs := SMap.put s.gangs 1 placedGang
    mem := (placedTables s.mem).writeBytes 0x200000 (bytesOfNat 4 word) }

end Sys2Proof.Machine
end

