-- ==== Sys2Proof/WellFormed.lean ====
section
/-! DEFINITION. Which terms of `Instr` an instruction word can hold: a field value that the manual
reserves, a register number that is not a multiple of the width, or a range that leaves the register
file makes a term ill-formed (R70, R71, R73, and the rule of each instruction). A device event has no
fields and is always well-formed. -/

namespace Sys2Proof

/-- The H field of an atomic of `width` words, with its first register: 3 is reserved, and the redirect
word is a register up to V63 (R285, R287). -/
def atomWf (width d h : Nat) : Bool := h != 3 && (h != 2 || decide (d + width ≤ 63))

/-- The operands of a load or store of a tile: CV 3 is reserved, and a global address is an even pair
(R192). -/
def tileWf (a g v : Nat) : Bool := v != 3 && (g != 1 || a % 2 == 0)

/-- Whether an instruction's fields are values that its encoding admits. -/
def Instr.wf : Instr → Bool
  | .getsr _ i => sregListed i.toNat
  | .setsr _ i => sregWritable i.toNat
  | .vinti f _ _ i => decide (f.toNat ≤ 16) && (decide (f.toNat < 13) || decide (i.toNat < 32))
  | .vcmpI32 k _ _ _ => decide (k.toNat ≤ 5)
  | .vcmpN32 k _ _ _ => decide (k.toNat ≤ 5)
  | .vmov w d a => widthOk w.toNat d.toNat && widthOk w.toNat a.toNat
  | .vld z _ w d _ _ _ => z.toNat != 7 && w.toNat == sizeW z.toNat && widthOk w.toNat d.toNat
  | .vst z _ w d _ _ _ => decide (z.toNat ≤ 4) && w.toNat == sizeW z.toNat && widthOk w.toNat d.toNat
  | .vatomAddI32 d _ _ h => atomWf 1 d.toNat h.toNat
  | .vatomAddF32 d _ _ h => atomWf 1 d.toNat h.toNat
  | .vatomAddB16x2 d _ _ h => atomWf 1 d.toNat h.toNat
  | .vatomMinI32 d _ _ h => atomWf 1 d.toNat h.toNat
  | .vatomMaxI32 d _ _ h => atomWf 1 d.toNat h.toNat
  | .vatomMinN32 d _ _ h => atomWf 1 d.toNat h.toNat
  | .vatomMaxN32 d _ _ h => atomWf 1 d.toNat h.toNat
  | .vatomAnd d _ _ h => atomWf 1 d.toNat h.toNat
  | .vatomOr d _ _ h => atomWf 1 d.toNat h.toNat
  | .vatomXor d _ _ h => atomWf 1 d.toNat h.toNat
  | .vatomXchg d _ _ h => atomWf 1 d.toNat h.toNat
  | .vatomCas d _ _ h => atomWf 2 (2 * d.toNat) h.toNat
  | .vatomIncw d _ _ h => atomWf 1 d.toNat h.toNat
  | .vatomDecw d _ _ h => atomWf 1 d.toNat h.toNat
  | .vatomAddI64 d _ _ h => atomWf 2 (2 * d.toNat) h.toNat
  | .mwait f _ _ _ => decide (f.toNat ≤ 5)
  | .wback a _ => a.toNat % 2 == 0
  | .discard a _ => a.toNat % 2 == 0
  | .bankcfg _ m => m.toNat != 3
  | .mma f _ _ _ _ _ _ => decide (f.toNat ≤ 9)
  | .tload _ a _ g v => tileWf a.toNat g.toNat v.toNat
  | .tstore _ a _ g v => tileWf a.toNat g.toNat v.toNat
  | .taddst _ a _ g v => tileWf a.toNat g.toNat v.toNat
  | .mquant _ k _ _ _ _ => k.toNat != 3
  | .seal d n _ => decide (d.toNat + (if n.toNat = 0 then 64 else n.toNat) ≤ 64)
  | _ => true

/-- Whether a term is something that the device does on its own: it has no instruction word. -/
def Instr.isEvent : Instr → Bool
  | .evExitComplete | .evWarpBoost | .evLoadReturn | .evStorePerformed | .evAtomicReturn | .evAlmondEntry
  | .evCopyComplete | .evChainStep | .evMatrixEntry | .evAdmission | .evSegmentModeChange | .evArrivalLogAppend
  | .evMonitorPoll | .evBarrierPoll | .evSpanEnd | .evForcedSpanEnd | .evSpanRecord | .evRunEnd | .evCommit
  | .evHeldStore | .evClusterRead | .evTreqr | .evTreqw | .evTreqb | .evTokd | .evTokn | .evDatab | .evPreq
  | .evPact | .evPdone | .evPdeact | .evPack | .evWbd | .evWbn | .evTransientTimeout | .evBypassTimeout
  | .evPersistentDemandRepeat | .evPwatch | .evHeadUrgent | .evRingRegister | .evRingUnregister | .evDoorbell
  | .evRingFreeze | .evRingRemap | .evEntryConsume | .evNodeComplete | .evNodeLaunch | .evRpfTranslate
  | .evNodeCopy | .evNodeChain | .evNodeBundle | .evNodeSignal | .evNodeEvfence | .evNodeTimed | .evNodeResync
  | .evTimedPreempt | .evTimedResume | .evTimedLaunch | .evStraggler | .evGo | .evDepositSort | .evGangOffer
  | .evPlace | .evPlaced | .evRefused | .evRetired | .evSave | .evGangSave | .evSaved | .evRestore | .evFault
  | .evPret | .evContextCreate | .evContextRelease | .evTeardown | .evDriverPreempt | .evDriverResume | .evGot
  | .evPrdone | .evPrfail | .evInvalidate | .evInvalidationDone | .evUnfence | .evQclear | .evPeerSetUp
  | .evRegisterWrite | .evWarmReset | .evColdReset | .evHreq | .evHealthPeriodic | .evHealthRecord | .evLdrgo
  | .evFirmwareVerified | .evHeartbeatMissed | .evInboundWrite | .evInboundRead | .evLinkRetrain | .evTransportRead
  | .evTransportWrite | .evTransportAtomic | .evCpypeerData | .evTransportCompletion | .evPeerDown
  | .evFlitRetransmit | .evParityDiscard | .evGroupReplay | .evUncorrectable | .evScrubStep | .evQuarantineClean
  | .evDemeritDecay | .evPtpMessage | .evSyncTimeout | .evHoldoverTimeout | .evClockStep | .evPowerTrip
  | .evJunction95 | .evJunction105 | .evFlowLow | .evAdaptiveUndervolting | .evPmcWrap => true
  | _ => false

end Sys2Proof
end

