-- ==== Sys2Proof/Safety.lean ====
section
/-! DEFINITION. The words in which the claims about the machine are put: what a meaning gives, what it
leaves as it was, and the states that the claims range over. -/

namespace Sys2Proof.Machine

/-! ## What a word of a warp gives -/

/-- `t` is `s` but for the registers and the program counter of the warp in the focus, and the sticky bits that
its group has raised: no other warp, no byte of memory and nothing else of the device differs. -/
def OnlyRegs (s t : State) : Prop :=
  t = { s with
    warp := { s.warp with regs := t.warp.regs, pc := t.warp.pc }
    grp := { s.grp with fpRaised := t.grp.fpRaised, wsRaised := t.grp.wsRaised } }

/-- `t` is `s` but for the warp in the focus and the record of its group. -/
def OnlyWarp (s t : State) : Prop := t = { s with warp := t.warp, grp := t.grp }

/-- The word answers a next state in which S[d] holds `v` and the program counter stands at the next slot;
every other register and everything else is as it was. -/
def GivesScalar (o : Out) (s : State) (d : Nat) (v : Word) : Prop :=
  ∃ t, o = .next t ∧ (∀ n : Fin 32, t.warp.regs.s[n] = if n.val = d then v else s.warp.regs.s[n])
    ∧ t.warp.pc = s.warp.pc.next
    ∧ t = { s with warp := { s.warp with regs := { s.warp.regs with s := t.warp.regs.s }, pc := t.warp.pc } }

/-- The word answers a next state in which P[d] holds `v`, with the WSTAT bits `ws` raised; everything else is
as it was but for the program counter, which stands at the next slot. -/
def GivesPredicate (o : Out) (s : State) (d : Nat) (v : Word) (ws : BitVec 4 := 0) : Prop :=
  ∃ t, o = .next t ∧ (∀ n : Fin 8, t.warp.regs.p[n] = if n.val = d then v else s.warp.regs.p[n])
    ∧ t.warp.regs.wstat = s.warp.regs.wstat ||| ws
    ∧ t.warp.pc = s.warp.pc.next ∧ OnlyRegs s t
    ∧ t.warp.regs = { s.warp.regs with p := t.warp.regs.p, wstat := t.warp.regs.wstat }

/-- The word answers a next state in which the lanes of `mask` of the `k` registers from V[d] up hold `v`, number
by number, and every other lane and register what it held; the sticky flags `fp` of FPMODE and the bits `ws` of
WSTAT are raised, the program counter stands at the next slot, and everything else is as it was. -/
def GivesVectors (o : Out) (s : State) (mask : Word) (d k : Nat) (v : Nat → Fin 32 → Word)
    (fp : BitVec 5 := 0) (ws : BitVec 4 := 0) : Prop :=
  ∃ t, o = .next t
    ∧ (∀ (n : Nat) (l : Fin 32), (t.warp.regs.entry n)[l]
        = if d ≤ n ∧ n < d + k ∧ mask.getLsbD l.val then v (n - d) l else (s.warp.regs.entry n)[l])
    ∧ t.warp.regs.fpmode = s.warp.regs.fpmode ||| (fp.setWidth 32) <<< 4
    ∧ t.warp.regs.wstat = s.warp.regs.wstat ||| ws
    ∧ t.warp.pc = s.warp.pc.next ∧ OnlyRegs s t
    ∧ t.warp.regs = { s.warp.regs with
        win := t.warp.regs.win, fpmode := t.warp.regs.fpmode, wstat := t.warp.regs.wstat }

/-- The word goes to slot 0 of packet `p`; the warp's registers are those of `r`, and nothing else but its
reconvergence stack, which is `k`, differs. -/
def GoesTo (o : Out) (s : State) (p : BitVec 30) (r : Regs) (k : List ReconEntry) : Prop :=
  o = .next { s with warp := { s.warp with pc := { packet := p, slot := 0 }, regs := r, stack := k } }

/-- The word completes with no effect but that the program counter stands at the next slot. -/
def FallsThrough (o : Out) (s : State) : Prop :=
  o = .next { s with warp := { s.warp with pc := s.warp.pc.next } }

/-- The word traps with a cause and detail: trap entry from the group's first word, and its group marked so that
it takes no other effect (R11, R389, R393). -/
def Traps (o : Out) (s : State) (cause : Nat) (i0 i1 : Word) : Prop :=
  ∃ t, o = .next t ∧ t.grp.ended = .trapped cause i0 i1
    ∧ t = { enterTrap s.grp.pc cause i0 i1 s with grp := t.grp }

/-- A rounded F32 result against the exact value `z`, in units of 2^−600, in the mode to nearest: it is no NaN; where it is
finite no F32 code is nearer to `z`, and it is inexact exactly where it is not `z`; it is an infinity only where `z` is at
least half of the last place past the largest code (R48, R49). -/
def NearestF32 (r : Rnd) (z : Int) : Prop :=
  (∀ b, unpack fmtF32 r.bits ≠ .nan b)
  ∧ (∀ b, unpack fmtF32 r.bits = .inf b → (2 ^ 25 - 1) * 2 ^ 703 ≤ z.natAbs ∧ (b = true ↔ z < 0))
  ∧ ∀ b m e, unpack fmtF32 r.bits = .num b m e → let y := (FVal.num b m e).toUnits (-600)
    (r.flags &&& flNX = 0 ↔ y = z)
    ∧ ∀ c < 2 ^ 32, ∀ t n k, unpack fmtF32 c = .num t n k →
        (y - z).natAbs ≤ ((FVal.num t n k).toUnits (-600) - z).natAbs

/-- Every register of the runs (first, count) lies below the warp's vector boundary (R72). -/
def NamesBelow (s : State) (names : List (Nat × Nat)) : Prop :=
  ∀ r ∈ names, r.1 + r.2 ≤ s.snap.vbnd.toNat

/-- Where some register of the runs (first, count) is at or above the warp's vector boundary, the word raises VREG_BOUND
with the lowest such register, and has no other effect (R72). -/
def BoundTraps (i : Instr) (s : State) (names : List (Nat × Nat)) : Prop :=
  ∀ n : Nat, (∃ r ∈ names, r.1 ≤ n ∧ n < r.1 + r.2) → s.snap.vbnd.toNat ≤ n →
    (∀ r ∈ names, ∀ k, r.1 ≤ k → k < r.1 + r.2 → s.snap.vbnd.toNat ≤ k → n ≤ k) →
    Traps (exec i s) s 2 0 (BitVec.ofNat 32 n)

/-- A floating-point word whose sources are `markers` and whose active lanes raise `fp` does not trap: FPMODE.UNINIT
is clear or no active lane holds an uninitialised marker, and no raised exception is enabled (R52, R54). -/
def FpQuiet (s : State) (markers : List Lanes) (fp : BitVec 5) : Prop :=
  (s.snap.uninit = true → firstMarker s.snap.exec markers = none) ∧ fp &&& s.snap.fpEnables = 0

/-- The flags that the active lanes raise together. -/
def raisedBy (s : State) (f : Fin 32 → Rnd) : BitVec 5 :=
  (List.finRange 32).foldl (fun a l => if s.snap.exec.getLsbD l.val then a ||| (f l).flags else a) 0

/-- The active lanes of the partition of lane `l`, in ascending order (R102, R140). -/
def partners (s : State) (l : Fin 32) : List (Fin 32) :=
  (List.finRange 32).filter fun k => k.val / s.snap.width == l.val / s.snap.width && s.snap.exec.getLsbD k.val

/-- EMPTY where some partition has no active lane, else no WSTAT bit (R104). -/
def emptyBits (s : State) : BitVec 4 := if (List.finRange 32).any fun l => (partners s l).isEmpty then 1 else 0

/-- The tree of R55 over the 2^`h` lanes from `b` up, with the flags of its steps: the lower half on the left. -/
def treeOver (op : Nat → Nat → Rnd) (leaf : Nat → Option Nat) : Nat → Nat → Option Nat × BitVec 5
  | 0, b => (leaf b, 0)
  | h + 1, b =>
    let x := treeOver op leaf h b
    let y := treeOver op leaf h (b + 2 ^ h)
    let j := joinNode op x.1 y.1
    (j.1, j.2 ||| x.2 ||| y.2)

/-- The value of lane `l` of a partition after the steps d = 1, 2, … 2^(`j`−1) of R56. -/
def scanOver (op : Nat → Nat → Rnd) (leaf : Nat → Option Nat) : Nat → Nat → Option Nat
  | 0, l => leaf l
  | j + 1, l =>
    if 2 ^ j ≤ l then (joinNode op (scanOver op leaf j (l - 2 ^ j)) (scanOver op leaf j l)).1
    else scanOver op leaf j l

/-- The `n` bytes from `a` up are the ones that may differ in physical memory. -/
def MemSameOutside (s t : State) (a n : Nat) : Prop :=
  ∀ b, ¬ (a ≤ b ∧ b < a + n) → t.mem.read b = s.mem.read b

/-! ## Accesses -/

/-- The warp in the focus is one of an unchecked grid, now and as its group began. -/
def Unchecked (s : State) : Prop := s.snap.chkrole = 0 ∧ s.warp.regs.chkrole = 0

/-- The word completes at issue with one more operation outstanding, last in program order, that satisfies `P` but for
the marks of a matrix hazard on its lanes, and the counters `c`; with no matrix entry of any warp in flight, no lane has
that mark, and every other register, every byte of memory and scratch and the other warps are as they were. -/
def Joins (o : Out) (s : State) (c : Counters) (P : Access → Prop) : Prop :=
  ∃ t a, o = .next t ∧ t.warp.out = s.warp.out ++ [a] ∧ t.warp.pc = s.warp.pc.next
    ∧ P { a with lanes := a.lanes.map fun l => { l with hazard := false } }
    ∧ ((∀ w ∈ s.allWarps, w.flights = []) →
      (∀ l ∈ a.lanes, l.hazard = false) ∧ t.warp.regs = { s.warp.regs with cnt := c } ∧ t.others = s.others
      ∧ (∀ b, t.mem.read b = s.mem.read b) ∧ (∀ b, t.sram.read b = s.sram.read b))

/-- The word puts a job behind those of its cluster's engine and raises C; nothing else differs but the program
counter and the count by which operations are ordered. -/
def StartsJob (o : Out) (s : State) (job : Job) : Prop :=
  o = .next { s with
    nextEntry := s.nextEntry + 1
    clusters := SMap.upd s.clusters s.warp.cluster {} fun (c : Cluster) => { c with engine := c.engine ++ [s.newJob job] }
    warp := { s.warp with
      pc := s.warp.pc.next
      regs := { s.warp.regs with cnt := { s.warp.regs.cnt with c := s.warp.regs.cnt.c + 1 } } } }

/-- The word puts a matrix entry that satisfies `P` behind those of its core's queue and among those in flight, and
raises M; no register but the counter, no byte of memory or scratch and no other warp differs. -/
def Enqueues (o : Out) (s : State) (P : MEntry → Prop) : Prop :=
  ∃ t e, o = .next t ∧ P e ∧ e.id = s.nextEntry ∧ e.uid = s.warp.uid ∧ e.core = s.snap.coreid.toNat ∧ e.batch = s.warp.batch + 1
    ∧ e.done = false ∧ t.warp.flights = s.warp.flights ++ [e] ∧ (t.core e.core).mq = (s.core e.core).mq ++ [e]
    ∧ t.warp.regs = { s.warp.regs with cnt := { s.warp.regs.cnt with m := s.warp.regs.cnt.m + 1 } }
    ∧ t.warp.pc = s.warp.pc.next ∧ t.mem = s.mem ∧ t.sram = s.sram ∧ t.others = s.others

/-- The lanes of an access lie aligned in the global window and translate, lane by lane, to `pa` (R202, R280). -/
def PlainGlobal (s : State) (want : Want) (ls : List (Nat × Nat)) (bytes : Nat) (pa : Nat → Nat) : Prop :=
  ∀ l ∈ ls, l.2 + bytes ≤ 0x000F000000000000 ∧ l.2 % bytes = 0 ∧ s.translate s.warp.ctx l.2 want = .phys (pa l.1)

/-- The bytes of a lane at address `l.2` lie, aligned, in one of the windows, and `ps` are their places: a translated global
address; an offset in a SCRATCH segment of the gang; peer scratch that is there to reach; or the lane's own words of the
warp's private area, one in each line (R202 to R206, R280). -/
def LanePlaced (s : State) (want : Want) (n : Nat) (l : Nat × Nat) (ps : List Piece) : Prop :=
  (∃ a, l.2 + n ≤ 0x000F000000000000 ∧ l.2 % n = 0 ∧ s.translate s.warp.ctx l.2 want = .phys a ∧ ps = [⟨.phys a, l.2, n⟩])
  ∨ (∃ o seg, let g := s.gang s.warp.gang
      l.2 = 0x000F000000000000 + o ∧ o + n ≤ 2 ^ 23 ∧ o % n = 0 ∧ g.segOf o = some seg ∧ (s.segment g.cluster seg).mode = .scratch
      ∧ ps = [⟨.sram (sramAddr g.cluster seg (o % 2 ^ 18)), l.2, n⟩])
  ∨ (∃ g o a, l.2 = 0x000F100000000000 + g * 2 ^ 23 + o ∧ g < 192 ∧ o + n ≤ 2 ^ 23 ∧ o % n = 0
      ∧ s.peerTarget s.warp.ctx g o = .sram a ∧ ps = [⟨.sram a, l.2, n⟩])
  ∨ (∃ (p : Nat) (a : Nat → Nat), let va (k : Nat) : Nat := s.warp.privBase + (p / 4 + k) * 128 + l.1 * 4 + p % 4
      l.2 = 0x000F800000000000 + p ∧ p + n ≤ 2 ^ 32 ∧ p + n ≤ s.warp.privSize ∧ p % min n 4 = 0
      ∧ (∀ k < (n + 3) / 4, s.translate s.warp.ctx (va k) want = .phys (a k))
      ∧ ps = (List.range ((n + 3) / 4)).map fun k => ⟨.phys (a k), va k, min n 4⟩)
/-- The lanes of an access lie, each in a whole word, in the physical segment `seg` of the gang, which is a FIFO (R203, R211). -/
def OnFifo (s : State) (ls : List (Nat × Nat)) (seg : Nat) : Prop :=
  let g := s.gang s.warp.gang
  (s.segment g.cluster seg).mode = .fifo
    ∧ ∀ l ∈ ls, ∃ o, l.2 = 0x000F000000000000 + o ∧ o < 2 ^ 23 ∧ o % 4 = 0 ∧ g.segOf o = some seg
/-- The mode of the segment that an own-scratch offset of the warp's gang reaches, where the gang has claimed it (R203). -/
def State.ownMode (s : State) (o : Nat) : Option SegMode :=
  ((s.gang s.warp.gang).segOf o).map fun seg => (s.segment (s.gang s.warp.gang).cluster seg).mode

/-- Whether a place is one of bytes, in memory or in SRAM; byte `j` from it, numbered with its space; and a byte, a number
and the frame of a place in a state. -/
def Loc.solid : Loc → Prop
  | .phys _ | .sram _ => True
  | _ => False
def Loc.byte (p : Loc) (j : Nat) : Nat × Nat :=
  match p with
  | .phys a => (0, a + j)
  | .sram a => (1, a + j)
  | _ => (2, 0)
def State.byteOf (s : State) (b : Nat × Nat) : Byte :=
  if b.1 = 0 then s.mem.read b.2 else if b.1 = 1 then s.sram.read b.2 else 0
def State.numAt (s : State) (p : Loc) (off n : Nat) : Nat :=
  match p with
  | .phys a => s.mem.readNat (a + off) n
  | .sram a => s.sram.readNat (a + off) n
  | _ => 0
def SameOutside (s t : State) (p : Loc) (n : Nat) : Prop :=
  ∀ b : Nat × Nat, (∀ j < n, p.byte j ≠ b) → t.byteOf b = s.byteOf b

/-- The warp in the focus is free to issue memory words to its context's memory: an unchecked grid, nothing outstanding
that holds later memory words back, no stopped injection and no stable range of any grid (R284, R334, R385). -/
def MemoryFree (s : State) : Prop :=
  s.snap.chkrole = 0 ∧ s.warp.regs.chkrole = 0 ∧ memoryBlocked s = false
    ∧ (s.ctx s.warp.ctx).injectionStopped = false ∧ ∀ g ∈ s.grids, ∀ q ∈ g.2.stable, q.2 = 0

/-- The `k`-th operation of the warp in the focus is `a`, whole and unperformed, of an unchecked run; the operations
before it let every lane of it be performed now (R265), no range is stable and no matrix entry is in flight, the warp is
no monitor's, and the event that performs it names no part of it. -/
def MayPerform (s : State) (k : Nat) (a : Access) : Prop :=
  s.warp.out[k]? = some a ∧ s.canPerform k = true ∧ s.chosen k a = a.lanes ∧ a.got = [] ∧ a.due = [] ∧ a.logIdx = none
    ∧ a.waits = false ∧ (∀ l ∈ a.lanes, l.hazard = false ∧ l.stage = 0 ∧ l.seen = [])
    ∧ s.warp.regs.chkrole = 0 ∧ (∀ w ∈ s.allWarps, w.flights = []) ∧ (∀ g ∈ s.grids, ∀ q ∈ g.2.stable, q.2 = 0)
    ∧ (∀ p c x d pl, s.warp.park ≠ .monitor p c x d pl) ∧ s.ev.k = k ∧ s.ev.b = false

/-- No lane of an access is at peer scratch, whose place is looked up again when it is performed (R204). -/
def NoPeer (a : Access) : Prop := ∀ l ∈ a.lanes, ∀ p ∈ l.pieces, ∀ cl o, windowOf p.va ≠ .peer cl o

/-- Each place of an access is where it was found at issue: that of peer scratch is looked up again when the access is
performed (R204). -/
def InPlace (s : State) (a : Access) : Prop := ∀ l ∈ a.lanes, ∀ p ∈ l.pieces, s.locNow s.warp.ctx a.push p = p.loc

/-- The bytes of a region of a matrix entry that has not begun, each at a place of its own: in claimed scratch of its gang, or
in the global window where the pages put it (R184, R185, R197). -/
def Region.has (r : Region) (x : Nat) : Prop := ∃ i < r.rows, r.base + i * r.pitch ≤ x ∧ x < r.base + i * r.pitch + r.len
def RegionAt (s : State) (e : MEntry) (wants : List Want) (r : Region) (place : Nat → Loc) : Prop :=
  (∀ x y, r.has x → r.has y → place x = place y → x = y) ∧ e.pages = none ∧ e.pos = 0 ∧ e.got = []
  ∧ if r.global then ∃ page : Nat → Nat, ∀ x, r.has x → let a := page (x / 4096) * 4096 + x % 4096
        place x = .phys a ∧ ∀ want ∈ wants, s.translate e.ctx x want = .phys a
    else ∀ x, r.has x → ∃ seg, (s.gang e.gang).segOf x = some seg ∧ place x = .sram (sramAddr (s.gang e.gang).cluster seg (x % segSize))

/-- Who reads or writes the lines holds what R229 asks, a token with data to read and all 256 to write, and has the line
allocated; of a reader no store to the line is on its way (R262). Lines without tokens need nothing (R226). -/
def LinesHeld (s : State) (u : TokUser) (write : Bool) (lines : List Nat) : Prop :=
  ∀ x ∈ lines, tokenLine x = true →
    let h := if write then u.writer s x else u.reader s x
    (if write then s.mayWrite h x = true else s.mayRead h x = true ∧ s.storeSent u x = false)
      ∧ (SMap.find s.retention (256 * x + h)).isSome = true

/-! ## Invariants -/

/-- Every memory of the state is in its canonical form. -/
def State.memWf (s : State) : Bool :=
  Memory.wf s.mem && Memory.wf s.sram && Memory.wf s.dev.loader

end Sys2Proof.Machine
end

