-- ==== Sys2Proof/Certificates/Slice0/Obligations.lean ====
section
/-! DEFINITION. The statements about the model, for the provers. Those on a result say `exec` answers a next
state and which; a frame says what that state leaves as it was. -/

section Statements

open Sys2Proof Sys2Proof.Machine

/-- For every instruction whose fields its encoding admits, with every operand at every such value, the word
that the encoder gives is below 2^31, and the decoder reads that instruction from it and from the same word with
bit 31, the chain bit, set. Every well-formed instruction that is no device event has a word. (R65, R69, R70,
R71, R75, R76) -/
def Obligations.DecodeOfEncodeIsIdentity : Prop :=
  (∀ (i : Instr) (w : Nat), i.wf = true → encode i = some w →
    w < 2 ^ 31 ∧ decodeWord w = .ok i ∧ decodeWord (w + 2 ^ 31) = .ok i)
  ∧ ∀ i : Instr, i.wf = true → i.isEvent = false → ∃ w, encode i = some w

/-- For every 32-bit word from which the decoder reads an instruction, that instruction is well-formed, and its
encoding is the word with the chain bit cleared: no two words but for the chain bit stand for one instruction,
and no field of an accepted word is dropped. (R65, R69, R70, R71, R73, R75, R76) -/
def Obligations.DecodedWordsAreWellFormed : Prop :=
  ∀ (w : Nat) (i : Instr), w < 2 ^ 32 → decodeWord w = .ok i →
    i.wf = true ∧ encode i = some (w % 2 ^ 31)

/-- A word whose bits [30:25] hold 0x1D to 0x1F, 0x2A to 0x2F, 0x35 to 0x37 or 0x3B to 0x3F is refused with
subcode 1, whatever its other bits, the chain bit included, hold. (R73, R75) -/
def Obligations.UnlistedMajorsAreSubcodeOne : Prop :=
  ∀ w : Nat, fld w 25 6 ∈ [0x1D, 0x1E, 0x1F, 0x2A, 0x2B, 0x2C, 0x2D, 0x2E, 0x2F, 0x35, 0x36, 0x37,
      0x3B, 0x3C, 0x3D, 0x3E, 0x3F] → decodeWord w = .error 1

/-- One word of each of several families, written out from the encodings of the manual, decodes to the
instruction it stands for, through the decoder's table entry. (R117, R119, R125, R146, R157, R180, R282, R295,
R300, R326, R414) -/
def Obligations.ExampleWordsDecodeAsWritten : Prop :=
  decodeTableWord 32 0x14314FFF = some (.scmpi 3 2 4 0xFFF)
  ∧ decodeTableWord 32 0x1C028014 = some (.getsr 5 20)
  ∧ decodeTableWord 32 0x00700003 = some (.pushr 3)
  ∧ decodeTableWord 32 0x2174828C = some (.vadd64 4 5 6)
  ∧ decodeTableWord 32 0x22D0C304 = some (.vinti 13 3 3 4)
  ∧ decodeTableWord 32 0x30124201 = some (.vshflUp 9 2 1)
  ∧ decodeTableWord 32 0xC0810191 = some (.vld 2 0 0 8 3 2 1)
  ∧ decodeTableWord 32 0x48010C00 = some (.binit 2 3)
  ∧ decodeTableWord 32 0x4A140061 = some (.cpymc 1 3 1)
  ∧ decodeTableWord 32 0x601A2130 = some (.mma 0 3 1 8 9 1 0)
  ∧ decodeTableWord 32 0x72000401 = some (.seal 0 16 1)
  ∧ decodeTableWord 32 0x742190A1 = some (.grprdMem 3 4 5)

/-- In a state with an empty agenda, a module that has not tripped off, a warp in the focus that may issue and
that no other warp is preferred to, and no trap waiting, if the packet at the program counter is fetched and the
word of its slot has no chain bit and decodes to an instruction that does not end the span, trap on its vector
names, trap, park or stall, then step is exec of that instruction at the state whose group begins there,
followed by the fold of the word into CFSIG, the packet kept for its later slots and the group counted. Of an
unchecked warp, SADD chained to VMOVS writes both results, VMOVS from the scalar as it stood before; two VECTOR
words that write one register trap with subcode 8, and three with 7; a word chained to a WAITC whose condition
fails does not issue, and the warp stalls. That the model takes the machine's own steps when the agenda is empty
is its choice (log 2). (R60, R61, R64, R65, R66, R67, R68, R72, R73, R340, R431) -/
def Obligations.StepIssuesTheGroupAtThePc : Prop :=
  (∀ (s t : State) (ws : List Nat) (w : Nat) (i : Instr),
    s.agenda = [] → s.dev.off = false → s.idle < 256 → s.rival = none → s.warp.mayIssue = true →
    s.warp.pendTrap = none → s.packet = .words ws → ws.drop s.warp.pc.slot.val = w :: ws.drop (s.warp.pc.slot.val + 1) →
    w.testBit 31 = false → decodeWord w = .ok i →
    let b := ({ s.notePacket with fresh := s.fresh + 2 } : State).freshSpan.beginGroup
    spanOver [(w, i)] b = false → boundCheck [(w, i)] b = none →
    exec i { b with grp := { b.grp with word := w, ended := .done } } = .next t → t.grp.ended = .done →
    logFull b (foldWord s.warp.handler w t) = false →
    step s = .next ((s.keepPacket (foldWord s.warp.handler w t) ws).groupDone
      s.warp.regs.coreid.toNat s.warp.ctx s.warp.boost))
  ∧ (∀ (s : State) (ws rest : List Nat) (w v : Nat), let p := s.warp.pc; let r := s.warp.regs
    s.agenda = [] → s.dev.off = false → s.idle < 256 → s.rival = none → s.warp.mayIssue = true →
    s.warp.pendTrap = none → s.packet = .words ws → r.chkrole = 0 → ws.drop p.slot.val = (w + 2 ^ 31) :: v :: rest →
    let f : State := { s.notePacket with fresh := s.fresh + 2 }; let x (i : BitVec 5) : Word := f.beginGroup.srcS i
    (∀ (d a b c : BitVec 5) (e : BitVec 6), p.slot.val ≤ 1 → encode (.sadd d a b) = some w → encode (.vmovs e c) = some v →
      e.toNat < r.vbnd.toNat →
      ∃ t, step s = .next t ∧ (∀ n : Fin 32, t.warp.regs.s[n] = if n.val = d.toNat then x a + x b else r.s[n])
        ∧ (∀ l : Fin 32, (t.warp.regs.entry e.toNat)[l] = if r.exec.getLsbD l.val then x c else (r.entry e.toNat)[l])
        ∧ t.warp.pc = p.next.next ∧ ∀ a, t.mem.read a = s.mem.read a)
    ∧ (∀ d a b x y : BitVec 6, p.slot.val ≤ 1 → encode (.vadd d a b) = some w → encode (.vsub d x y) = some v →
        step s = .next (f.beginGroup.groupTrap causeIllegal (BitVec.ofNat 32 (8 + 256 * (p.slot.val + 1))) (BitVec.ofNat 32 v)))
    ∧ (∀ (d a b e x y g z : BitVec 6) (q u : Nat), p.slot.val = 0 → encode (.vadd d a b) = some w → encode (.vsub e x y) = some q →
        v = q + 2 ^ 31 → encode (.vmul g z z) = some u → rest = [u] →
        d ≠ e → step s = .next (f.beginGroup.groupTrap causeIllegal (BitVec.ofNat 32 (7 + 256 * 2)) (BitVec.ofNat 32 u)))
    ∧ (∀ (d a b : BitVec 6) (l m n k h : BitVec 5), p.slot.val ≤ 1 → encode (.vadd d a b) = some w →
        encode (.waitc l m n k h) = some v → d.toNat < r.vbnd.toNat → a.toNat < r.vbnd.toNat → b.toNat < r.vbnd.toNat →
        (l.toNat < r.cnt.l.toNat ∨ m.toNat < r.cnt.s.toNat) → s.warp.latch = none → (∀ x ∈ s.warp.out, x.far = false ∧ x.waits = false) →
        step s = ({ f with warp := { s.warp with stall := true } } : State).background))

/-- A step takes the next device event of the agenda, which is the model's own (log 2). (R458, R459) -/
def Obligations.StepTakesTheNextEventOfTheAgenda : Prop :=
  ∀ (s : State) (i : Instr) (a : EvArgs) (rest : List Turn), s.agenda = .event i a :: rest →
    (s.dev.off = false → step s = exec i { ({ s with agenda := rest } : State).unstall with ev := a })
    ∧ (s.dev.off = true → i ≠ .evColdReset → step s = .next { s with agenda := rest })

/-- Each SALU word, in every state and for every register choice, answers a next state in which the destination
scalar holds the function of R113 of the sources as they stood before the group, every other register, flag,
byte of memory and the rest of the device are as they were, and the program counter stands at the next slot. The
minima and maxima are one of their operands and bound both. (R8, R68, R113) -/
def Obligations.ScalarArithmeticResults : Prop :=
  (∀ (d a b : BitVec 5) (s : State), let x := s.srcS a; let y := s.srcS b
    GivesScalar (exec (.sadd d a b) s) s d.toNat (BitVec.ofNat 32 (x.toNat + y.toNat))
    ∧ GivesScalar (exec (.ssub d a b) s) s d.toNat (BitVec.ofInt 32 (x.toNat - y.toNat))
    ∧ GivesScalar (exec (.smul d a b) s) s d.toNat (BitVec.ofNat 32 (x.toNat * y.toNat))
    ∧ GivesScalar (exec (.smulhiI32 d a b) s) s d.toNat (BitVec.ofInt 32 (x.toInt * y.toInt / 2 ^ 32))
    ∧ GivesScalar (exec (.smulhiN32 d a b) s) s d.toNat (BitVec.ofNat 32 (x.toNat * y.toNat / 2 ^ 32))
    ∧ GivesScalar (exec (.sand d a b) s) s d.toNat (x &&& y)
    ∧ GivesScalar (exec (.sor d a b) s) s d.toNat (x ||| y)
    ∧ GivesScalar (exec (.sxor d a b) s) s d.toNat (x ^^^ y)
    ∧ GivesScalar (exec (.sshl d a b) s) s d.toNat (x <<< (y.toNat % 32))
    ∧ GivesScalar (exec (.sshrN32 d a b) s) s d.toNat (x >>> (y.toNat % 32))
    ∧ GivesScalar (exec (.sshrI32 d a b) s) s d.toNat (x.sshiftRight (y.toNat % 32))
    ∧ GivesScalar (exec (.sminI32 d a b) s) s d.toNat (if x.toInt < y.toInt then x else y)
    ∧ GivesScalar (exec (.smaxI32 d a b) s) s d.toNat (if x.toInt < y.toInt then y else x)
    ∧ GivesScalar (exec (.sminN32 d a b) s) s d.toNat (if x.toNat < y.toNat then x else y)
    ∧ GivesScalar (exec (.smaxN32 d a b) s) s d.toNat (if x.toNat < y.toNat then y else x)
    ∧ GivesScalar (exec (.ssltI32 d a b) s) s d.toNat (if x.toInt < y.toInt then 1 else 0)
    ∧ GivesScalar (exec (.ssltN32 d a b) s) s d.toNat (if x.toNat < y.toNat then 1 else 0)
    ∧ GivesScalar (exec (.sseq d a b) s) s d.toNat (if x = y then 1 else 0)
    ∧ GivesScalar (exec (.sclz d a) s) s d.toNat (BitVec.ofNat 32 (clz x.toNat 32))
    ∧ GivesScalar (exec (.spopc d a) s) s d.toNat (BitVec.ofNat 32 (popc x.toNat 32))
    ∧ GivesScalar (exec (.smov d a) s) s d.toNat x)
  ∧ (∀ (d a b : BitVec 4) (s : State), ∃ t u,
      exec (.sadd64 d a b) s = .next t ∧ exec (.ssub64 d a b) s = .next u
      ∧ pair (t.warp.regs.s[2 * d.toNat]'(by omega)) (t.warp.regs.s[2 * d.toNat + 1]'(by omega)) = s.srcPair a + s.srcPair b
      ∧ pair (u.warp.regs.s[2 * d.toNat]'(by omega)) (u.warp.regs.s[2 * d.toNat + 1]'(by omega)) = s.srcPair a - s.srcPair b
      ∧ (∀ n : Fin 32, n.val / 2 ≠ d.toNat → t.warp.regs.s[n] = s.warp.regs.s[n] ∧ u.warp.regs.s[n] = s.warp.regs.s[n])
      ∧ t.warp.pc = s.warp.pc.next ∧ u.warp.pc = s.warp.pc.next
      ∧ t = { s with warp := { s.warp with regs := { s.warp.regs with s := t.warp.regs.s }, pc := t.warp.pc } }
      ∧ u = { s with warp := { s.warp with regs := { s.warp.regs with s := u.warp.regs.s }, pc := u.warp.pc } })

/-- The number that SCLZ writes is 32 for the word 0, and for any other word the number below 32 that places its
highest one; the number that SPOPC writes is the sum of the bits of the word; bit k of what VBREV writes is bit
31 - k of its source. (R113, R144) -/
def Obligations.ScalarBitCountsMeasureTheirWord : Prop :=
  ∀ x : Word, (x = 0 → clz x.toNat 32 = 32)
    ∧ (x ≠ 0 → clz x.toNat 32 < 32 ∧ 2 ^ (31 - clz x.toNat 32) ≤ x.toNat ∧ x.toNat < 2 ^ (32 - clz x.toNat 32))
    ∧ popc x.toNat 32 = ((List.range 32).map fun k => (x.getLsbD k).toNat).sum
    ∧ ∀ k < 32, (brev x.toNat 32).testBit k = x.getLsbD (31 - k)

/-- The words with an immediate have the encodings of R114 to R116 with C = 0, and each answers a next state in
which S[SD] holds the operation of S[SA], as it stood before the group, and the sign-extended IMM15, the shift
or rotation by AMT, or IMM20 shifted left by 12; nothing else changes but the program counter. (The assembler's
own refusals and label operators of those rules are no part of the machine.) (R114, R115, R116) -/
def Obligations.ScalarImmediateWordsWriteTheirResult : Prop :=
  (∀ (d : BitVec 5) (i : BitVec 20) (s : State),
    encode (.slui d i) = some (0b001001 * 2 ^ 25 + d.toNat * 2 ^ 20 + i.toNat)
    ∧ GivesScalar (exec (.slui d i) s) s d.toNat (BitVec.ofNat 32 (i.toNat * 2 ^ 12)))
  ∧ (∀ (d a : BitVec 5) (i : BitVec 15) (s : State), let x := s.srcS a; let v : Word := BitVec.ofInt 32 i.toInt
    let word (m : Nat) := some (m * 2 ^ 25 + d.toNat * 2 ^ 20 + a.toNat * 2 ^ 15 + i.toNat)
    encode (.saddi d a i) = word 0b000100 ∧ GivesScalar (exec (.saddi d a i) s) s d.toNat (x + v)
    ∧ encode (.sandi d a i) = word 0b000101 ∧ GivesScalar (exec (.sandi d a i) s) s d.toNat (x &&& v)
    ∧ encode (.sori d a i) = word 0b000110 ∧ GivesScalar (exec (.sori d a i) s) s d.toNat (x ||| v)
    ∧ encode (.sxori d a i) = word 0b000111 ∧ GivesScalar (exec (.sxori d a i) s) s d.toNat (x ^^^ v))
  ∧ (∀ (d a n : BitVec 5) (s : State), let x := s.srcS a
    let word (k : Nat) := some (0b001000 * 2 ^ 25 + d.toNat * 2 ^ 20 + a.toNat * 2 ^ 15 + k * 2 ^ 13 + n.toNat)
    encode (.sshiShl d a n) = word 0 ∧ GivesScalar (exec (.sshiShl d a n) s) s d.toNat (x <<< n.toNat)
    ∧ encode (.sshiShrN32 d a n) = word 1 ∧ GivesScalar (exec (.sshiShrN32 d a n) s) s d.toNat (x >>> n.toNat)
    ∧ encode (.sshiShrI32 d a n) = word 2 ∧ GivesScalar (exec (.sshiShrI32 d a n) s) s d.toNat (x.sshiftRight n.toNat)
    ∧ encode (.sshiRotl d a n) = word 3 ∧ GivesScalar (exec (.sshiRotl d a n) s) s d.toNat (x.rotateLeft n.toNat))

/-- SCMPI with C = 0 encodes its fields at the places of R117, and for each of the eight conditions answers a
next state in which S[SD] holds 1 if the condition holds between S[SA] and v, the sign-extended IMM12 taken as a
32-bit word, and 0 otherwise; nothing else changes but the program counter. (R117) -/
def Obligations.ScmpiWritesTheTruthOfItsCondition : Prop :=
  ∀ (d a : BitVec 5) (k : BitVec 3) (i : BitVec 12) (s : State),
    let x := s.srcS a; let v : Word := BitVec.ofInt 32 i.toInt
    encode (.scmpi d a k i)
      = some (0b001010 * 2 ^ 25 + d.toNat * 2 ^ 20 + a.toNat * 2 ^ 15 + k.toNat * 2 ^ 12 + i.toNat)
    ∧ ∀ c : Bool,
      (k = 0 → (c = true ↔ x = v)) → (k = 1 → (c = true ↔ x ≠ v)) →
      (k = 2 → (c = true ↔ x.toInt < v.toInt)) → (k = 3 → (c = true ↔ v.toInt ≤ x.toInt)) →
      (k = 4 → (c = true ↔ x.toNat < v.toNat)) → (k = 5 → (c = true ↔ v.toNat ≤ x.toNat)) →
      (k = 6 → (c = true ↔ v.toInt < x.toInt)) → (k = 7 → (c = true ↔ x.toInt ≤ v.toInt)) →
      GivesScalar (exec (.scmpi d a k i) s) s d.toNat (if c then 1 else 0)

/-- BRA always, BZ and BNZ by their scalar, BANY, BALL and BNONE by their predicate under EXEC: where the
condition holds and p + OFF17 lies in 0 to 2^30 - 1 the warp stands at slot 0 of that packet with nothing else
changed; where the condition holds and it does not, BRANCH_RANGE is raised with that index; where the condition
does not hold, the warp goes on at the next slot whatever the offset. EXEC is unchanged. With EXEC 0, BALL and
BNONE are taken and BANY is not. (R62, R63, R120) -/
def Obligations.BranchesGoWhereTheirConditionSends : Prop :=
  ∀ (r : BitVec 5) (p : BitVec 3) (o : BitVec 17) (s : State),
    let goes (c : Bool) (i : Instr) : Prop :=
      let t : Int := s.warp.pc.packet.toNat + o.toInt
      (c = false → FallsThrough (exec i s) s)
      ∧ (c = true → 0 ≤ t → t < 2 ^ 30 → GoesTo (exec i s) s (BitVec.ofInt 30 t) s.warp.regs s.warp.stack)
      ∧ (c = true → ¬ (0 ≤ t ∧ t < 2 ^ 30) → Traps (exec i s) s 3 (BitVec.ofInt 32 t) 0)
    goes true (.bra o)
    ∧ goes (decide (s.srcS r = 0)) (.bz r o) ∧ goes (decide (s.srcS r ≠ 0)) (.bnz r o)
    ∧ goes (decide (s.srcP p &&& s.snap.exec ≠ 0)) (.bany p o)
    ∧ goes (decide (s.srcP p &&& s.snap.exec = s.snap.exec)) (.ball p o)
    ∧ goes (decide (s.srcP p &&& s.snap.exec = 0)) (.bnone p o)

/-- CALL encodes as R121 says. Where its target and p + 1 lie in 0 to 2^30 - 1 it writes S30 := p + 1 and goes
to slot 0 of the target; else it raises BRANCH_RANGE, S30 unchanged, with the target index if that is out of
range and otherwise p + 1. RET goes to slot 0 of packet S30[29:0] where S30[31:30] is 0 and else raises
BRANCH_RANGE with the word. Neither touches EXEC or the reconvergence stack. (R61, R63, R121) -/
def Obligations.CallAndReturnFollowTheLink : Prop :=
  ∀ (o : BitVec 25) (s : State), let p := s.warp.pc.packet.toNat; let t : Int := p + o.toInt
    encode (.call o) = some (0b000010 * 2 ^ 25 + o.toNat)
    ∧ (0 ≤ t → t < 2 ^ 30 → p + 1 < 2 ^ 30 → GoesTo (exec (.call o) s) s (BitVec.ofInt 30 t)
        (s.warp.regs.setS 30 (BitVec.ofNat 32 (p + 1))) s.warp.stack)
    ∧ (¬ (0 ≤ t ∧ t < 2 ^ 30) → Traps (exec (.call o) s) s 3 (BitVec.ofInt 32 t) 0)
    ∧ (0 ≤ t → t < 2 ^ 30 → ¬ p + 1 < 2 ^ 30 → Traps (exec (.call o) s) s 3 (BitVec.ofNat 32 (p + 1)) 0)
    ∧ ((s.srcS 30).toNat < 2 ^ 30 →
        GoesTo (exec .ret s) s (BitVec.ofNat 30 (s.srcS 30).toNat) s.warp.regs s.warp.stack)
    ∧ (2 ^ 30 ≤ (s.srcS 30).toNat → Traps (exec .ret s) s 3 (s.srcS 30) 0)

/-- PUSHR encodes as R123 says. With its target in 0 to 2^30 - 1 and fewer than 32 entries on the stack it
pushes an entry of kind R with slot 0 of the target and EXEC, and goes on at the next slot with nothing else
changed; a target out of range raises BRANCH_RANGE, and else a full stack RECONV_OVERFLOW. (R123) -/
def Obligations.PushrPushesAReconvergencePoint : Prop :=
  ∀ (o : BitVec 17) (s : State), let t : Int := s.warp.pc.packet.toNat + o.toInt
    encode (.pushr o) = some (7 * 2 ^ 20 + o.toNat) ∧ endsGroup (7 * 2 ^ 20 + o.toNat) = false
    ∧ (0 ≤ t → t < 2 ^ 30 → s.warp.stack.length < 32 →
        exec (.pushr o) s = .next { s with warp := { s.warp with
          pc := s.warp.pc.next
          stack := ⟨false, { packet := BitVec.ofInt 30 t, slot := 0 }, s.snap.exec⟩ :: s.warp.stack } })
    ∧ (¬ (0 ≤ t ∧ t < 2 ^ 30) → Traps (exec (.pushr o) s) s 3 (BitVec.ofInt 32 t) 0)
    ∧ (0 ≤ t → t < 2 ^ 30 → 32 ≤ s.warp.stack.length →
        Traps (exec (.pushr o) s) s 4 (BitVec.ofNat 32 s.warp.stack.length) 0)

/-- BDIV on an empty stack raises RECONV_MISSING; with no active lane of the predicate it falls through; with no
other active lane it goes to its target, EXEC unchanged; else a full stack raises RECONV_OVERFLOW, and otherwise
it pushes kind D with the next slot and the false side, sets EXEC to the true side and goes to its target. The
two sides are disjoint and together EXEC. JOIN on an empty stack raises RECONV_UNDERFLOW; else it pops, EXEC
takes the entry's mask and the warp stands at its program counter; in a checked block the EXEC write folds into
RSIG. (R63, R122, R124, R125, R324) -/
def Obligations.DivergenceSplitsAndJoinReconverges : Prop :=
  ∀ (p : BitVec 3) (o : BitVec 17) (s : State),
    let e := s.snap.exec; let tr := e &&& s.srcP p; let fa := e &&& ~~~ s.srcP p
    let t : Int := s.warp.pc.packet.toNat + o.toInt
    let withExec (m : Word) : Regs := { s.warp.regs with
      exec := m
      rsig := if s.warp.regs.chkrole = 0 then s.warp.regs.rsig else foldSig s.warp.regs.rsig m 0x102A }
    tr ||| fa = e ∧ tr &&& fa = 0
    ∧ (s.warp.stack = [] → Traps (exec (.bdiv p o) s) s 6 0 0)
    ∧ (s.warp.stack ≠ [] → tr = 0 → FallsThrough (exec (.bdiv p o) s) s)
    ∧ (s.warp.stack ≠ [] → tr ≠ 0 → fa = 0 → 0 ≤ t → t < 2 ^ 30 →
        GoesTo (exec (.bdiv p o) s) s (BitVec.ofInt 30 t) s.warp.regs s.warp.stack)
    ∧ (s.warp.stack ≠ [] → tr ≠ 0 → fa ≠ 0 → 32 ≤ s.warp.stack.length →
        Traps (exec (.bdiv p o) s) s 4 (BitVec.ofNat 32 s.warp.stack.length) 0)
    ∧ (s.warp.stack ≠ [] → tr ≠ 0 → fa ≠ 0 → s.warp.stack.length < 32 → 0 ≤ t → t < 2 ^ 30 →
        GoesTo (exec (.bdiv p o) s) s (BitVec.ofInt 30 t) (withExec tr) (⟨true, s.warp.pc.next, fa⟩ :: s.warp.stack))
    ∧ (s.warp.stack ≠ [] → tr ≠ 0 → (fa = 0 ∨ s.warp.stack.length < 32) → ¬ (0 ≤ t ∧ t < 2 ^ 30) →
        Traps (exec (.bdiv p o) s) s 3 (BitVec.ofInt 32 t) 0)
    ∧ (s.warp.stack = [] → Traps (exec .join s) s 5 0 0)
    ∧ (∀ x rest, s.warp.stack = x :: rest →
        exec .join s = .next { s with warp := { s.warp with pc := x.pc, regs := withExec x.mask, stack := rest } })

/-- In an unchecked grid, outside handler mode, with a handler base set and the cause enabled, taking a trap
writes TRAPPC with the group's first word, TRAPMASK with EXEC, TRAPCAUSE with the cause and TRAPINFO0 and 1 with
the detail, sets handler mode and EXEC to all ones, keeps the base of the handler image, and continues at slot 0
of HENTRY; no other register, no other warp and no byte of memory changes. (R11, R389, R392, R393) -/
def Obligations.TrapEntryGoesToTheHandler : Prop :=
  ∀ (s : State) (pc : Pc) (cause : Nat) (i0 i1 : Word),
    s.warp.regs.chkrole = 0 → s.warp.handler = false →
    (s.ctx s.warp.ctx).hbase ≠ 0 → (s.ctx s.warp.ctx).trapEnable.getLsbD cause = true →
    enterTrap pc cause i0 i1 s = { s with warp := { s.warp with
      handler := true
      hbase := (s.ctx s.warp.ctx).hbase
      pc := { packet := (s.ctx s.warp.ctx).hentry, slot := 0 }
      regs := { s.warp.regs with
        trapPc := pc.packet ++ BitVec.ofNat 2 pc.slot.val
        trapMask := s.warp.regs.exec
        trapCause := BitVec.ofNat 32 cause
        trapInfo0 := i0
        trapInfo1 := i1
        exec := 0xFFFFFFFF } } }

/-- In an unchecked grid, a trap whose cause is not enabled, or whose context has no handler base, or that is
raised in handler mode, loses the grid of the warp: the grid is marked lost, no warp of it is resident any more,
and a FAULT report of the warp's gang, with the number of its fault record, is the last message put on its
cluster's command link. The message on the link is as log 33 has it. (R393, R394, R396, R399, R407) -/
def Obligations.UnhandledTrapsLoseTheGrid : Prop :=
  ∀ (s : State) (pc : Pc) (cause : Nat) (i0 i1 : Word),
    s.warp.regs.chkrole = 0 → s.warp.park = .ready → (s.grid s.warp.grid).lost = false → (s.grid s.warp.grid).ended = false →
    (s.warp.handler = true ∨ (s.ctx s.warp.ctx).hbase = 0 ∨ (s.ctx s.warp.ctx).trapEnable.getLsbD cause = false) →
    let t := enterTrap pc cause i0 i1 s
    (t.grid s.warp.grid).lost = true
    ∧ (∀ w ∈ t.warp :: t.others, w.grid = s.warp.grid → w.park = .vacant)
    ∧ ∃ m, t.msgs.getLast? = some m ∧ m.cluster = s.warp.cluster ∧ m.kind = .fault ∧ m.gang = s.warp.gang
      ∧ m.record = s.nextSeq s.warp.ctx

/-- TRAP imm16 enters trap SOFTWARE with imm16 as TRAPINFO0, and BPT trap BREAKPOINT with 0, both with TRAPPC
naming the slot that follows the word and without undoing the group. RTT in handler mode with a TRAPPC whose
slot is below 3 and whose packet is below the grid's code length sets EXEC := TRAPMASK, leaves handler mode and
continues at TRAPPC; a slot of 3 or a packet at or above the code length raises BRANCH_RANGE; outside handler
mode RTT raises NOT_IN_HANDLER. (R128, R129, R395) -/
def Obligations.TrapWordsEnterAfterTheirGroup : Prop :=
  ∀ (i : BitVec 16) (s : State),
    let cl := (s.grid s.warp.grid).codeLen; let tp := s.snap.trapPc.toNat
    exec (.trap i) s = .next (enterTrap s.warp.pc.next 7 (BitVec.ofNat 32 i.toNat) 0 s)
    ∧ exec .bpt s = .next (enterTrap s.warp.pc.next 8 0 0 s)
    ∧ (s.warp.handler = false → Traps (exec .rtt s) s 9 0 0)
    ∧ (s.warp.handler = true → (tp % 4 = 3 ∨ cl ≤ tp / 4) →
        Traps (exec .rtt s) s 3 (BitVec.ofNat 32 (tp / 4)) 0)
    ∧ (∀ h : tp % 4 < 3, s.warp.handler = true → tp / 4 < cl →
        exec .rtt s = .next { s with warp := { s.warp with
          handler := false
          pc := { packet := BitVec.ofNat 30 (tp / 4), slot := ⟨tp % 4, h⟩ }
          regs := { s.warp.regs with
            exec := s.snap.trapMask
            rsig := if s.warp.regs.chkrole = 0 then s.warp.regs.rsig
              else foldSig s.warp.regs.rsig s.snap.trapMask 0x102A } } })

/-- GETSR of any register of R100 completes, of SSIG in a checked primary where no TSTORE to the global window
that groups before it issued is still to be performed (with one it stalls, log 23), and of the six unrepeatable
registers in a shadow or tiebreak where its log holds a record of kind 2. It writes its scalar with that
register as it stood before the group and changes nothing else, in a checked grid or not: EXEC, PART, VBND,
VCOUNT, FPMODE, WSTAT with MBUSY, LOOPACT and SWITCH, CFSIG, RSIG, SSIG, WID, BIDX to BIDZ, GANGRANK, GRIDID,
the five trap registers, CHKROLE, SPANNO and KBASE; and, outside checked grids, COREID and TBLGEN. CLKLO and
DTBLO give the low half of a sample and latch its high half, which CLKHI and DTBHI give from then on; with
nothing latched those give the high half of a sample of their own. The DTB does not pass its last value while
the clock is not LOST, so that no sample is below the one before; how far the clocks advance is free (log 6). A
checked primary records each of the six unrepeatable registers, the value written, in its replay log; a shadow
or tiebreak takes the value of the next record in its place. (R68, R100, R104, R105, R108, R110, R119, R331) -/
def Obligations.GetsrReadsTheSpecialRegisters : Prop :=
  (∀ (d : BitVec 5) (s : State), let r := s.snap
    let coreid : Word := r.coreid.setWidth 32
    (∀ p ∈ ([(0, r.exec), (1, r.part.setWidth 32), (2, r.vbnd.setWidth 32), (3, r.vcount.setWidth 32), (4, r.fpmode),
        (6, r.cfsig), (7, r.rsig), (10, r.wid.setWidth 32), (11, r.bidx), (12, r.bidy), (13, r.bidz),
        (14, r.gangrank.setWidth 32), (15, r.gridid), (21, r.trapPc), (22, r.trapMask),
        (23, r.trapCause), (24, r.trapInfo0), (25, r.trapInfo1), (26, r.chkrole.setWidth 32), (27, r.spanno),
        (29, r.kbase)] : List (BitVec 10 × Word)),
      GivesScalar (exec (.getsr d p.1) s) s d.toNat p.2)
    ∧ (s.warp.regs.chkrole = 0 ∨ (∀ e ∈ s.warp.flights, e.globalStore = false) → GivesScalar (exec (.getsr d 8) s) s d.toNat r.ssig)
    ∧ (s.warp.regs.chkrole = 1 → (∀ e ∈ s.warp.flights, e.globalStore = true → e.done = true) →
        GivesScalar (exec (.getsr d 8) s) s d.toNat r.ssig)
    ∧ (s.warp.regs.chkrole = 1 → (∃ e ∈ s.warp.flights, e.id < s.grp.entry ∧ e.span = r.spanno ∧ e.globalStore = true ∧ e.done = false) →
        exec (.getsr d 8) s = .next { s with grp := { s.grp with ended := .stalled } })
    ∧ (∃ v, GivesScalar (exec (.getsr d 5) s) s d.toNat v ∧ v.setWidth 4 = r.wstat
        ∧ (v.getLsbD 10 = true ↔ r.cnt.m ≠ 0) ∧ (v.getLsbD 9 = true ↔ s.warp.nest ≠ none)
        ∧ (v.getLsbD 8 = true ↔ (s.ctx s.warp.ctx).switchPending = true)
        ∧ ∀ k, (4 ≤ k ∧ k < 8) ∨ 11 ≤ k → v.getLsbD k = false)
    ∧ (r.chkrole = 0 → GivesScalar (exec (.getsr d 20) s) s d.toNat coreid)
    ∧ (∃ v : Word, v.setWidth 16 = (s.ctx s.warp.ctx).gen ∧ (v >>> 16).setWidth 9 = (s.ctx s.warp.ctx).bank
        ∧ (r.chkrole = 0 → GivesScalar (exec (.getsr d 28) s) s d.toNat v)
        ∧ (r.chkrole = 1 → ∀ q ∈ ([(20, coreid), (28, v)] : List (BitVec 10 × Word)),
          ∃ t, exec (.getsr d q.1) s = .next t ∧ t.warp.regs.s = s.warp.regs.s.set d.toNat q.2 d.isLt
            ∧ t.warp.pc = s.warp.pc.next ∧ t.warp.span.log = s.warp.span.log ++ [⟨2, [q.2]⟩] ∧ t.mem = s.mem))
    ∧ (r.chkrole = 0 → ∀ h, r.clkHi = some h → GivesScalar (exec (.getsr d 17) s) s d.toNat h)
    ∧ (r.chkrole = 0 → ∀ h, r.dtbHi = some h → GivesScalar (exec (.getsr d 19) s) s d.toNat h)
    ∧ (2 ≤ r.chkrole.toNat → ∀ (v : Word) (rest : List LogRec), s.warp.span.log = ⟨2, [v]⟩ :: rest →
        ∀ i ∈ ([16, 17, 18, 19, 20, 28] : List (BitVec 10)), ∃ t, exec (.getsr d i) s = .next t
          ∧ t.warp.regs.s = s.warp.regs.s.set d.toNat v d.isLt ∧ t.warp.span.log = rest
          ∧ t.warp.pc = s.warp.pc.next ∧ t.mem = s.mem))
  ∧ (∀ (d : BitVec 5) (s : State), s.snap.chkrole.toNat < 2 → ∃ t u v w : State,
    let clk (x : State) : DWord := (x.core s.warp.regs.coreid.toNat).clk
    let got (x : State) : Word := x.warp.regs.s[d.toNat]'d.isLt
    exec (.getsr d 16) s = .next t ∧ exec (.getsr d 18) s = .next u
    ∧ exec (.getsr d 17) s = .next v ∧ exec (.getsr d 19) s = .next w
    ∧ pair (got t) (t.warp.regs.clkHi.getD 0) = clk t ∧ pair (got u) (u.warp.regs.dtbHi.getD 0) = u.dtb
    ∧ (s.snap.clkHi = none → got v = hiHalf (clk v) ∧ v.warp.regs.clkHi = s.warp.regs.clkHi)
    ∧ (s.snap.dtbHi = none → got w = hiHalf w.dtb ∧ w.warp.regs.dtbHi = s.warp.regs.dtbHi)
    ∧ (∀ h, s.snap.clkHi = some h → got v = h) ∧ (∀ h, s.snap.dtbHi = some h → got w = h)
    ∧ (s.dev.clock ≠ .lost → s.dtb.toNat ≤ u.dtb.toNat ∧ s.dtb.toNat ≤ w.dtb.toNat)
    ∧ ∀ x ∈ [t, u, v, w], x.mem = s.mem ∧ x.warp.pc = s.warp.pc.next
        ∧ x.warp.span.log = s.warp.span.log ++ (if s.snap.chkrole = 1 then [⟨2, [got x]⟩] else [])
        ∧ ∀ n : Fin 32, n.val ≠ d.toNat → x.warp.regs.s[n] = s.warp.regs.s[n])
  ∧ (∀ (d : BitVec 5) (i : BitVec 10) (s : State), sregListed i.toNat = true →
    (i = 8 → s.warp.regs.chkrole = 1 → ∀ e ∈ s.warp.flights, e.globalStore = true → e.done = true) →
    (i ∈ ([16, 17, 18, 19, 20, 28] : List (BitVec 10)) → 2 ≤ s.snap.chkrole.toNat →
      ∃ (v : Word) (rest : List LogRec), s.warp.span.log = ⟨2, [v]⟩ :: rest) →
    ∃ t, exec (.getsr d i) s = .next t ∧ t.warp.pc = s.warp.pc.next ∧ t.grp.ended = s.grp.ended ∧ t.mem = s.mem
      ∧ ∀ n : Fin 32, n.val ≠ d.toNat → t.warp.regs.s[n] = s.warp.regs.s[n])

/-- SETSR writes S[S] to EXEC whole; to PART its low three bits, or 0 where they hold 5 to 7; to FPMODE its low
14 bits and to WSTAT's sticky bits the old bits that it holds a 1 for, each ORed with what the other words of
the group raised; to TRAPPC, TRAPMASK and the trap details whole, to TRAPCAUSE its low 16 bits. A BOUND of VBND
that is no multiple of 8, below 8 or above VCOUNT raises VBND_VALUE with the source word; else a nonzero M
counter raises MATRIX_BUSY; else VBND takes it. Nothing else changes but the program counter. (R4, R48, R67,
R100, R102, R103, R104, R119, R324) -/
def Obligations.SetsrWritesThroughTheFieldMap : Prop :=
  ∀ (a : BitVec 5) (s : State), let v := s.srcS a; let r := s.warp.regs; let b := v.toNat % 4096
    let gives (i : BitVec 10) (q : Regs) : Prop :=
      exec (.setsr a i) s = .next { s with warp := { s.warp with pc := s.warp.pc.next, regs := q } }
    gives 0 { r with exec := v, rsig := if r.chkrole = 0 then r.rsig else foldSig r.rsig v 0x102A }
    ∧ (v.toNat % 8 ≤ 4 → gives 1 { r with part := BitVec.ofNat 3 v.toNat })
    ∧ (4 < v.toNat % 8 → gives 1 { r with part := 0 })
    ∧ ((b % 8 ≠ 0 ∨ b < 8 ∨ s.snap.vcount.toNat < b) → Traps (exec (.setsr a 2) s) s 19 v 0)
    ∧ (b % 8 = 0 → 8 ≤ b → b ≤ s.snap.vcount.toNat → s.snap.cnt.m ≠ 0 → Traps (exec (.setsr a 2) s) s 20 v 0)
    ∧ (b % 8 = 0 → 8 ≤ b → b ≤ s.snap.vcount.toNat → s.snap.cnt.m = 0 → gives 2 { r with vbnd := BitVec.ofNat 12 b })
    ∧ (∃ q, gives 4 { r with fpmode := q } ∧ ∀ k, q.getLsbD k =
        ((decide (k < 14) && v.getLsbD k) || (decide (4 ≤ k ∧ k < 9) && s.grp.fpRaised.getLsbD (k - 4))))
    ∧ (∃ q, gives 5 { r with wstat := q } ∧ ∀ k < 4, q.getLsbD k =
        ((s.snap.wstat.getLsbD k && v.getLsbD k) || s.grp.wsRaised.getLsbD k))
    ∧ gives 21 { r with trapPc := v } ∧ gives 22 { r with trapMask := v }
    ∧ gives 23 { r with trapCause := BitVec.ofNat 32 (v.toNat % 65536) }
    ∧ gives 24 { r with trapInfo0 := v } ∧ gives 25 { r with trapInfo1 := v }

/-- Each VINT word of R144 and each VINTI function of R146 answers a next state in which the active lanes of
V[D] (of the pair, for the 64-bit forms) hold the function of the source lanes as they stood before the group,
with WSTAT.SAT raised where a saturating sum or difference clamps in an active lane; every inactive lane, other
register, flag, byte of memory and the rest of the device is as it was, and the program counter stands at the
next slot. (R68, R72, R94, R138, R141, R144, R145, R146) -/
def Obligations.VectorIntegerResults : Prop :=
  (∀ (d a b : BitVec 6) (s : State), NamesBelow s [(d.toNat, 1), (a.toNat, 1), (b.toNat, 1)] →
    let x (l : Fin 32) := (s.srcV a.toNat)[l]; let y (l : Fin 32) := (s.srcV b.toNat)[l]; let z (l : Fin 32) := (s.srcV d.toNat)[l]
    let gives (i : Instr) (f : Fin 32 → Word) : Prop := GivesVectors (exec i s) s s.snap.exec d.toNat 1 (fun _ l => f l)
    let sat (i : Instr) (f : Fin 32 → Int) : Prop :=
      GivesVectors (exec i s) s s.snap.exec d.toNat 1 (fun _ l => BitVec.ofInt 32 (max (-2147483648) (min 2147483647 (f l)))) 0
        (if ∃ l : Fin 32, s.snap.exec.getLsbD l.val = true ∧ ¬ (-2147483648 ≤ f l ∧ f l ≤ 2147483647) then 2 else 0)
    gives (.vadd d a b) (fun l => BitVec.ofNat 32 ((x l).toNat + (y l).toNat))
    ∧ gives (.vsub d a b) (fun l => BitVec.ofInt 32 ((x l).toNat - (y l).toNat))
    ∧ gives (.vmul d a b) (fun l => BitVec.ofNat 32 ((x l).toNat * (y l).toNat))
    ∧ gives (.vmulhiI32 d a b) (fun l => BitVec.ofInt 32 ((x l).toInt * (y l).toInt / 2 ^ 32))
    ∧ gives (.vmulhiN32 d a b) (fun l => BitVec.ofNat 32 ((x l).toNat * (y l).toNat / 2 ^ 32))
    ∧ gives (.vminI32 d a b) (fun l => if (x l).toInt < (y l).toInt then x l else y l)
    ∧ gives (.vmaxI32 d a b) (fun l => if (x l).toInt < (y l).toInt then y l else x l)
    ∧ gives (.vminN32 d a b) (fun l => if (x l).toNat < (y l).toNat then x l else y l)
    ∧ gives (.vmaxN32 d a b) (fun l => if (x l).toNat < (y l).toNat then y l else x l)
    ∧ gives (.vand d a b) (fun l => x l &&& y l) ∧ gives (.vor d a b) (fun l => x l ||| y l)
    ∧ gives (.vxor d a b) (fun l => x l ^^^ y l) ∧ gives (.vandn d a b) (fun l => x l &&& ~~~ y l)
    ∧ gives (.vshl d a b) (fun l => x l <<< ((y l).toNat % 32))
    ∧ gives (.vshrN32 d a b) (fun l => x l >>> ((y l).toNat % 32))
    ∧ gives (.vshrI32 d a b) (fun l => (x l).sshiftRight ((y l).toNat % 32))
    ∧ gives (.vrotl d a b) (fun l => (x l).rotateLeft ((y l).toNat % 32))
    ∧ gives (.vpopc d a) (fun l => BitVec.ofNat 32 (popc (x l).toNat 32))
    ∧ gives (.vclz d a) (fun l => BitVec.ofNat 32 (clz (x l).toNat 32))
    ∧ gives (.vbrev d a) (fun l => BitVec.ofNat 32 (brev (x l).toNat 32))
    ∧ gives (.vabsdI32 d a b) (fun l => BitVec.ofNat 32 ((x l).toInt - (y l).toInt).natAbs)
    ∧ sat (.vaddsI32 d a b) (fun l => (x l).toInt + (y l).toInt)
    ∧ sat (.vsubsI32 d a b) (fun l => (x l).toInt - (y l).toInt)
    ∧ gives (.vdot4I8 d a b) (fun l => BitVec.ofInt 32 ((z l).toInt +
        ((List.range 4).map fun i => ((x l).extractLsb' (8 * i) 8).toInt * ((y l).extractLsb' (8 * i) 8).toInt).sum))
    ∧ gives (.vdot2I16 d a b) (fun l => BitVec.ofInt 32 ((z l).toInt +
        ((List.range 2).map fun i => ((x l).extractLsb' (16 * i) 16).toInt * ((y l).extractLsb' (16 * i) 16).toInt).sum))
    ∧ ∀ (f : BitVec 5) (i : BitVec 8), f.toNat ≤ 16 →
        gives (.vinti f d a i) (fun l => vintFn f.toNat (x l) (BitVec.ofNat 32 i.toNat)))
  ∧ (∀ (d a b : BitVec 5) (s : State), NamesBelow s [(2 * d.toNat, 2), (2 * a.toNat, 2), (2 * b.toNat, 2)] →
    let x (l : Fin 32) := pair (s.srcV (2 * a.toNat))[l] (s.srcV (2 * a.toNat + 1))[l]
    let y (l : Fin 32) := pair (s.srcV (2 * b.toNat))[l] (s.srcV (2 * b.toNat + 1))[l]
    let half (k : Nat) (v : DWord) : Word := if k = 0 then loHalf v else hiHalf v
    GivesVectors (exec (.vadd64 d a b) s) s s.snap.exec (2 * d.toNat) 2 (fun k l => half k (x l + y l))
    ∧ GivesVectors (exec (.vsub64 d a b) s) s s.snap.exec (2 * d.toNat) 2 (fun k l => half k (x l - y l)))

/-- For each function 0 to 16 of R146, VINTI with a well-formed immediate has the result of the VINT word of the
same number in any state whose second source holds the zero-extended immediate in every lane and stands below
VBND. (R144, R146) -/
def Obligations.ImmediateVectorFunctionsAreTheVintFunctions : Prop :=
  ∀ (d a b : BitVec 6) (i : BitVec 8) (s : State), b.toNat < s.snap.vbnd.toNat →
    (∀ l : Fin 32, (s.srcV b.toNat)[l] = BitVec.ofNat 32 i.toNat) →
    ∀ p ∈ ([(0, .vadd d a b), (1, .vsub d a b), (2, .vmul d a b), (3, .vmulhiI32 d a b), (4, .vmulhiN32 d a b),
        (5, .vminI32 d a b), (6, .vmaxI32 d a b), (7, .vminN32 d a b), (8, .vmaxN32 d a b), (9, .vand d a b),
        (10, .vor d a b), (11, .vxor d a b), (12, .vandn d a b), (13, .vshl d a b), (14, .vshrN32 d a b),
        (15, .vshrI32 d a b), (16, .vrotl d a b)] : List (BitVec 5 × Instr)),
      exec (.vinti p.1 d a i) s = exec p.2 s

/-- For every word that names vector registers (the integer, floating-point, conversion, special-function, lane,
reduction and comparison words, the loads, stores and atomics, DEPOSIT and SEAL), a name at or above VBND raises
VREG_BOUND with the lowest offending register number as detail and no other effect; every register that a pair
or a widened operand covers is checked, and the redirect word of an atomic with H = 2. (R71, R72, R285, R287,
R313, R326, R389) -/
def Obligations.VectorNamesAtTheBoundTrap : Prop :=
  (∀ (d a b : BitVec 6) (s : State),
    ∀ i ∈ ([.vadd d a b, .vsub d a b, .vmul d a b, .vmulhiI32 d a b, .vmulhiN32 d a b, .vminI32 d a b,
        .vmaxI32 d a b, .vminN32 d a b, .vmaxN32 d a b, .vand d a b, .vor d a b, .vxor d a b, .vandn d a b,
        .vshl d a b, .vshrN32 d a b, .vshrI32 d a b, .vrotl d a b, .vabsdI32 d a b, .vaddsI32 d a b,
        .vsubsI32 d a b, .vdot4I8 d a b, .vdot2I16 d a b, .vfaddF32 d a b, .vfsubF32 d a b, .vfmulF32 d a b,
        .vfminF32 d a b, .vfmaxF32 d a b, .vfcpsgnF32 d a b, .vfaddF16x2 d a b, .vfsubF16x2 d a b,
        .vfmulF16x2 d a b, .vfminF16x2 d a b, .vfmaxF16x2 d a b, .vfaddB16x2 d a b, .vfsubB16x2 d a b,
        .vfmulB16x2 d a b, .vfminB16x2 d a b, .vfmaxB16x2 d a b, .vcmulB16 d a b, .vshflIdx d a b] : List Instr),
      BoundTraps i s [(d.toNat, 1), (a.toNat, 1), (b.toNat, 1)])
  ∧ (∀ (d a : BitVec 6) (f n : BitVec 5) (j : BitVec 8) (t : BitVec 3) (s : State),
    ∀ i ∈ ([.vpopc d a, .vclz d a, .vbrev d a, .vfabsF32 d a, .vfnegF32 d a, .vcvtF32I32 d a, .vcvtF32N32 d a,
        .vcvtI32F32 d a, .vcvtI32F32Rz d a, .vcvtN32F32 d a, .vcvtF32F16 d a, .vcvtF32F16h d a, .vcvtF32B16 d a,
        .vcvtF32B16h d a, .vcvtL6F32 d a, .vcvtF32L6 d a, .vcvtF32E4 d a, .vcvtF32E5 d a, .vcvtF32E2 d a,
        .vrcp d a, .vrsq d a, .vsqrt d a, .vexp2 d a, .vlog2 d a, .vsint d a, .vcost d a, .vtanh d a, .vfirst d a,
        .raddI32 d a, .raddF32 d a, .rminI32 d a, .rmaxI32 d a, .rminN32 d a, .rmaxN32 d a, .rminF32 d a,
        .rmaxF32 d a, .rand d a, .ror d a, .rxor d a, .scanaddI32 d a, .scanaddI32Ex d a, .scanaddF32 d a,
        .vinti f d a j, .vtab t d a, .vshflUp d a n, .vshflDown d a n, .vshflXor d a n, .vshflBcast d a n] : List Instr),
      BoundTraps i s [(d.toNat, 1), (a.toNat, 1)])
  ∧ (∀ (d a b : BitVec 5) (s : State), ∀ i ∈ ([.vadd64 d a b, .vsub64 d a b, .vfaddF64 d a b, .vfsubF64 d a b, .vfmulF64 d a b,
        .vfminF64 d a b, .vfmaxF64 d a b] : List Instr),
      BoundTraps i s [(2 * d.toNat, 2), (2 * a.toNat, 2), (2 * b.toNat, 2)])
  ∧ (∀ (d a b : BitVec 6) (e : BitVec 5) (s : State),
      ∀ i ∈ ([.vfmaF32 d a b e, .vfmaF16x2 d a b e, .vfmaB16x2 d a b e] : List Instr),
      BoundTraps i s [(d.toNat, 1), (a.toNat, 1), (b.toNat, 1), (e.toNat, 1)])
  ∧ (∀ (d a b : BitVec 5) (e : BitVec 4) (s : State),
      BoundTraps (.vfmaF64 d a b e) s [(2 * d.toNat, 2), (2 * a.toNat, 2), (2 * b.toNat, 2), (2 * e.toNat, 2)])
  ∧ (∀ (k p : BitVec 3) (a b : BitVec 6) (s : State),
      ∀ i ∈ ([.vcmpI32 k p a b, .vcmpN32 k p a b, .vcmpF32 k p a b, .vcmpF16x2 k p a b] : List Instr),
      BoundTraps i s [(a.toNat, 1), (b.toNat, 1)])
  ∧ (∀ (d a : BitVec 6) (u v n : BitVec 5) (x : BitVec 4) (y p : BitVec 3) (w : BitVec 2) (s : State),
      BoundTraps (.vcvtF16x2F32 d v) s [(d.toNat, 1), (2 * v.toNat, 2)] ∧ BoundTraps (.vcvtB16x2F32 d v) s [(d.toNat, 1), (2 * v.toNat, 2)]
      ∧ BoundTraps (.vcvtF64F32 u a) s [(2 * u.toNat, 2), (a.toNat, 1)] ∧ BoundTraps (.vcvtF32F64 d v) s [(d.toNat, 1), (2 * v.toNat, 2)]
      ∧ BoundTraps (.vcvtE4x4F32 d x) s [(d.toNat, 1), (4 * x.toNat, 4)] ∧ BoundTraps (.vcvtE5x4F32 d x) s [(d.toNat, 1), (4 * x.toNat, 4)]
      ∧ BoundTraps (.vcvtE2x8F32 d y) s [(d.toNat, 1), (8 * y.toNat, 8)]
      ∧ BoundTraps (.vmov w d a) s [(d.toNat, 2 ^ w.toNat), (a.toNat, 2 ^ w.toNat)]
      ∧ BoundTraps (.vmovs d u) s [(d.toNat, 1)] ∧ BoundTraps (.vlaneid d) s [(d.toNat, 1)] ∧ BoundTraps (.vvoteCount d p) s [(d.toNat, 1)]
      ∧ BoundTraps (.vreadl u a n) s [(a.toNat, 1)] ∧ BoundTraps (.vwritel d u n) s [(d.toNat, 1)])
  ∧ (∀ (z g : BitVec 3) (o : BitVec 1) (w h : BitVec 2) (d a : BitVec 6) (n x y : BitVec 4) (c : BitVec 6) (s : State),
      BoundTraps (.vld z o w d a n h) s [(d.toNat, 2 ^ w.toNat), (a.toNat, 1)]
      ∧ BoundTraps (.vst z o w d a n h) s [(d.toNat, 2 ^ w.toNat), (a.toNat, 1)]
      ∧ BoundTraps (.deposit x a) s [(4 * x.toNat, 4), (a.toNat, 1)]
      ∧ BoundTraps (.seal d c g) s [(d.toNat, if c = 0 then 64 else c.toNat)]
      ∧ ∀ i ∈ ([.vatomAddI32 d a y h, .vatomAddF32 d a y h, .vatomAddB16x2 d a y h, .vatomMinI32 d a y h, .vatomMaxI32 d a y h,
          .vatomMinN32 d a y h, .vatomMaxN32 d a y h, .vatomAnd d a y h, .vatomOr d a y h, .vatomXor d a y h, .vatomXchg d a y h,
          .vatomIncw d a y h, .vatomDecw d a y h] : List Instr),
        BoundTraps i s ([(d.toNat, 1), (a.toNat, 1)] ++ if h = 2 then [(d.toNat + 1, 1)] else []))
  ∧ (∀ (d : BitVec 5) (a : BitVec 6) (b : BitVec 4) (h : BitVec 2) (s : State),
      ∀ i ∈ ([.vatomCas d a b h, .vatomAddI64 d a b h] : List Instr),
        BoundTraps i s ([(2 * d.toNat, 2), (a.toNat, 1)] ++ if h = 2 then [(2 * d.toNat + 2, 1)] else []))

/-- VMOV of each width, VMOVS, VLANEID, VFIRST and the five shuffles write the active lanes of their destination
with the source lane that R156 or R157 names, read whether it is active or not; VREADL writes a scalar with any
lane and VWRITEL one lane of a vector with a scalar, both regardless of EXEC. Nothing else changes but the
program counter. A lane of a shuffle whose source would lie outside its partition keeps its own value of V[A].
(R68, R71, R138, R139, R140, R156, R157) -/
def Obligations.LaneWordsMoveBits : Prop :=
  ∀ (w : BitVec 2) (d a b : BitVec 6) (c n : BitVec 5) (s : State),
    NamesBelow s [(d.toNat, 2 ^ w.toNat), (a.toNat, 2 ^ w.toNat), (b.toNat, 1)] →
    let e := s.snap.exec; let wd := s.snap.width
    let lane (v : Nat) (k : Nat) : Word := (s.srcV v)[k % 32]'(Nat.mod_lt _ (by decide))
    let gives (i : Instr) (f : Nat → Word) : Prop := GivesVectors (exec i s) s e d.toNat 1 (fun _ l => f l.val)
    GivesVectors (exec (.vmov w d a) s) s e d.toNat (2 ^ w.toNat) (fun k l => lane (a.toNat + k) l.val)
    ∧ gives (.vmovs d c) (fun _ => s.srcS c)
    ∧ gives (.vlaneid d) (fun l => BitVec.ofNat 32 l)
    ∧ (∀ f : Fin 32, e.getLsbD f.val = true → (∀ k < f.val, e.getLsbD k = false) →
        gives (.vfirst d a) (fun _ => lane a.toNat f.val))
    ∧ GivesScalar (exec (.vreadl c a n) s) s c.toNat (lane a.toNat n.toNat)
    ∧ GivesVectors (exec (.vwritel d c n) s) s (1#32 <<< n.toNat) d.toNat 1 (fun _ _ => s.srcS c)
    ∧ gives (.vshflIdx d a b) (fun l => lane a.toNat (l / wd * wd + (lane b.toNat l).toNat % wd))
    ∧ gives (.vshflUp d a n) (fun l =>
        lane a.toNat (if n.toNat ≤ l ∧ (l - n.toNat) / wd = l / wd then l - n.toNat else l))
    ∧ gives (.vshflDown d a n) (fun l => lane a.toNat (if (l + n.toNat) / wd = l / wd then l + n.toNat else l))
    ∧ gives (.vshflXor d a n) (fun l => lane a.toNat (l / wd * wd + (l % wd ^^^ n.toNat % wd)))
    ∧ gives (.vshflBcast d a n) (fun l => lane a.toNat (l / wd * wd + n.toNat % wd))

/-- Each integer reduction writes every lane of a partition with its operation folded over the active lanes of
that partition from the identity of R158; each integer scan writes an active lane with the sum over the active
lanes of its partition up to it, or below it; VVOTE.ANY, ALL and COUNT give each partition its truth or its
number of active lanes whose bit is set, and BALLOT the predicate under EXEC. WSTAT.EMPTY is raised exactly
where some partition (for BALLOT, EXEC) has no active lane. Nothing else changes but the program counter. (R102,
R104, R139, R140, R158, R159, R160) -/
def Obligations.IntegerReductionsScansAndVotes : Prop :=
  ∀ (d a : BitVec 6) (c : BitVec 5) (p q : BitVec 3) (s : State), NamesBelow s [(d.toNat, 1), (a.toNat, 1)] →
    let v (l : Fin 32) := (s.srcV a.toNat)[l]; let ws := emptyBits s
    let red (i : Instr) (op : Word → Word → Word) (e : Word) : Prop :=
      GivesVectors (exec i s) s 0xFFFFFFFF d.toNat 1 (fun _ l => (partners s l).foldl (fun x k => op x (v k)) e) 0 ws
    red (.raddI32 d a) (· + ·) 0
    ∧ red (.rminI32 d a) (fun x y => if x.toInt < y.toInt then x else y) 0x7FFFFFFF
    ∧ red (.rmaxI32 d a) (fun x y => if x.toInt < y.toInt then y else x) 0x80000000
    ∧ red (.rminN32 d a) (fun x y => if x.toNat < y.toNat then x else y) 0xFFFFFFFF
    ∧ red (.rmaxN32 d a) (fun x y => if x.toNat < y.toNat then y else x) 0
    ∧ red (.rand d a) (· &&& ·) 0xFFFFFFFF ∧ red (.ror d a) (· ||| ·) 0 ∧ red (.rxor d a) (· ^^^ ·) 0
    ∧ GivesVectors (exec (.scanaddI32 d a) s) s s.snap.exec d.toNat 1
        (fun _ l => (((partners s l).filter (· ≤ l)).map v).sum) 0 ws
    ∧ GivesVectors (exec (.scanaddI32Ex d a) s) s s.snap.exec d.toNat 1
        (fun _ l => (((partners s l).filter (· < l)).map v).sum) 0 ws
    ∧ (∀ m : Word, (∀ l : Fin 32, m.getLsbD l.val = (partners s l).any fun k => (s.srcP p).getLsbD k.val) →
        GivesPredicate (exec (.vvoteAny q p) s) s q.toNat m ws)
    ∧ (∀ m : Word, (∀ l : Fin 32, m.getLsbD l.val = (partners s l).all fun k => (s.srcP p).getLsbD k.val) →
        GivesPredicate (exec (.vvoteAll q p) s) s q.toNat m ws)
    ∧ GivesVectors (exec (.vvoteCount d p) s) s 0xFFFFFFFF d.toNat 1
        (fun _ l => BitVec.ofNat 32 ((partners s l).filter fun k => (s.srcP p).getLsbD k.val).length) 0 ws
    ∧ (∃ t, exec (.vvoteBallot c p) s = .next t ∧ OnlyRegs s t ∧ t.warp.pc = s.warp.pc.next
        ∧ (∀ n : Fin 32, t.warp.regs.s[n] = if n.val = c.toNat then s.srcP p &&& s.snap.exec else s.warp.regs.s[n])
        ∧ t.warp.regs = { s.warp.regs with
            s := t.warp.regs.s, wstat := s.warp.regs.wstat ||| (if s.snap.exec = 0 then 1 else 0) })

/-- If two states agree on everything but lanes of V[A] outside the partition of lane l, then the integer
reductions and scans and the uniform shuffles give lane l of V[D] the same value in both. (R140, R157, R158,
R159) -/
def Obligations.PartitionsDoNotReadEachOther : Prop :=
  ∀ (d a : BitVec 6) (n : BitVec 5) (s : State) (u : Lanes) (l : Fin 32),
    NamesBelow s [(d.toNat, 1), (a.toNat, 1)] →
    (∀ k : Fin 32, k.val / s.snap.width = l.val / s.snap.width → u[k] = (s.srcV a.toNat)[k]) →
    let s' : State := { s with snap := s.snap.setEntry a.toNat u }
    ∀ i ∈ ([.raddI32 d a, .rminI32 d a, .rmaxI32 d a, .rminN32 d a, .rmaxN32 d a, .rand d a, .ror d a, .rxor d a,
        .scanaddI32 d a, .scanaddI32Ex d a, .vshflUp d a n, .vshflDown d a n, .vshflXor d a n, .vshflBcast d a n] :
        List Instr),
      ∃ t t', exec i s = .next t ∧ exec i s' = .next t' ∧
        (t.warp.regs.entry d.toNat)[l] = (t'.warp.regs.entry d.toNat)[l]

/-- PAND, POR, PXOR, PANDN, PNOT, PMOV, GETEXEC, PFROMS and PPOPC write P[D], PTOS writes S[D], and SETEXEC and
EXECAND write EXEC, each with the whole 32-bit result of R161 from the registers as they stood before the group;
in a checked block an EXEC write is folded into RSIG. Nothing else changes but the program counter. (R68, R161,
R324) -/
def Obligations.PredicateWordsWriteWholeRegisters : Prop :=
  ∀ (d a b : BitVec 3) (c : BitVec 5) (s : State), let p := s.srcP a; let q := s.srcP b; let e := s.snap.exec
    let r := s.warp.regs
    let newExec (i : Instr) (v : Word) : Prop :=
      exec i s = .next { s with warp := { s.warp with pc := s.warp.pc.next, regs := { r with
        exec := v, rsig := if r.chkrole = 0 then r.rsig else foldSig r.rsig v 0x102A } } }
    GivesPredicate (exec (.pand d a b) s) s d.toNat (p &&& q)
    ∧ GivesPredicate (exec (.por d a b) s) s d.toNat (p ||| q)
    ∧ GivesPredicate (exec (.pxor d a b) s) s d.toNat (p ^^^ q)
    ∧ GivesPredicate (exec (.pandn d a b) s) s d.toNat (p &&& ~~~ q)
    ∧ GivesPredicate (exec (.pnot d a) s) s d.toNat (~~~ p)
    ∧ GivesPredicate (exec (.pmov d a) s) s d.toNat p
    ∧ GivesPredicate (exec (.getexec d) s) s d.toNat e
    ∧ GivesPredicate (exec (.pfroms d c) s) s d.toNat (s.srcS c)
    ∧ GivesPredicate (exec (.ppopc d a) s) s d.toNat (BitVec.ofNat 32 (popc (p &&& e).toNat 32))
    ∧ GivesScalar (exec (.ptos c a) s) s c.toNat p
    ∧ newExec (.setexec a) p ∧ newExec (.execand a) (e &&& p)

/-- For VFLT and VFMA on F32, VSFU and VTAB: with every name below VBND, no marker found and no raised exception
enabled, the active lanes of V[D] hold the correctly rounded result of each lane under FPMODE.RM (VSFU and VTAB
to nearest even), the flags that the active lanes raise are ORed into FPMODE, and nothing else changes but the
program counter; where FPMODE.UNINIT is set and an active lane of a source holds a marker, UNINIT_USE is raised
with the entry of the lowest such lane; else where a raised exception is enabled, FP_EXCEPTION with the raised
flags. (R48, R49, R52, R54, R72, R94, R147, R148, R150, R154, R155) -/
def Obligations.OneElementFloatResults : Prop :=
  ∀ (d a b : BitVec 6) (c : BitVec 5) (tid : BitVec 3) (s : State),
    NamesBelow s [(d.toNat, 1), (a.toNat, 1), (b.toNat, 1), (c.toNat, 1)] →
    let x (l : Fin 32) : Nat := ((s.srcV a.toNat)[l]).toNat; let y (l : Fin 32) : Nat := ((s.srcV b.toNat)[l]).toNat
    let z (l : Fin 32) : Nat := ((s.srcV c.toNat)[l]).toNat; let rm := (s.snap.fpmode.extractLsb' 0 2).toNat
    let gives (i : Instr) (src : List Lanes) (f : Fin 32 → Rnd) : Prop :=
      (FpQuiet s src (raisedBy s f) →
        GivesVectors (exec i s) s s.snap.exec d.toNat 1 (fun _ l => BitVec.ofNat 32 (f l).bits) (raisedBy s f))
      ∧ (∀ m, s.snap.uninit = true → firstMarker s.snap.exec src = some m → Traps (exec i s) s 21 0 m)
      ∧ ((s.snap.uninit = true → firstMarker s.snap.exec src = none) → raisedBy s f &&& s.snap.fpEnables ≠ 0 →
          Traps (exec i s) s 22 ((raisedBy s f).setWidth 32) 0)
    let A := s.srcV a.toNat; let B := s.srcV b.toNat; let C := s.srcV c.toNat
    gives (.vfaddF32 d a b) [A, B] (fun l => addV fmtF32 rm (unpack fmtF32 (x l)) (unpack fmtF32 (y l)))
    ∧ gives (.vfsubF32 d a b) [A, B] (fun l => addV fmtF32 rm (unpack fmtF32 (x l)) (unpack fmtF32 (y l)).negate)
    ∧ gives (.vfmulF32 d a b) [A, B] (fun l => mulR fmtF32 rm (unpack fmtF32 (x l)) (unpack fmtF32 (y l)))
    ∧ gives (.vfminF32 d a b) [A, B] (fun l => minC fmtF32 rm (x l) (y l))
    ∧ gives (.vfmaxF32 d a b) [A, B] (fun l => maxC fmtF32 rm (x l) (y l))
    ∧ gives (.vfabsF32 d a) [A] (fun l => signOp fmtF32 (x l) false)
    ∧ gives (.vfnegF32 d a) [A] (fun l => signOp fmtF32 (x l) (!(x l).testBit 31))
    ∧ gives (.vfcpsgnF32 d a b) [A, B] (fun l => signOp fmtF32 (x l) ((y l).testBit 31))
    ∧ gives (.vfmaF32 d a b c) [A, B, C]
        (fun l => fmaV fmtF32 rm (unpack fmtF32 (x l)) (unpack fmtF32 (y l)) (unpack fmtF32 (z l)))
    ∧ gives (.vrcp d a) [A] (fun l => sfu 0 (x l)) ∧ gives (.vrsq d a) [A] (fun l => sfu 1 (x l))
    ∧ gives (.vsqrt d a) [A] (fun l => sfu 2 (x l)) ∧ gives (.vexp2 d a) [A] (fun l => sfu 3 (x l))
    ∧ gives (.vlog2 d a) [A] (fun l => sfu 4 (x l)) ∧ gives (.vsint d a) [A] (fun l => sfu 5 (x l))
    ∧ gives (.vcost d a) [A] (fun l => sfu 6 (x l)) ∧ gives (.vtanh d a) [A] (fun l => sfu 7 (x l))
    ∧ gives (.vtab tid d a) [A] (fun l =>
        evalTable ((s.ctx s.warp.ctx).fnWord tid.toNat (s.banks.getLsbD tid.toNat)) (x l))

/-- For VFLT and VFMA on F16x2, B16x2 and F64 and for VCMUL.B16: with every name below VBND, no marker found and
no raised exception enabled, each half of an active lane of V[D] (each active lane of the pair, for F64) holds
the correctly rounded result of that element under FPMODE.RM, with FTZ16 acting on halves; the flags of all
elements are ORed into FPMODE; nothing else changes but the program counter. (R49, R50, R51, R52, R54, R141,
R147, R149, R150) -/
def Obligations.PairAndDoubleFloatResults : Prop :=
  (∀ (d a b : BitVec 6) (c : BitVec 5) (s : State),
    NamesBelow s [(d.toNat, 1), (a.toNat, 1), (b.toNat, 1), (c.toNat, 1)] →
    let env := s.snap.fpEnv; let A := s.srcV a.toNat; let B := s.srcV b.toNat; let C := s.srcV c.toNat
    let gives (fmt : Fmt) (i : Instr) (src : List Lanes) (f : Fin 32 → Nat → Rnd) : Prop :=
      let r (l : Fin 32) : Rnd :=
        let lo := ftzRes fmt env.ftz (f l 0); let hi := ftzRes fmt env.ftz (f l 1)
        ⟨lo.bits % 65536 + 65536 * (hi.bits % 65536), lo.flags ||| hi.flags⟩
      FpQuiet s src (raisedBy s r) →
        GivesVectors (exec i s) s s.snap.exec d.toNat 1 (fun _ l => BitVec.ofNat 32 (r l).bits) (raisedBy s r)
    let words (fmt : Fmt) (add sub mul mn mx fma : Instr) : Prop :=
      let x (l : Fin 32) (k : Nat) := halfVal fmt env A[l] k; let y (l : Fin 32) (k : Nat) := halfVal fmt env B[l] k
      gives fmt add [A, B] (fun l k => addV fmt env.rm (x l k) (y l k))
      ∧ gives fmt sub [A, B] (fun l k => addV fmt env.rm (x l k) (y l k).negate)
      ∧ gives fmt mul [A, B] (fun l k => mulR fmt env.rm (x l k) (y l k))
      ∧ gives fmt mn [A, B] (fun l k => minMaxV fmt false (x l k) (y l k) (halfCode fmt env A[l] k) (halfCode fmt env B[l] k))
      ∧ gives fmt mx [A, B] (fun l k => minMaxV fmt true (x l k) (y l k) (halfCode fmt env A[l] k) (halfCode fmt env B[l] k))
      ∧ gives fmt fma [A, B, C] (fun l k => fmaV fmt env.rm (x l k) (y l k) (halfVal fmt env C[l] k))
    words fmtF16 (.vfaddF16x2 d a b) (.vfsubF16x2 d a b) (.vfmulF16x2 d a b) (.vfminF16x2 d a b) (.vfmaxF16x2 d a b)
      (.vfmaF16x2 d a b c)
    ∧ words fmtB16 (.vfaddB16x2 d a b) (.vfsubB16x2 d a b) (.vfmulB16x2 d a b) (.vfminB16x2 d a b) (.vfmaxB16x2 d a b)
      (.vfmaB16x2 d a b c)
    ∧ let x (l : Fin 32) (k : Nat) := halfVal fmtB16 env A[l] k; let y (l : Fin 32) (k : Nat) := halfVal fmtB16 env B[l] k
      gives fmtB16 (.vcmulB16 d a b) [A, B] (fun l k =>
        if k = 0 then bracket fmtB16 env.rm true (x l 0) (y l 0) (x l 1) (y l 1)
        else bracket fmtB16 env.rm false (x l 0) (y l 1) (x l 1) (y l 0)))
  ∧ (∀ (d a b : BitVec 5) (c : BitVec 4) (s : State),
    NamesBelow s [(2 * d.toNat, 2), (2 * a.toNat, 2), (2 * b.toNat, 2), (2 * c.toNat, 2)] →
    let rm := s.snap.fpEnv.rm; let code (n : Nat) (l : Fin 32) : Nat := (pair (s.srcV (2 * n))[l] (s.srcV (2 * n + 1))[l]).toNat
    let src (n : Nat) : List Lanes := [s.srcV (2 * n), s.srcV (2 * n + 1)]
    let gives (i : Instr) (ms : List Lanes) (f : Fin 32 → Rnd) : Prop := FpQuiet s ms (raisedBy s f) →
      GivesVectors (exec i s) s s.snap.exec (2 * d.toNat) 2
        (fun k l => BitVec.ofNat 32 ((f l).bits / 2 ^ (32 * k))) (raisedBy s f)
    let x := code a.toNat; let y := code b.toNat; let z := code c.toNat; let v (n : Nat) := unpack fmtF64 n
    let two := src a.toNat ++ src b.toNat
    gives (.vfaddF64 d a b) two (fun l => addV fmtF64 rm (v (x l)) (v (y l)))
    ∧ gives (.vfsubF64 d a b) two (fun l => addV fmtF64 rm (v (x l)) (v (y l)).negate)
    ∧ gives (.vfmulF64 d a b) two (fun l => mulR fmtF64 rm (v (x l)) (v (y l)))
    ∧ gives (.vfminF64 d a b) two (fun l => minC fmtF64 rm (x l) (y l))
    ∧ gives (.vfmaxF64 d a b) two (fun l => maxC fmtF64 rm (x l) (y l))
    ∧ gives (.vfmaF64 d a b c) (two ++ src c.toNat) (fun l => fmaV fmtF64 rm (v (x l)) (v (y l)) (v (z l))))

/-- VCMP on I32 and N32 with a condition 0 to 5, and on F32 and F16x2 with any of the eight conditions, with its
names below VBND, no marker and no enabled exception raised, sets each active bit of P[PD] to the truth of its
condition on the lane (for F16x2, on both elements), keeps every inactive bit, raises only the flags of R151 and
changes nothing else but the program counter. (R52, R54, R98, R151) -/
def Obligations.ComparisonsWriteTheActiveBits : Prop :=
  ∀ (k p : BitVec 3) (a b : BitVec 6) (s : State), NamesBelow s [(a.toNat, 1), (b.toNat, 1)] →
    let A := s.srcV a.toNat; let B := s.srcV b.toNat; let env := s.snap.fpEnv; let c := k.toNat
    let gives (i : Instr) (f : Fin 32 → Bool) (fp : BitVec 5) : Prop := ∃ t, exec i s = .next t ∧ OnlyRegs s t
      ∧ t.warp.pc = s.warp.pc.next
      ∧ (∀ (n : Fin 8) (l : Fin 32), (t.warp.regs.p[n]).getLsbD l.val =
          if n.val = p.toNat ∧ s.snap.exec.getLsbD l.val = true then f l else (s.warp.regs.p[n]).getLsbD l.val)
      ∧ t.warp.regs = { s.warp.regs with
          p := t.warp.regs.p, fpmode := s.warp.regs.fpmode ||| (fp.setWidth 32) <<< 4 }
    let ints (i : Instr) (x y : Fin 32 → Int) : Prop :=
      (c = 0 → gives i (fun l => decide (x l = y l)) 0) ∧ (c = 1 → gives i (fun l => decide (x l ≠ y l)) 0)
      ∧ (c = 2 → gives i (fun l => decide (x l < y l)) 0) ∧ (c = 3 → gives i (fun l => decide (x l ≤ y l)) 0)
      ∧ (c = 4 → gives i (fun l => decide (y l < x l)) 0) ∧ (c = 5 → gives i (fun l => decide (y l ≤ x l)) 0)
    let fps (i : Instr) (f : Fin 32 → Bool × BitVec 5) : Prop :=
      let fl := raisedBy s fun l => ⟨0, (f l).2⟩
      FpQuiet s [A, B] fl → gives i (fun l => (f l).1) fl
    ints (.vcmpI32 k p a b) (fun l => A[l].toInt) (fun l => B[l].toInt)
    ∧ ints (.vcmpN32 k p a b) (fun l => A[l].toNat) (fun l => B[l].toNat)
    ∧ fps (.vcmpF32 k p a b) (fun l => cmpV c (unpack fmtF32 A[l].toNat) (unpack fmtF32 B[l].toNat))
    ∧ fps (.vcmpF16x2 k p a b) (fun l =>
        let e (h : Nat) := cmpV c (halfVal fmtF16 env A[l] h) (halfVal fmtF16 env B[l] h)
        ((e 0).1 && (e 1).1, (e 0).2 ||| (e 1).2))

/-- For each function of VCVT, with its names below VBND, no marker in an examined source and no enabled
exception raised, the active lanes of its destination hold the conversion of R152 of the source lanes: to F32,
F64 and integers of one source, or packed from the widened source register by register into halves, bytes or
nibbles; the flags of the active lanes are ORed into FPMODE, and nothing else changes but the program counter.
(R38, R49, R50, R52, R53, R54, R71, R152, R153, R475) -/
def Obligations.ConversionsRoundOnce : Prop :=
  (∀ (d a : BitVec 6) (s : State), NamesBelow s [(d.toNat, 1), (a.toNat, 1)] →
    let A := s.srcV a.toNat; let env := s.snap.fpEnv; let x (l : Fin 32) : Nat := A[l].toNat
    let v (l : Fin 32) := unpack fmtF32 (x l)
    let gives (i : Instr) (ms : List Lanes) (f : Fin 32 → Rnd) : Prop := FpQuiet s ms (raisedBy s f) →
      GivesVectors (exec i s) s s.snap.exec d.toNat 1 (fun _ l => BitVec.ofNat 32 (f l).bits) (raisedBy s f)
    gives (.vcvtF32I32 d a) [] (fun l => roundInt fmtF32 env.rm false A[l].toInt 0)
    ∧ gives (.vcvtF32N32 d a) [] (fun l => roundInt fmtF32 env.rm false A[l].toNat 0)
    ∧ gives (.vcvtI32F32 d a) [A] (fun l => cvtIntV 0 (-2147483648) 2147483647 (v l))
    ∧ gives (.vcvtI32F32Rz d a) [A] (fun l => cvtIntV 1 (-2147483648) 2147483647 (v l))
    ∧ gives (.vcvtN32F32 d a) [A] (fun l => cvtIntV 1 0 4294967295 (v l))
    ∧ gives (.vcvtF32F16 d a) [A] (fun l => roundV fmtF32 0 (halfVal fmtF16 env A[l] 0))
    ∧ gives (.vcvtF32F16h d a) [A] (fun l => roundV fmtF32 0 (halfVal fmtF16 env A[l] 1))
    ∧ gives (.vcvtF32B16 d a) [A] (fun l => roundV fmtF32 0 (halfVal fmtB16 env A[l] 0))
    ∧ gives (.vcvtF32B16h d a) [A] (fun l => roundV fmtF32 0 (halfVal fmtB16 env A[l] 1))
    ∧ gives (.vcvtL6F32 d a) [A] (fun l => cvtL6 s.logTab (v l))
    ∧ gives (.vcvtF32L6 d a) [] (fun l => roundV fmtF32 0 (l6Val s.logTab (x l % 64)))
    ∧ gives (.vcvtF32E4 d a) [] (fun l => roundV fmtF32 0 (unpack fmtE4 (x l % 256)))
    ∧ gives (.vcvtF32E5 d a) [] (fun l => roundV fmtF32 0 (unpack fmtE5 (x l % 256)))
    ∧ gives (.vcvtF32E2 d a) [] (fun l => roundV fmtF32 0 (unpack fmtE2 (x l % 16))))
  ∧ (∀ (d : BitVec 6) (a : BitVec 5) (s : State) (k n : Nat) (i : Instr) (f : FVal → Rnd) (base : Nat),
    let env := s.snap.fpEnv
    ((i = .vcvtF16x2F32 d a ∧ k = 2 ∧ n = 16 ∧ base = 2 * a.toNat ∧ f = fun v => ftzRes fmtF16 env.ftz (cvtV fmtF16 env.rm v))
      ∨ (i = .vcvtB16x2F32 d a ∧ k = 2 ∧ n = 16 ∧ base = 2 * a.toNat ∧ f = fun v => ftzRes fmtB16 env.ftz (cvtV fmtB16 env.rm v))
      ∨ (i = .vcvtE4x4F32 d (a.setWidth 4) ∧ k = 4 ∧ n = 8 ∧ base = 4 * (a.toNat % 16) ∧ f = fun v => cvtV fmtE4 env.rm v)
      ∨ (i = .vcvtE5x4F32 d (a.setWidth 4) ∧ k = 4 ∧ n = 8 ∧ base = 4 * (a.toNat % 16) ∧ f = fun v => cvtV fmtE5 env.rm v)
      ∨ (i = .vcvtE2x8F32 d (a.setWidth 3) ∧ k = 8 ∧ n = 4 ∧ base = 8 * (a.toNat % 8) ∧ f = fun v => cvtV fmtE2 env.rm v)) →
    NamesBelow s [(d.toNat, 1), (base, k)] →
    let e (j : Nat) (l : Fin 32) : Rnd := f (unpack fmtF32 ((s.srcV (base + j))[l]).toNat)
    let r (l : Fin 32) : Rnd := ⟨0, (List.range k).foldl (fun g j => g ||| (e j l).flags) 0⟩
    FpQuiet s ((List.range k).map fun j => s.srcV (base + j)) (raisedBy s r) →
    GivesVectors (exec i s) s s.snap.exec d.toNat 1
      (fun _ l => (List.range k).foldl (fun w j => w ||| BitVec.ofNat 32 ((e j l).bits * 2 ^ (n * j))) 0) (raisedBy s r))
  ∧ (∀ (d : BitVec 5) (a : BitVec 6) (s : State), NamesBelow s [(2 * d.toNat, 2), (a.toNat, 1)] →
    let f (l : Fin 32) : Rnd := roundV fmtF64 0 (unpack fmtF32 ((s.srcV a.toNat)[l]).toNat)
    FpQuiet s [s.srcV a.toNat] (raisedBy s f) →
    GivesVectors (exec (.vcvtF64F32 d a) s) s s.snap.exec (2 * d.toNat) 2
      (fun k l => BitVec.ofNat 32 ((f l).bits / 2 ^ (32 * k))) (raisedBy s f))
  ∧ (∀ (d : BitVec 6) (a : BitVec 5) (s : State), NamesBelow s [(d.toNat, 1), (2 * a.toNat, 2)] →
    let f (l : Fin 32) : Rnd := roundV fmtF32 s.snap.fpEnv.rm
      (unpack fmtF64 (pair (s.srcV (2 * a.toNat))[l] (s.srcV (2 * a.toNat + 1))[l]).toNat)
    FpQuiet s [s.srcV (2 * a.toNat), s.srcV (2 * a.toNat + 1)] (raisedBy s f) →
    GivesVectors (exec (.vcvtF32F64 d a) s) s s.snap.exec d.toNat 1 (fun _ l => BitVec.ofNat 32 (f l).bits) (raisedBy s f))

/-- RADD.F32, RMIN.F32 and RMAX.F32 write every lane of a partition with the value at the root of the fixed
binary tree over its active lanes, a NaN made canonical, or the identity of R158 where none is active, whatever
the EXEC pattern; SCANADD.F32 writes each active lane with its value after the steps d = 1, 2, 4 up to w/2. The
reductions raise the flags of the rounded steps and NV for a signalling source. (R52, R55, R56, R102, R158,
R159) -/
def Obligations.FloatReductionsFollowTheFixedTree : Prop :=
  ∀ (d a : BitVec 6) (s : State), NamesBelow s [(d.toNat, 1), (a.toNat, 1)] →
    let A := s.srcV a.toNat; let w := s.snap.width; let e := s.snap.exec; let ws := emptyBits s
    let leaf (k : Nat) : Option Nat := if e.getLsbD k then some ((A[k % 32]'(Nat.mod_lt _ (by decide))).toNat) else none
    let nan (c : Nat) : Nat := if (unpack fmtF32 c).isNan then 0x7FC00000 else c
    let snan : BitVec 5 := if ∃ l : Fin 32, e.getLsbD l.val = true ∧ (unpack fmtF32 A[l].toNat).isSnan = true then 1 else 0
    let red (i : Instr) (op : Nat → Nat → Rnd) (ident : Word) : Prop :=
      let fl := (List.range (32 / w)).foldl (fun f q => f ||| (treeOver op leaf (Nat.log2 w) (q * w)).2) snan
      FpQuiet s [A] fl →
      GivesVectors (exec i s) s 0xFFFFFFFF d.toNat 1 (fun _ l =>
        match (treeOver op leaf (Nat.log2 w) (l.val / w * w)).1 with
        | some c => BitVec.ofNat 32 (nan c)
        | none => ident) fl ws
    red (.raddF32 d a) (fun x y => addV fmtF32 s.snap.fpEnv.rm (unpack fmtF32 x) (unpack fmtF32 y)) 0x80000000
    ∧ red (.rminF32 d a) (minC fmtF32 0) 0x7F800000 ∧ red (.rmaxF32 d a) (maxC fmtF32 0) 0xFF800000
    ∧ ((s.snap.uninit = true → firstMarker e [A] = none) → s.snap.fpEnables = 0 → ∃ fl : BitVec 5,
        snan &&& fl = snan ∧
        GivesVectors (exec (.scanaddF32 d a) s) s e d.toNat 1 (fun _ l =>
          match scanOver (addC fmtF32 s.snap.fpEnv.rm) (fun k => leaf (l.val / w * w + k)) (Nat.log2 w) (l.val % w) with
          | some c => BitVec.ofNat 32 (nan c)
          | none => 0) fl ws)

/-- Rounding a magnitude to a multiple of 2^d: toward zero gives the largest multiple not above it; to nearest
gives a multiple at most half of 2^d away, the even one on a tie; up and down give the multiple next to it in
the direction of the mode for its sign; an exact multiple is never moved, and inexact is reported exactly where
the magnitude is no multiple. In the mode to nearest, the F32 sum, product and fused multiply-add of finite
codes are never a NaN, no finite code is nearer to the exact value than a finite result, NX is raised exactly
where the result is not exact, and an infinity comes only of an exact value half a last place or more past the
largest code. (R10, R48, R49, R52, R147, R150) -/
def Obligations.RoundingIsToTheNeighbourItsModeNames : Prop :=
  (∀ (rm : Nat) (neg : Bool) (m d : Nat), rm < 4 → 0 < d →
    let r := (roundMag rm neg m d false).1; let q := m / 2 ^ d
    ((roundMag rm neg m d false).2 = true ↔ ¬ 2 ^ d ∣ m)
    ∧ (2 ^ d ∣ m → r = q)
    ∧ (rm = 0 → 2 * (r * 2 ^ d) ≤ 2 * m + 2 ^ d ∧ 2 * m ≤ 2 * (r * 2 ^ d) + 2 ^ d
        ∧ (2 * (m % 2 ^ d) = 2 ^ d → r % 2 = 0))
    ∧ (rm = 1 → r = q)
    ∧ (¬ 2 ^ d ∣ m → (rm = 2 → r = if neg then q else q + 1) ∧ (rm = 3 → r = if neg then q + 1 else q)))
  ∧ (∀ x y w : Nat, let u (c : Nat) : Int := (unpack fmtF32 c).toUnits (-300)
    let finite (c : Nat) : Prop := c < 2 ^ 32 ∧ ∃ b m e, unpack fmtF32 c = .num b m e
    finite x → finite y →
      NearestF32 (addV fmtF32 0 (unpack fmtF32 x) (unpack fmtF32 y)) ((u x + u y) * 2 ^ 300)
      ∧ NearestF32 (mulR fmtF32 0 (unpack fmtF32 x) (unpack fmtF32 y)) (u x * u y)
      ∧ (finite w → NearestF32 (fmaV fmtF32 0 (unpack fmtF32 x) (unpack fmtF32 y) (unpack fmtF32 w)) (u x * u y + u w * 2 ^ 300)))

/-- On an F32 code, the eight functions give: for a NaN the canonical NaN with NV if it signals; for the zeros,
the infinities and the negative numbers what the table of R154 lists, with DZ at the poles and NV where the
function is invalid. Where 4x is an integer k, VSINT gives a zero with the sign of x for even k and ±1 for odd
k, and VCOST +0 for odd k and ±1 for even k, exactly. (R51, R154) -/
def Obligations.SpecialFunctionSpecialInputs : Prop :=
  let c (n : Nat) : Rnd := ⟨n, 0⟩; let nv : Rnd := ⟨0x7FC00000, 1⟩
  (∀ x < 2 ^ 32, ∀ fn < 8, ∀ b, unpack fmtF32 x = .nan b → sfu fn x = ⟨0x7FC00000, if b then 1 else 0⟩)
  ∧ sfu 0 0 = ⟨0x7F800000, 2⟩ ∧ sfu 0 0x80000000 = ⟨0xFF800000, 2⟩ ∧ sfu 0 0x7F800000 = c 0 ∧ sfu 0 0xFF800000 = c 0x80000000
  ∧ sfu 1 0 = ⟨0x7F800000, 2⟩ ∧ sfu 1 0x80000000 = ⟨0xFF800000, 2⟩ ∧ sfu 1 0x7F800000 = c 0
  ∧ sfu 2 0 = c 0 ∧ sfu 2 0x80000000 = c 0x80000000 ∧ sfu 2 0x7F800000 = c 0x7F800000
  ∧ sfu 3 0xFF800000 = c 0 ∧ sfu 3 0x7F800000 = c 0x7F800000 ∧ sfu 3 0 = c 0x3F800000 ∧ sfu 3 0x80000000 = c 0x3F800000
  ∧ sfu 4 0 = ⟨0xFF800000, 2⟩ ∧ sfu 4 0x80000000 = ⟨0xFF800000, 2⟩ ∧ sfu 4 0x7F800000 = c 0x7F800000 ∧ sfu 4 0x3F800000 = c 0
  ∧ (∀ fn ∈ [5, 6], sfu fn 0x7F800000 = nv ∧ sfu fn 0xFF800000 = nv)
  ∧ sfu 7 0 = c 0 ∧ sfu 7 0x80000000 = c 0x80000000 ∧ sfu 7 0x7F800000 = c 0x3F800000 ∧ sfu 7 0xFF800000 = c 0xBF800000
  ∧ (∀ x, ∀ fn ∈ [1, 2, 4], ∀ m e, unpack fmtF32 x = .num true m e → m ≠ 0 → sfu fn x = nv)
  ∧ (∀ x, ∀ fn ∈ [1, 2, 4], unpack fmtF32 x = .inf true → sfu fn x = nv)
  ∧ (∀ (x : Nat) (b : Bool) (m : Nat) (e : Int), unpack fmtF32 x = .num b m e →
    let d := (-(e + 2)).toNat; let t := m * 2 ^ (e + 2).toNat; let k := t / 2 ^ d
    2 ^ d ∣ t →
      (k % 2 = 0 → sfu 5 x = c (if b then 0x80000000 else 0))
      ∧ (k % 4 = 1 → sfu 5 x = c (if b then 0xBF800000 else 0x3F800000)) ∧ (k % 4 = 3 → sfu 5 x = c (if b then 0x3F800000 else 0xBF800000))
      ∧ (k % 2 = 1 → sfu 6 x = c 0) ∧ (k % 4 = 0 → sfu 6 x = c 0x3F800000) ∧ (k % 4 = 2 → sfu 6 x = c 0xBF800000))

/-- The byte laws of memory. What an unlisted byte reads as, 0, is the model's choice (log 1). (R8) -/
def Obligations.MemoryReadsWhatWasWritten : Prop :=
  (∀ (m : Memory) (a b : Nat) (x : Byte), (m.write a x).read b = if b = a then x else m.read b)
  ∧ (∀ (m : Memory) (a b : Nat) (bs : List Byte), (m.writeBytes a bs).read b =
      if a ≤ b ∧ b < a + bs.length then bs.getD (b - a) 0 else m.read b)
  ∧ (∀ (m : Memory) (a : Nat) (bs : List Byte), Memory.wf m = true → Memory.wf (m.writeBytes a bs) = true)
  ∧ (∀ m n : Memory, Memory.wf m = true → Memory.wf n = true → (∀ b, m.read b = n.read b) → m = n)

/-- Writing the n bytes of a number and reading n bytes back gives the number modulo 256^n, and the byte at
offset i is its bits 8i+7 to 8i. (R8) -/
def Obligations.WordsAreLittleEndian : Prop :=
  ∀ (m : Memory) (a n x : Nat), (m.writeBytes a (bytesOfNat n x)).readNat a n = x % 256 ^ n
    ∧ ∀ i < n, ((m.writeBytes a (bytesOfNat n x)).read (a + i)).toNat = x / 256 ^ i % 256

/-- In an unchecked grid with nothing holding memory words back, with room in L, names below VBND, EXEC not 0,
and every active lane's address aligned and placed, in the global window, own or peer scratch or the private
window, VLD of each size, plain or acquire, and SLD, but for the private window, complete at issue: one
outstanding load of those lanes and places, a wide private one word by word, follows the others, L is raised by
1, no destination is written yet, and memory is unchanged. With EXEC 0 a VLD makes no access and changes no
counter. VLD.32 on a FIFO segment takes its head entry for the lanes, or parks where it is empty. (R118, R202,
R203, R204, R206, R211, R212, R280, R282, R283, R284, R427) -/
def Obligations.LoadsJoinTheOutstandingOperations : Prop :=
  (∀ (z : BitVec 3) (o : BitVec 1) (w : BitVec 2) (d a : BitVec 6) (b : BitVec 4) (h : BitVec 2) (s : State) (pl : Nat × Nat → List Piece),
    let n := sizeBytes z.toNat; let ls := laneAddrs s b a; let c := s.warp.regs.cnt
    z.toNat ≠ 7 → w.toNat = sizeW z.toNat → NamesBelow s [(d.toNat, 2 ^ w.toNat), (a.toNat, 1)] → MemoryFree s →
    (s.snap.exec ≠ 0 → c.l ≠ 63 → (∀ l ∈ ls, LanePlaced s .read n l (pl l)) →
      Joins (exec (.vld z o w d a b h) s) s { c with l := c.l + 1 } fun x =>
        x.kind = .load z.toNat d.toNat h.toNat ∧ x.acquire = decide (o = 1)
        ∧ x.lanes = laneAccs (ls.map fun l => (l.1, pl l)) fun _ => [])
    ∧ (s.snap.exec = 0 → o = 0 → FallsThrough (exec (.vld z o w d a b h) s) s))
  ∧ (∀ (d : BitVec 5) (a : BitVec 4) (i : BitVec 15) (s : State) (p : Piece),
    let va := (s.srcPair a + BitVec.ofInt 64 i.toInt).toNat; let c := s.warp.regs.cnt
    MemoryFree s → c.l ≠ 63 → va < 0x000F800000000000 → LanePlaced s .read 4 (0, va) [p] →
      Joins (exec (.sld d a i) s) s { c with l := c.l + 1 } fun x =>
        x.kind = .sload d.toNat ∧ x.acquire = false ∧ x.lanes = [{ lane := 0, va := va, pieces := [p] }])
  ∧ (∀ (o : BitVec 1) (d a : BitVec 6) (b : BitVec 4) (h : BitVec 2) (s : State) (seg : Nat),
    let ls := laneAddrs s b a; let c := s.warp.regs.cnt; let i := Instr.vld 2 o 0 d a b h
    let fifo (t : State) : List Lanes := (t.segment (s.gang s.warp.gang).cluster seg).fifo
    NamesBelow s [(d.toNat, 1), (a.toNat, 1)] → MemoryFree s → s.snap.exec ≠ 0 → c.l ≠ 63 → OnFifo s ls seg → s.warp.out = [] →
    (∀ k ∈ s.ctxs, k.2.alog = []) →
    (fifo s = [] → exec i s = s.parkAtIssue (.fifo seg))
    ∧ (∀ e es, fifo s = e :: es → ∃ t x, exec i s = .next t ∧ fifo t = es ∧ t.warp.out = [x] ∧ x.kind = .load 2 d.toNat h.toNat
        ∧ x.lanes = [] ∧ x.got = ls.map (fun l => (4 * l.1, [laneAt e l.1])) ∧ x.due = ls.map (fun l => 4 * l.1)
        ∧ t.warp.regs = { s.warp.regs with cnt := { c with l := c.l + 1 } } ∧ t.warp.pc = s.warp.pc.next
        ∧ t.mem = s.mem ∧ t.sram = s.sram))

/-- Under the like conditions, VST of each size, plain or release, and SST complete at issue: one outstanding
store follows the others with each active lane's place and its data words as the registers stood before the
group, cut to the size; S is raised by 1, and no byte of memory changes before the store is performed. With EXEC
0 a plain VST makes no access and changes no counter. VST.32 on a FIFO segment joins as a release, and waits at
issue while the segment holds 2,048 entries. (R68, R118, R202, R203, R204, R206, R211, R212, R280, R282, R283,
R427) -/
def Obligations.StoresJoinTheOutstandingOperations : Prop :=
  (∀ (z : BitVec 3) (o : BitVec 1) (w : BitVec 2) (d a : BitVec 6) (b : BitVec 4) (h : BitVec 2) (s : State) (pl : Nat × Nat → List Piece),
    let n := sizeBytes z.toNat; let ls := laneAddrs s b a; let c := s.warp.regs.cnt
    z.toNat ≤ 4 → w.toNat = sizeW z.toNat → NamesBelow s [(d.toNat, 2 ^ w.toNat), (a.toNat, 1)] → MemoryFree s →
    (s.snap.exec ≠ 0 → c.s ≠ 63 → (∀ l ∈ ls, LanePlaced s .write n l (pl l)) →
      Joins (exec (.vst z o w d a b h) s) s { c with s := c.s + 1 } fun x =>
        x.kind = .store z.toNat h.toNat ∧ x.release = decide (o = 1)
        ∧ x.lanes = laneAccs (ls.map fun l => (l.1, pl l)) fun l => (List.range (sizeWords z.toNat)).map fun k =>
            cutWord z.toNat (laneAt (s.srcV (d.toNat + k)) l))
    ∧ (s.snap.exec = 0 → o = 0 → FallsThrough (exec (.vst z o w d a b h) s) s))
  ∧ (∀ (d : BitVec 5) (a : BitVec 4) (i : BitVec 15) (s : State) (p : Piece),
    let va := (s.srcPair a + BitVec.ofInt 64 i.toInt).toNat; let c := s.warp.regs.cnt
    MemoryFree s → c.s ≠ 63 → va < 0x000F800000000000 → LanePlaced s .write 4 (0, va) [p] →
      Joins (exec (.sst d a i) s) s { c with s := c.s + 1 } fun x =>
        x.kind = .sstore ∧ x.release = false ∧ x.lanes = [{ lane := 0, va := va, pieces := [p], data := [s.srcS d] }])
  ∧ (∀ (o : BitVec 1) (d a : BitVec 6) (b : BitVec 4) (h : BitVec 2) (s : State) (seg : Nat),
    let ls := laneAddrs s b a; let c := s.warp.regs.cnt; let i := Instr.vst 2 o 0 d a b h; let cl := (s.gang s.warp.gang).cluster
    NamesBelow s [(d.toNat, 1), (a.toNat, 1)] → MemoryFree s → s.snap.exec ≠ 0 → c.s ≠ 63 → OnFifo s ls seg →
    (2048 ≤ (s.segment cl seg).fifo.length → exec i s = s.stall)
    ∧ ((s.segment cl seg).fifo.length < 2048 → Joins (exec i s) s { c with s := c.s + 1 } fun x =>
        x.kind = .store 2 h.toNat ∧ x.push = true ∧ x.release = true
        ∧ x.lanes = ls.map fun l => { lane := l.1, va := l.2, pieces := [⟨.fifo cl seg, l.2, 4⟩], data := [laneAt (s.srcV d.toNat) l.1] }))

/-- In an unchecked grid with nothing holding memory words back, with names below VBND, EXEC not 0, room in the
counter and every active lane's address aligned to its word and placed for writing, in the global window or in
own or peer scratch, each of the fifteen VATOM functions with H = 0 or H = 1 completes at issue with one
outstanding atomic that carries each lane's operand words; with H = 2 so does one whose redirect words name
clusters below 192, and each of its lanes then has the slot and the object of its redirect word to come. A is
raised by 1 for H = 0 and S for the others; memory is unchanged. (R202, R203, R204, R279, R280, R285, R286,
R287, R427) -/
def Obligations.AtomicsJoinTheOutstandingOperations : Prop :=
  ∀ (d a : BitVec 6) (e : BitVec 5) (b : BitVec 4) (h : BitVec 2) (s : State) (pl : Nat × Nat → Piece),
    let ls := laneAddrs s b a; let c := s.warp.regs.cnt
    let up : Counters := if h = 0 then { c with a := c.a + 1 } else { c with s := c.s + 1 }
    let joins (fn : Nat) (i : Instr) (r k n : Nat) : Prop :=
      NamesBelow s ([(r, k), (a.toNat, 1)] ++ if h = 2 then [(r + k, 1)] else []) → (∀ l ∈ ls, l.2 < 0x000F800000000000 ∧ LanePlaced s .write n l [pl l]) →
      (h = 2 → ∀ l : Fin 32, s.snap.exec.getLsbD l.val = true → ((s.srcV (r + k))[l]).toNat / 2 ^ 23 < 192) →
      Joins (exec i s) s up fun x => x.kind = .atom fn h.toNat r
        ∧ x.lanes = ls.map fun l =>
          { lane := l.1, va := l.2, pieces := [pl l]
            data := (List.range k).map fun j => laneAt (s.srcV (r + j)) l.1
            redirect := if h = 2 then laneAt (s.srcV (r + k)) l.1 else 0
            after := if h = 2 then redirectTo s fn (laneAt (s.srcV (r + k)) l.1) else [] }
    MemoryFree s → s.snap.exec ≠ 0 → h ≠ 3 → (if h = 0 then c.a ≠ 63 else c.s ≠ 63) →
    joins 0 (.vatomAddI32 d a b h) d.toNat 1 4 ∧ joins 1 (.vatomAddF32 d a b h) d.toNat 1 4
    ∧ joins 2 (.vatomAddB16x2 d a b h) d.toNat 1 4 ∧ joins 3 (.vatomMinI32 d a b h) d.toNat 1 4
    ∧ joins 4 (.vatomMaxI32 d a b h) d.toNat 1 4 ∧ joins 5 (.vatomMinN32 d a b h) d.toNat 1 4
    ∧ joins 6 (.vatomMaxN32 d a b h) d.toNat 1 4 ∧ joins 7 (.vatomAnd d a b h) d.toNat 1 4
    ∧ joins 8 (.vatomOr d a b h) d.toNat 1 4 ∧ joins 9 (.vatomXor d a b h) d.toNat 1 4
    ∧ joins 10 (.vatomXchg d a b h) d.toNat 1 4 ∧ joins 11 (.vatomCas e a b h) (2 * e.toNat) 2 4
    ∧ joins 12 (.vatomIncw d a b h) d.toNat 1 4 ∧ joins 13 (.vatomDecw d a b h) d.toNat 1 4
    ∧ joins 14 (.vatomAddI64 e a b h) (2 * e.toNat) 2 8

/-- With nothing holding memory words back, room in the counter and names below VBND: a VLD or VST one of whose
active lanes lies in no window, or spans two, raises ADDRESS_WINDOW with the address of the lowest such lane;
with every lane in the global window, one misaligned for its size raises MISALIGNED with the address of the
lowest such lane. With every lane in own scratch, one that reaches a segment not claimed or in CACHE mode raises
SCRATCH_RANGE with the offset, and else any other than an aligned word in a FIFO segment FIFO_ACCESS; with every
lane private, a misaligned one raises MISALIGNED and one past the lane's area STACK_LIMIT with its last offset
and lane. SLD and SST with a misaligned address raise MISALIGNED, an aligned one in the private window
PRIVATE_SCALAR, and one in own scratch SCRATCH_RANGE or FIFO_ACCESS likewise. The trap is all that happens: no
lane is performed. What detail words the spec does not state are free (log 4). (R118, R137, R202, R203, R206,
R211, R280) -/
def Obligations.AccessChecksTrapInTheirOrder : Prop :=
  (∀ (z : BitVec 3) (o : BitVec 1) (w : BitVec 2) (d a : BitVec 6) (b : BitVec 4) (h : BitVec 2) (s : State) (l : Fin 32),
    let n := sizeBytes z.toNat
    let va (k : Fin 32) : Nat := (s.srcPair b + ((s.srcV a.toNat)[k]).setWidth 64).toNat
    let lowest (bad : Nat → Prop) : Prop := s.snap.exec.getLsbD l.val = true ∧ bad (va l)
      ∧ ∀ k : Fin 32, k.val < l.val → s.snap.exec.getLsbD k.val = true → ¬ bad (va k)
    z.toNat ≠ 7 → NamesBelow s [(d.toNat, 2 ^ w.toNat), (a.toNat, 1)] → memoryBlocked s = false →
    s.warp.regs.cnt.l ≠ 63 → s.warp.regs.cnt.s ≠ 63 →
    (lowest (fun v => inOneWindow v n = false) → ∀ i ∈ ([.vld z o w d a b h, .vst z o w d a b h] : List Instr),
      Traps (exec i s) (s.tick 2) 27 (BitVec.ofNat 32 (va l)) (BitVec.ofNat 32 (va l / 2 ^ 32)))
    ∧ ((∀ k : Fin 32, s.snap.exec.getLsbD k.val = true → va k + n ≤ 0x000F000000000000) →
      lowest (fun v => v % n ≠ 0) → ∀ i ∈ ([.vld z o w d a b h, .vst z o w d a b h] : List Instr),
      Traps (exec i s) (s.tick 2) 13 (BitVec.ofNat 32 (va l)) (BitVec.ofNat 32 (va l / 2 ^ 32)))
    ∧ ((∀ k : Fin 32, s.snap.exec.getLsbD k.val = true → 0x000F000000000000 ≤ va k ∧ va k + n ≤ 0x000F000000800000) →
      let closed (v : Nat) : Prop := ∃ j < n, s.ownMode (v + j - 0x000F000000000000) ∈ [none, some .cache]
      (lowest closed → ∀ i ∈ ([.vld z o w d a b h, .vst z o w d a b h] : List Instr),
        ∃ x, Traps (exec i s) (s.tick 2) 28 (BitVec.ofNat 32 (va l - 0x000F000000000000)) x)
      ∧ ((∀ k : Fin 32, s.snap.exec.getLsbD k.val = true → ¬ closed (va k) ∧ va k % n = 0) → z ≠ 2 →
        lowest (fun v => s.ownMode (v - 0x000F000000000000) = some .fifo) →
        ∀ i ∈ ([.vld z o w d a b h, .vst z o w d a b h] : List Instr), ∃ x y, Traps (exec i s) (s.tick 2) 31 x y))
    ∧ ((∀ k : Fin 32, s.snap.exec.getLsbD k.val = true → 0x000F800000000000 ≤ va k ∧ va k + n ≤ 0x000F800100000000) →
      let off (v : Nat) : Nat := v - 0x000F800000000000
      lowest (fun v => off v % min n 4 ≠ 0 ∨ s.warp.privSize < off v + n) →
      ∀ i ∈ ([.vld z o w d a b h, .vst z o w d a b h] : List Instr),
        if off (va l) % min n 4 ≠ 0 then Traps (exec i s) (s.tick 2) 13 (BitVec.ofNat 32 (va l)) (BitVec.ofNat 32 (va l / 2 ^ 32))
        else Traps (exec i s) (s.tick 2) 29 (BitVec.ofNat 32 (off (va l) + n - 1)) (BitVec.ofNat 32 l.val)))
  ∧ (∀ (d : BitVec 5) (a : BitVec 4) (i : BitVec 15) (s : State),
    let va := (s.srcPair a + BitVec.ofInt 64 i.toInt).toNat
    memoryBlocked s = false → s.warp.regs.cnt.l ≠ 63 → s.warp.regs.cnt.s ≠ 63 →
    ∀ j ∈ ([.sld d a i, .sst d a i] : List Instr),
      (va % 4 ≠ 0 → Traps (exec j s) s 13 (BitVec.ofNat 32 va) (BitVec.ofNat 32 (va / 2 ^ 32 % 2 ^ 20)))
      ∧ (va % 4 = 0 → 0x000F800000000000 ≤ va → va < 0x000F800100000000 →
          Traps (exec j s) s 14 (BitVec.ofNat 32 va) (BitVec.ofNat 32 (va / 2 ^ 32 % 2 ^ 20)))
      ∧ (va % 4 = 0 → 0x000F000000000000 ≤ va → va < 0x000F000000800000 →
          (s.ownMode (va - 0x000F000000000000) ∈ [none, some .cache] →
            ∃ x, Traps (exec j s) (s.tick 2) 28 (BitVec.ofNat 32 (va - 0x000F000000000000)) x)
          ∧ (s.ownMode (va - 0x000F000000000000) = some .fifo → ∃ x y, Traps (exec j s) (s.tick 2) 31 x y)))

/-- When an outstanding VLD of lanes placed in memory or scratch may be performed and its reader holds a token
with data for each of its lines, LOAD_RETURN writes, in each of its lanes, word i of the bytes at the lane's
place to V[D+i], zero- or sign-extended as its size says, of a wide private load each word from its own place;
every other lane and register keeps its bits; L falls by 1, the load is no longer outstanding, and every byte of
memory is as it was. An SLD writes its one scalar, and a pop its entry, likewise. (R118, R204, R206, R211, R229,
R262, R265, R282, R283, R427) -/
def Obligations.LoadReturnWritesTheLanesRead : Prop :=
  (∀ (s : State) (k : Nat) (x : Access), MayPerform s k x → s.warp.arriving = false → InPlace s x →
    LinesHeld s (s.warp.user x) false (physLines x.lanes) →
    (∀ (z d h : Nat) (ls : List (Nat × Nat)) (loc : Nat → Nat → Loc), x.kind = .load z d h → z ≠ 7 → (ls.map (·.1)).Nodup →
      (∀ l ∈ ls, l.1 < 32) → ls ≠ [] → (∀ l i, (loc l i).solid) →
      (x.lanes = ls.map (fun l => { lane := l.1, va := l.2, pieces := [⟨loc l.1 0, l.2, sizeBytes z⟩] })
        ∧ (∀ l i j, (loc l i).byte j = (loc l 0).byte (4 * i + j))
      ∨ 1 < sizeWords z ∧ ∃ va : Nat → Nat → Nat, x.lanes = ls.flatMap (fun l => (List.range (sizeWords z)).map fun i =>
          { lane := l.1, part := i, va := va l.1 i, pieces := [⟨loc l.1 i, va l.1 i, 4⟩] })) →
      ∃ t, exec .evLoadReturn s = .next t
        ∧ (∀ i < sizeWords z, ∀ l : Fin 32, (∃ v, (l.val, v) ∈ ls) → (t.warp.regs.entry (d + i))[l]
            = extendWord z (BitVec.ofNat 32 (s.numAt (loc l.val i) 0 (min 4 (sizeBytes z)))))
        ∧ (∀ (n : Nat) (l : Fin 32), ¬ (d ≤ n ∧ n < d + sizeWords z ∧ ∃ v, (l.val, v) ∈ ls) →
            (t.warp.regs.entry n)[l] = (s.warp.regs.entry n)[l])
        ∧ t.warp.regs = { s.warp.regs with
            win := t.warp.regs.win, cnt := { s.warp.regs.cnt with l := s.warp.regs.cnt.l - 1 } }
        ∧ t.warp.out = pruneFences (s.warp.out.eraseIdx k) ∧ t.mem = s.mem ∧ t.sram = s.sram)
    ∧ (∀ (d va : Nat) (p : Loc) (hd : d < 32), x.kind = .sload d → p.solid →
      x.lanes = [{ lane := 0, va := va, pieces := [⟨p, va, 4⟩] }] →
      ∃ t, exec .evLoadReturn s = .next t
        ∧ t.warp.regs = { s.warp.regs with
            s := s.warp.regs.s.set d (BitVec.ofNat 32 (s.numAt p 0 4)) hd
            cnt := { s.warp.regs.cnt with l := s.warp.regs.cnt.l - 1 } }
        ∧ t.warp.out = pruneFences (s.warp.out.eraseIdx k) ∧ t.mem = s.mem ∧ t.sram = s.sram))
  ∧ (∀ (s : State) (k d h : Nat) (e : Lanes) (ls : List Nat) (x : Access), s.warp.out[k]? = some x → x.kind = .load 2 d h → x.lanes = [] →
    x.got = ls.map (fun l => (4 * l, [laneAt e l])) → x.due = ls.map (fun l => 4 * l) → ls.Nodup → (∀ l ∈ ls, l < 32) → x.logIdx = none →
    s.warp.arriving = false → s.ev.k = k → s.ev.b = false →
    ∃ t, exec .evLoadReturn s = .next t
      ∧ (∀ (n : Nat) (l : Fin 32), (t.warp.regs.entry n)[l] = if n = d ∧ l.val ∈ ls then e[l] else (s.warp.regs.entry n)[l])
      ∧ t.warp.regs = { s.warp.regs with
          win := t.warp.regs.win, cnt := { s.warp.regs.cnt with l := s.warp.regs.cnt.l - 1 } }
      ∧ t.warp.out = pruneFences (s.warp.out.eraseIdx k) ∧ t.mem = s.mem ∧ t.sram = s.sram)

/-- When an outstanding store of lanes, or words of private lanes, placed in memory or scratch may be performed
and its writer holds all the tokens of each of its lines, STORE_PERFORMED leaves each byte that some lane covers
with the data byte of the highest-numbered lane that covers it, and every other byte of memory and scratch as it
was; S falls by 1 and the store is no longer outstanding. A held store that waits does the same on HELD_STORE. A
push on a FIFO with room enters one entry behind the others, of the active lanes' words and 0. (R206, R210,
R211, R212, R229, R265, R283, R328, R427) -/
def Obligations.StorePerformedWritesExactlyItsBytes : Prop :=
  ∀ (s : State) (k : Nat) (x : Access) (held : Bool), s.warp.out[k]? = some { x with waits := held } →
    MayPerform { s with warp := { s.warp with out := s.warp.out.set k x } } k x → s.warp.arriving = false → InPlace s x →
    LinesHeld s (s.warp.user x) true (physLines x.lanes) →
    (∀ (ls : List (Nat × Nat × Nat × Loc × List Word)) (n : Nat), (x.kind = .sstore ∨ ∃ z h, x.kind = .store z h) →
      let key (l : Nat × Nat × Nat × Loc × List Word) : Nat := 4 * l.1 + l.2.1
      let at_ (l : Nat × Nat × Nat × Loc × List Word) (j : Nat) : Nat × Nat := l.2.2.2.1.byte j
      x.lanes = ls.map (fun l =>
        { lane := l.1, part := l.2.1, va := l.2.2.1, pieces := [⟨l.2.2.2.1, l.2.2.1, n⟩], data := l.2.2.2.2 }) →
      (∀ l ∈ ls, l.2.1 < 4 ∧ l.2.2.2.1.solid ∧ n ≤ 4 * l.2.2.2.2.length) → ls.Pairwise (fun l m => key l < key m) →
      ∃ t, exec (if held then .evHeldStore else .evStorePerformed) s = .next t
        ∧ (∀ b, (∀ l ∈ ls, ∀ j < n, at_ l j ≠ b) → t.byteOf b = s.byteOf b)
        ∧ (∀ l ∈ ls, ∀ j < n, (∀ m ∈ ls, key l < key m → ∀ i < n, at_ m i ≠ at_ l j) →
            t.byteOf (at_ l j) = ((l.2.2.2.2.getD (j / 4) 0) >>> (8 * (j % 4))).setWidth 8)
        ∧ t.warp.regs.cnt.s = s.warp.regs.cnt.s - 1
        ∧ t.warp.out = pruneFences (s.warp.out.eraseIdx k) ∧ ((∀ l ∈ ls, ∃ a, l.2.2.2.1 = .phys a) → t.sram = s.sram))
    ∧ (∀ (ls : List (Nat × Nat × Word)) (h cl seg : Nat), x.kind = .store 2 h → x.push = true → ls ≠ [] →
      x.lanes = ls.map (fun l => { lane := l.1, va := l.2.1, pieces := [⟨.fifo cl seg, l.2.1, 4⟩], data := [l.2.2] }) →
      (∀ l ∈ ls, l.1 < 32) → (ls.map (·.1)).Nodup → (s.segment cl seg).mode = .fifo → (s.segment cl seg).fifo.length < 2048 →
      ∃ t e, exec (if held then .evHeldStore else .evStorePerformed) s = .next t
        ∧ (t.segment cl seg).fifo = (s.segment cl seg).fifo ++ [e]
        ∧ (∀ l : Fin 32, e[l] = ((ls.find? fun q => q.1 == l.val).map fun q => q.2.2).getD 0)
        ∧ t.warp.regs.cnt.s = s.warp.regs.cnt.s - 1 ∧ t.warp.out = pruneFences (s.warp.out.eraseIdx k)
        ∧ t.mem = s.mem ∧ t.sram = s.sram)

/-- When an outstanding VATOM of lanes placed in memory or scratch may be performed and its writer holds all the
tokens of each of its lines, ATOMIC_RETURN performs the RMW of every lane: with H = 0 or 1 the atomic is then no
longer outstanding and A or S falls by 1, and with H = 2 the slot writes and the arrivals of its lanes remain. A
32-bit function of one lane on the module's memory or on scratch leaves there the new value of R285 of the old
value and the operand (the old value, for a CAS whose comparison fails), ADD.I64 the 64-bit sum, and no other
byte of memory changes; with H = 0, V[D] of the lane receives the old value, and no other register changes. Two
lanes of ADD.I32 on one word add both operands, and the second returns the sum that the first has left. (R204,
R229, R271, R285, R286, R287, R288, R289, R427) -/
def Obligations.AtomicReturnUpdatesTheWordOnce : Prop :=
  ∀ (s : State) (k fn h d : Nat) (x : Access), MayPerform s k x → s.warp.arriving = false → InPlace s x →
    LinesHeld s (s.warp.user x) true (physLines x.lanes) → x.kind = .atom fn h d →
    let own (p : Loc) (n : Nat) : Prop := p.solid ∧ ∀ a, p = .phys a → a + n ≤ 2 ^ 42
    (x.lanes ≠ [] → (x.lanes.map (·.lane)).Nodup → (∀ l ∈ x.lanes, l.lane < 32 ∧ l.part = 0 ∧ ∃ p, l.pieces = [p] ∧ p.loc.solid) →
      let keeps (t : State) : Prop := (∀ l ∈ x.lanes, ∀ p ∈ l.pieces, ∃ a, p.loc = .phys a) → t.sram = s.sram
      ((∀ l ∈ x.lanes, l.after = []) → ∃ t, exec .evAtomicReturn s = .next t
        ∧ t.warp.out = pruneFences (s.warp.out.eraseIdx k) ∧ keeps t
        ∧ t.warp.regs.cnt = (if h = 0 then { s.warp.regs.cnt with a := s.warp.regs.cnt.a - 1 }
            else { s.warp.regs.cnt with s := s.warp.regs.cnt.s - 1 }))
      ∧ (h = 2 → (∀ l ∈ x.lanes, l.after.length = 2) → ∃ t got, exec .evAtomicReturn s = .next t
        ∧ t.warp.out = pruneFences (s.warp.out.modify k fun a =>
            { a with lanes := x.lanes.map fun l => { l with stage := 1 }, got := got })
        ∧ t.warp.regs = s.warp.regs ∧ keeps t))
    ∧ (∀ (l : Fin 32) (va : Nat) (p : Loc) (v sw : Word), fn < 14 → h < 2 → own p 4 →
      x.lanes = [{ lane := l.val, va := va, pieces := [⟨p, va, 4⟩], data := [v, sw] }] →
      let m := s.numAt p 0 4
      ∃ t, exec .evAtomicReturn s = .next t
        ∧ t.numAt p 0 4 = ((atomOp fn m v.toNat sw.toNat).getD m) % 2 ^ 32
        ∧ SameOutside s t p 4
        ∧ (∀ (n : Nat) (j : Fin 32), (t.warp.regs.entry n)[j]
            = if h = 0 ∧ n = d ∧ j = l then BitVec.ofNat 32 m else (s.warp.regs.entry n)[j])
        ∧ t.warp.regs = { s.warp.regs with win := t.warp.regs.win, cnt := t.warp.regs.cnt })
    ∧ (∀ (l : Fin 32) (va : Nat) (p : Loc) (lo hi : Word), fn = 14 → h < 2 → own p 8 →
      x.lanes = [{ lane := l.val, va := va, pieces := [⟨p, va, 8⟩], data := [lo, hi] }] →
      let m := s.numAt p 0 8
      ∃ t, exec .evAtomicReturn s = .next t
        ∧ t.numAt p 0 8 = (m + (hi.toNat * 2 ^ 32 + lo.toNat)) % 2 ^ 64 ∧ SameOutside s t p 8
        ∧ (h = 0 → (t.warp.regs.entry d)[l] = BitVec.ofNat 32 m
          ∧ (t.warp.regs.entry (d + 1))[l] = BitVec.ofNat 32 (m / 2 ^ 32)))
    ∧ (∀ (l j : Fin 32) (va : Nat) (p : Loc) (v u : Word), own p 4 → fn = 0 → h = 0 → l < j →
      x.lanes = [{ lane := l.val, va := va, pieces := [⟨p, va, 4⟩], data := [v] },
        { lane := j.val, va := va, pieces := [⟨p, va, 4⟩], data := [u] }] →
      let m := BitVec.ofNat 32 (s.numAt p 0 4)
      ∃ t, exec .evAtomicReturn s = .next t
        ∧ BitVec.ofNat 32 (t.numAt p 0 4) = m + v + u ∧ SameOutside s t p 4
        ∧ (t.warp.regs.entry d)[l] = m ∧ (t.warp.regs.entry d)[j] = m + v
        ∧ t.warp.regs.cnt.a = s.warp.regs.cnt.a - 1)

/-- In an unchecked grid with nothing outstanding, and with the word's line held by the pool of the warp's die,
MWAIT on an aligned, translated word of the module's memory goes on at the next slot with S[SD] holding the word
where its condition holds of it, A as it was; else it parks with its record armed, A one higher and S[SD]
unchanged. MONITOR_POLL of such a warp, not held, wakes it with S[SD] the word and A one lower where the
condition then holds, and leaves it parked where it does not. No byte of memory changes. (R229, R252, R253,
R254, R292, R427) -/
def Obligations.MonitorsWakeWhenTheirConditionHolds : Prop :=
  (∀ (f : BitVec 4) (d a : BitVec 5) (b : BitVec 4) (s : State) (pa : Nat),
    let va := (s.srcPair b).toNat; let v := BitVec.ofNat 32 (s.mem.readNat pa 4); let r := s.warp.regs
    let holds : Bool := match f.toNat with
      | 0 => decide (v = s.srcS a)
      | 1 => decide (v ≠ s.srcS a)
      | 2 => decide (v.toInt < (s.srcS a).toInt)
      | 3 => decide ((s.srcS a).toInt ≤ v.toInt)
      | 4 => decide (v.toNat < (s.srcS a).toNat)
      | _ => decide ((s.srcS a).toNat ≤ v.toNat)
    f.toNat ≤ 5 → s.snap.chkrole = 0 → r.chkrole = 0 → s.warp.out = [] → memoryBlocked s = false → r.cnt.a ≠ 63 →
    va + 4 ≤ 0x000F000000000000 → va % 4 = 0 → s.translate s.warp.ctx va .read = .phys pa → pa < 2 ^ 42 →
    s.warp.held = false → (s.ctx s.warp.ctx).injectionStopped = false →
    LinesHeld s (stackUser s.warp.die s.warp.ctx) false (linesOf pa 4) →
    ∃ t, exec (.mwait f d a b) s = .next t ∧ t.warp.pc = s.warp.pc.next
      ∧ (∀ x, t.mem.read x = s.mem.read x) ∧ (∀ x, t.sram.read x = s.sram.read x)
      ∧ (holds = true → t.warp.park = .ready ∧ t.warp.regs = { r with s := r.s.set d.toNat v d.isLt })
      ∧ (holds = false → t.warp.park = .monitor pa f.toNat (s.srcS a) d.toNat (recordsFull s pa)
          ∧ t.warp.regs = { r with cnt := { r.cnt with a := r.cnt.a + 1 } }))
  ∧ (∀ (s : State) (p c d : Nat) (x : Word) (pl : Bool) (hd : d < 32),
    s.warp.park = .monitor p c x d pl → s.warp.held = false → s.warp.regs.chkrole = 0 →
    LinesHeld s (stackUser s.warp.die s.warp.ctx) false (linesOf p 4) →
    let v := BitVec.ofNat 32 (s.mem.readNat p 4); let r := s.warp.regs
    ∃ t, exec .evMonitorPoll s = .next t ∧ t.mem = s.mem ∧ t.sram = s.sram ∧ t.others = s.others
      ∧ t.warp = if condHolds c v x then { s.warp with
          park := .ready
          regs := { r with s := r.s.set d v hd, cnt := { r.cnt with a := r.cnt.a - 1 } } } else s.warp)

/-- NOP only moves on. SIGCHK with CFSIG[19:0] equal to its immediate sets CFSIG to 0 and else raises
SIGNATURE_MISMATCH with both; SIGSET sets CFSIG. WAITC with the counters at or below its limits, no latched trap
to raise and no matrix entry in flight moves on; with a latched trap outside handler mode it raises that; else
it stalls, where it waits on no far load and no held store. YIELD moves on unless a switch is pending or its
gang is being moved, and then parks, held. A fence not held back joins the outstanding operations, and is gone
at once where there are none. EXIT stops the warp. GRPRD reads a count, a member (all ones past the last) or
membership, and raises GROUP_ID in a grid that is not cooperative or past its group count. (R74, R127, R130,
R315, R341, R391, R414, R430, R431) -/
def Obligations.SignatureAndWaitWords : Prop :=
  (∀ (s : State) (i : BitVec 20), let r := s.warp.regs
    FallsThrough (exec .nop s) s
    ∧ (r.cfsig.toNat % 2 ^ 20 = i.toNat → exec (.sigchk i) s
        = .next { s with warp := { s.warp with pc := s.warp.pc.next, regs := { r with cfsig := 0 } } })
    ∧ (r.cfsig.toNat % 2 ^ 20 ≠ i.toNat → Traps (exec (.sigchk i) s) s 46 r.cfsig (BitVec.ofNat 32 i.toNat))
    ∧ exec (.sigset i) s = .next { s with warp := { s.warp with
        pc := s.warp.pc.next, regs := { r with cfsig := BitVec.ofNat 32 i.toNat } } })
  ∧ (∀ (s : State) (l z y m a : BitVec 5), let c := s.snap.cnt
    let within : Prop := c.l.toNat ≤ l.toNat ∧ c.s.toNat ≤ z.toNat ∧ c.c.toNat ≤ y.toNat ∧ c.m.toNat ≤ m.toNat
      ∧ c.a.toNat ≤ a.toNat
    (s.warp.latch = none ∨ s.warp.handler = true →
      (within → Unchecked s → s.warp.flights = [] → FallsThrough (exec (.waitc l z y m a) s) s)
      ∧ (¬ within → (∀ x ∈ s.warp.out, x.far = false ∧ x.waits = false) →
          exec (.waitc l z y m a) s = .next { s with grp := { s.grp with ended := .stalled } }))
    ∧ (∀ x, s.warp.latch = some x → s.warp.handler = false →
        ∃ t, exec (.waitc l z y m a) s = .next t ∧ t.grp.ended = .trapped x.cause x.info0 x.info1))
  ∧ (∀ s : State, (s.ctx s.warp.ctx).switchPending = false → (s.gang s.warp.gang).moved = false →
      FallsThrough (exec .yield s) s)
  ∧ (∀ s : State, s.snap.chkrole.toNat < 2 →
      (s.ctx s.warp.ctx).switchPending = true ∨ (s.gang s.warp.gang).moved = true →
      exec .yield s = .next { s with warp := { s.warp with pc := s.warp.pc.next, park := .yield, held := true } })
  ∧ (∀ s : State, Unchecked s →
      exec .exit s = .next { s with warp := { s.warp with pc := s.warp.pc.next, park := .exiting } })
  ∧ (∀ (s : State) (i : Instr) (k : AccKind),
      (i, k) ∈ [(Instr.fence, AccKind.fence), (.fenceRel, .fenceRel), (.fenceAcq, .fenceAcq)] →
      Unchecked s → memoryBlocked s = false →
      exec i s = .next { s with
        nextEntry := s.nextEntry + 1
        warp := { s.warp with
          pc := s.warp.pc.next, out := pruneFences (s.warp.out ++ [{ kind := k, stamp := s.nextEntry }]) } }
      ∧ (s.warp.out = [] → ∃ t, exec i s = .next t ∧ t.warp = { s.warp with pc := s.warp.pc.next }))
  ∧ (∀ (s : State) (d a b : BitVec 5), let g := s.grid s.warp.grid; let ms := g.groups.getD (s.srcS a).toNat []
    (g.launch.coop = true → (s.srcS a).toNat < g.groups.length →
      GivesScalar (exec (.grprdCnt d a) s) s d.toNat (BitVec.ofNat 32 ms.length)
      ∧ GivesScalar (exec (.grprdMem d a b) s) s d.toNat
          (if h : (s.srcS b).toNat < ms.length then BitVec.ofNat 32 ms[(s.srcS b).toNat] else 0xFFFFFFFF)
      ∧ GivesScalar (exec (.grprdSelf d a) s) s d.toNat (if s.linearBlock s.warp ∈ ms then 1 else 0))
    ∧ (g.launch.coop = false ∨ g.groups.length ≤ (s.srcS a).toNat →
      ∀ i ∈ ([.grprdCnt d a, .grprdMem d a b, .grprdSelf d a] : List Instr),
        Traps (exec i s) s 11 (s.srcS a &&& 0xFF) 0))

/-- In an unchecked grid, with no deferred path on the stack and nothing outstanding, BSYNC counts one arrival
at its block's barrier and parks the warp. When that reaches the block's warps that have not exited, the count
is 0 again and every warp parked there that is not held is ready; otherwise the warp stays parked. GSYNC does
the same for every block of a group of a cooperative grid of which its block is a member. A deferred path raises
ILLEGAL_CONVERGENCE, a bad group GROUP_ID, and a block that is no member GROUP_NOT_MEMBER. An exiting warp whose
counters S, C, M and A are 0 ends at EXIT_COMPLETE: where warps of its gang go on it has exited and counts as
arrived; with the last one its gang is retired and RETIRED goes up the command link. No byte of memory or
scratch changes. (R127, R131, R132, R137, R361) -/
def Obligations.BarriersOpenWhenEveryWarpHasArrived : Prop :=
  (∀ (s : State) (id : BitVec 8), let g := s.grid s.warp.grid; let b := s.linearBlock s.warp
    let left (x : Nat) : Nat := g.launch.warps - SMap.get g.exited x 0
    let ms := g.groups.getD id.toNat []
    let parked (p : Park) (n : Nat) (cnt : Grid → Nat) (due : Nat) (mine : State → Warp → Prop) (i : Instr) : Prop :=
      ∃ t, exec i s = .next t ∧ t.mem = s.mem ∧ t.sram = s.sram ∧ t.warp.pc = s.warp.pc.next
        ∧ (n + 1 ≠ due → t.warp.park = p ∧ cnt (t.grid s.warp.grid) = n + 1)
        ∧ (n + 1 = due → t.warp.park = .ready ∧ cnt (t.grid s.warp.grid) = 0
            ∧ ∀ w ∈ t.others, w.grid = s.warp.grid → mine t w → w.park = p → w.held = true ∧ w.pend = true)
    s.warp.park = .ready → s.warp.held = false →
    ((∃ e ∈ s.warp.stack, e.deferred = true) → ∀ i ∈ ([.bsync, .gsync id] : List Instr),
      Traps (exec i s) s 10 (BitVec.ofNat 32 s.warp.stack.length) 0)
    ∧ ((∀ e ∈ s.warp.stack, e.deferred = false) →
      (Unchecked s → s.warp.out = [] →
        parked .bsync (SMap.get g.bsync b 0) (fun g => SMap.get g.bsync b 0) (left b)
          (fun t w => t.linearBlock w = b) .bsync)
      ∧ (g.launch.coop = false ∨ g.groups.length ≤ id.toNat →
          Traps (exec (.gsync id) s) s 11 (BitVec.ofNat 32 id.toNat) 0)
      ∧ (g.launch.coop = true → id.toNat < g.groups.length → b ∉ ms →
          Traps (exec (.gsync id) s) s 12 (BitVec.ofNat 32 id.toNat) 0)
      ∧ (g.launch.coop = true → id.toNat < g.groups.length → b ∈ ms → Unchecked s → s.warp.out = [] →
          parked (.gsync id.toNat) (SMap.get g.gsync id.toNat 0) (fun g => SMap.get g.gsync id.toNat 0)
            (ms.map left).sum (fun _ _ => True) (.gsync id))))
  ∧ (∀ s : State, let c := s.warp.regs.cnt; let h := s.warp.gang
    let goesOn (w : Warp) : Prop := w.gang = h ∧ w.uid ≠ s.warp.uid ∧ w.park ≠ .vacant ∧ w.park ≠ .exited ∧ w.regs.chkrole.toNat < 2
    s.warp.park = .exiting → c.s = 0 → c.c = 0 → c.m = 0 → c.a = 0 → s.warp.latch = none →
    ((∃ w ∈ s.others, goesOn w) → ∃ t, exec .evExitComplete s = .next t
        ∧ t.warp.park = .exited ∧ t.mem = s.mem ∧ t.sram = s.sram
        ∧ SMap.get (t.grid s.warp.grid).exited (s.linearBlock s.warp) 0
          = SMap.get (s.grid s.warp.grid).exited (s.linearBlock s.warp) 0 + 1)
    ∧ ((∀ w ∈ s.others ++ s.gangs.flatMap (fun g => g.2.image), w.gang = h →
          w.park = .vacant ∨ w.park = .exited ∨ 2 ≤ w.regs.chkrole.toNat) → (s.gang h).phase = .running →
        ∃ t, exec .evExitComplete s = .next t ∧ t.warp.park = .vacant ∧ (t.gang h).phase = .retired
          ∧ (∃ m, t.msgs.getLast? = some m ∧ m.cluster = (s.gang h).cluster ∧ m.kind = .retired ∧ m.gang = h)
          ∧ t.mem = s.mem ∧ t.sram = s.sram))

/-- In an unchecked grid with nothing outstanding, nothing that holds memory words back and no nest, LSTART of
an aligned, translated descriptor in the module's memory whose line its reader holds starts the nest of its
sixteen words, or raises LOOP_DESCRIPTOR if it is malformed; with a nest it raises LOOP_BUSY. The n-th iteration
has the tuple of n in mixed radix, level 0 fastest, and its entry the offsets of R134. ALMOND_ENTRY queues the
next entry while a permit and an unqueued iteration remain. NEXTIT pops the head entry into four scalars and
counts the iteration as returned; it stalls on an empty queue, and raises LOOP_IDLE with no nest and LOOP_EMPTY
with none left. BRIT goes to its target while iterations remain and else ends the nest and moves on; LSTOP ends
it. (R133, R134, R135, R137, R229) -/
def Obligations.LoopNestsYieldTheirIterationsInOrder : Prop :=
  (∀ (a : BitVec 4) (s : State) (pa : Nat), let va := (s.srcPair a).toNat
    let d := (List.range 16).map fun i => BitVec.ofNat 32 (s.mem.readNat (pa + 4 * i) 4)
    (s.warp.nest ≠ none → Traps (exec (.lstart a) s) s 15 0 0)
    ∧ (Unchecked s → s.warp.nest = none → s.warp.out = [] → va % 64 = 0 → va < 0x000F000000000000 →
        s.translate s.warp.ctx va .read = .phys pa → pa < 2 ^ 42 → memoryBlocked s = false →
        LinesHeld s (clusterUser s.warp.cluster s.warp.ctx 1) false (linesOf pa 64) →
        (descMalformed d = false → ∃ t, exec (.lstart a) s = .next t ∧ t.mem = s.mem ∧ t.sram = s.sram
          ∧ t.warp = { s.warp with
              pc := s.warp.pc.next
              nest := some { desc := d, tuple := [0, 0, 0, 0]
                             remain := descCount d 0 * descCount d 1 * descCount d 2 * descCount d 3 } })
        ∧ (descMalformed d = true → ∃ t, exec (.lstart a) s = .next t ∧ t.grp.ended = .trapped 18 0 0)))
  ∧ (∀ (d : List Word) (n : Nat), let c := descCount d
      tupleAfter d n [0, 0, 0, 0] = [n % c 0, n / c 0 % c 1, n / (c 0 * c 1) % c 2, n / (c 0 * c 1 * c 2) % c 3])
  ∧ (∀ (d : List Word) (t : Fin 4 → Nat), let e := nestEntry d [t 0, t 1, t 2, t 3]
      let off (b k : Nat) : Word := dword d b + BitVec.ofNat 32 (t 0) * dword d k + BitVec.ofNat 32 (t 1) * dword d (k + 1)
        + BitVec.ofNat 32 (t 2) * dword d (k + 2) + BitVec.ofNat 32 (t 3) * dword d (k + 3)
      e[0] = off 3 5 ∧ e[1] = off 4 9)
  ∧ (∀ (s : State) (n : Nest), s.warp.nest = some n →
      (n.queue.length < descPermits n.desc → n.queue.length < n.remain →
        exec .evAlmondEntry s = .next { s with warp := { s.warp with nest := some { n with
          queue := n.queue ++ [nestEntry n.desc (tupleAfter n.desc n.queue.length n.tuple)] } } })
      ∧ (descPermits n.desc ≤ n.queue.length ∨ n.remain ≤ n.queue.length → exec .evAlmondEntry s = .next s))
  ∧ (∀ (d : BitVec 3) (o : BitVec 17) (s : State), let t : Int := s.warp.pc.packet.toNat + o.toInt
    (s.warp.nest = none → Traps (exec (.nextit d) s) s 16 1 0 ∧ FallsThrough (exec (.brit o) s) s)
    ∧ exec .lstop s = .next { s with warp := { s.warp with pc := s.warp.pc.next, nest := none } }
    ∧ ∀ n : Nest, s.warp.nest = some n →
      (n.remain = 0 → Traps (exec (.nextit d) s) s 17 1 0
        ∧ exec (.brit o) s = .next { s with warp := { s.warp with pc := s.warp.pc.next, nest := none } })
      ∧ (n.remain ≠ 0 → 0 ≤ t → t < 2 ^ 30 →
          GoesTo (exec (.brit o) s) s (BitVec.ofInt 30 t) s.warp.regs s.warp.stack)
      ∧ (n.remain ≠ 0 → ¬ (0 ≤ t ∧ t < 2 ^ 30) → Traps (exec (.brit o) s) s 3 (BitVec.ofInt 32 t) 0)
      ∧ (n.remain ≠ 0 → n.queue = [] → exec (.nextit d) s = .next { s with grp := { s.grp with ended := .stalled } })
      ∧ (∀ e rest, n.remain ≠ 0 → n.queue = e :: rest → ∃ u, exec (.nextit d) s = .next u
          ∧ (∀ k : Fin 32, u.warp.regs.s[k] = if k.val / 4 = d.toNat then e[k.val % 4] else s.warp.regs.s[k])
          ∧ u = { s with warp := { s.warp with
              pc := s.warp.pc.next
              regs := { s.warp.regs with s := u.warp.regs.s }
              nest := some { n with queue := rest, remain := n.remain - 1, tuple := nextTuple n.desc n.tuple 0 } } }))

/-- On an object at an aligned offset of a claimed SCRATCH segment, BINIT, BARRIVE, BARRIVE.PEER (a peer object
that can be reached), BEXPECT and BINVAL join the outstanding operations and raise S, and BTRY does and raises
L. BWAIT on a valid object goes on if its phase differs from the parity, and else parks until it does; an
invalid one raises BARRIER_INVALID. Performed, BINIT makes the object of R293 with its count, BINVAL clears VAL,
and BARRIVE and BEXPECT lower REMAIN and raise PENDB, or latch the cause by which they fail; counted bytes lower
PENDB. When both are 0 the phase inverts, REMAIN is EXPECT again and PHNO one more; an arrival with REMAIN 0,
and a PENDB past 2^31 - 1, fail with BARRIER_COUNT, and all of them on an invalid object with BARRIER_INVALID.
BTRY returns whether the phase differs from its parity, and 0 with BARRIER_INVALID latched where the object is
invalid. A polled waiter goes on when the phase has changed and is clobbered when VAL is 0 or PHNO has changed
with the phase at its parity. (R293, R294, R295, R296, R297, R298, R427) -/
def Obligations.BarrierObjectsCompleteTheirPhases : Prop :=
  (∀ (a b d : BitVec 5) (s : State) (seg : Nat), let off := (s.srcS a).toNat; let g := s.gang s.warp.gang
    let o := sramAddr g.cluster seg (off % 2 ^ 18); let va := 0x000F000000000000 + off; let c := s.warp.regs.cnt
    let w := (s.srcS a).toNat; let par := (s.srcS b).getLsbD 0
    let one (x v : Nat) : List LaneAcc := [{ lane := 0, va := v, pieces := [⟨.sram x, v, 16⟩] }]
    Unchecked s → memoryBlocked s = false →
    (off % 16 = 0 → g.segOf off = some seg → (s.segment g.cluster seg).mode = .scratch →
      (c.s ≠ 63 → 0 < (s.srcS b).toNat → (s.srcS b).toNat ≤ 65535 → Joins (exec (.binit a b) s) s { c with s := c.s + 1 }
          fun x => x.kind = .binit (s.srcS b).toNat ∧ x.release = false ∧ x.lanes = one o va)
      ∧ (c.s ≠ 63 → Joins (exec (.barrive a) s) s { c with s := c.s + 1 }
          fun x => x.kind = .barrive false ∧ x.release = true ∧ x.lanes = one o va)
      ∧ (c.s ≠ 63 → Joins (exec (.bexpect a b) s) s { c with s := c.s + 1 }
          fun x => x.kind = .bexpect (s.srcS b).toNat ∧ x.release = false ∧ x.lanes = one o va)
      ∧ (c.s ≠ 63 → Joins (exec (.binval a) s) s { c with s := c.s + 1 }
          fun x => x.kind = .binval ∧ x.release = false ∧ x.lanes = one o va)
      ∧ (c.l ≠ 63 → Joins (exec (.btry a b d) s) s { c with l := c.l + 1 }
          fun x => x.kind = .btry d.toNat par ∧ x.acquire = true ∧ x.lanes = one o va)
      ∧ (s.warp.out = [] →
          (s.objVal o = false → Traps (exec (.bwait a b) s) s 35 (s.srcS a) 3)
          ∧ (s.objVal o = true → s.objPh o ≠ par → FallsThrough (exec (.bwait a b) s) s)
          ∧ (s.objVal o = true → s.objPh o = par → exec (.bwait a b) s = .next { s with warp := { s.warp with
              pc := s.warp.pc.next
              park := .barrier o par (s.srcS a) s.grp.pc (if objectsFull s o then some (s.objWord o 3) else none) } })))
    ∧ (∀ x, c.s ≠ 63 → w / 2 ^ 23 < 192 → w % 16 = 0 → s.peerTarget s.warp.ctx (w / 2 ^ 23) (w % 2 ^ 23) = .sram x →
        Joins (exec (.barrivePeer a) s) s { c with s := c.s + 1 } fun y =>
          y.kind = .barrive true ∧ y.release = true ∧ y.lanes = one x (0x000F100000000000 + w)))
  ∧ (∀ (s : State) (k n o va : Nat) (x : Access), MayPerform s k x → NoPeer x → s.warp.arriving = false → n ≤ 65535 →
      x.kind = .binit n → x.lanes = [{ lane := 0, va := va, pieces := [⟨.sram o, va, 16⟩] }] →
      ∃ t, exec .evStorePerformed s = .next t ∧ t.objVal o = true ∧ t.objPh o = false
        ∧ t.objExpect o = BitVec.ofNat 32 n ∧ t.objRemain o = BitVec.ofNat 32 n ∧ t.objWord o 2 = 0 ∧ t.objWord o 3 = 0
        ∧ t.warp.regs.cnt.s = s.warp.regs.cnt.s - 1 ∧ t.mem = s.mem
        ∧ ∀ b, ¬ (o ≤ b ∧ b < o + 16) → t.sram.read b = s.sram.read b)
  ∧ (∀ (s : State) (k o va : Nat) (x : Access), MayPerform s k x → NoPeer x → s.warp.arriving = false →
      x.lanes = [{ lane := 0, va := va, pieces := [⟨.sram o, va, 16⟩] }] →
      let gives (sram : Memory) (bad : Option Nat) : Prop := ∃ t, exec .evStorePerformed s = .next t ∧ t.sram = sram
        ∧ t.mem = s.mem ∧ t.warp.regs.cnt.s = s.warp.regs.cnt.s - 1
        ∧ t.warp.out = pruneFences (s.warp.out.eraseIdx k)
        ∧ (s.warp.park = .ready → s.warp.latch = none → t.warp.latch.map (·.cause) = bad)
      (x.kind = .barrive false → gives (s.arrive o).1.sram (s.arrive o).2)
      ∧ (∀ n, x.kind = .bexpect n → gives (s.expectBytes o (BitVec.ofNat 32 n)).1.sram (s.expectBytes o (BitVec.ofNat 32 n)).2)
      ∧ (x.kind = .binval → gives (s.sram.writeBytes o (bytesOfNat 4 (s.objWord o 0 &&& 0x7FFFFFFF).toNat)) none))
  ∧ (∀ (s : State) (o : Nat) (n : Word), s.objVal o = false →
      s.arrive o = (s, some 35) ∧ s.expectBytes o n = (s, some 35) ∧ ∀ m, s.countBytes o m = (s, some 35))
  ∧ (∀ (s : State) (o : Nat), s.objVal o = true →
      let done (t : State) : Prop := t.objVal o = true ∧ t.objPh o = !s.objPh o ∧ t.objRemain o = s.objExpect o
        ∧ t.objExpect o = s.objExpect o ∧ t.objWord o 2 = 0 ∧ t.objWord o 3 = s.objWord o 3 + 1
      let same (t : State) : Prop := t.objWord o 0 = s.objWord o 0 ∧ t.objWord o 3 = s.objWord o 3
      (s.objRemain o = 0 → s.arrive o = (s, some 34))
      ∧ (s.objRemain o = 1 → s.objWord o 2 = 0 → (s.arrive o).2 = none ∧ done (s.arrive o).1)
      ∧ (s.objRemain o ≠ 0 → s.objRemain o ≠ 1 ∨ s.objWord o 2 ≠ 0 → (s.arrive o).2 = none ∧ same (s.arrive o).1
          ∧ (s.arrive o).1.objRemain o = s.objRemain o - 1 ∧ (s.arrive o).1.objWord o 2 = s.objWord o 2)
      ∧ (∀ n : Word, let r := s.expectBytes o n
          (2 ^ 31 - 1 < (s.objWord o 2).toInt + n.toNat → r = (s, some 34))
          ∧ ((s.objWord o 2).toInt + n.toNat ≤ 2 ^ 31 - 1 → r.2 = none
            ∧ (s.objRemain o = 0 → s.objWord o 2 + n = 0 → done r.1)
            ∧ (s.objRemain o ≠ 0 ∨ s.objWord o 2 + n ≠ 0 → same r.1 ∧ r.1.objWord o 2 = s.objWord o 2 + n)))
      ∧ (∀ n : Nat, n < 2 ^ 31 → -(2 : Int) ^ 31 ≤ (s.objWord o 2).toInt - n →
          let r := s.countBytes o n
          r.2 = none ∧ (s.objRemain o = 0 → s.objWord o 2 = BitVec.ofNat 32 n → done r.1)
          ∧ (s.objRemain o ≠ 0 ∨ s.objWord o 2 ≠ BitVec.ofNat 32 n →
              same r.1 ∧ r.1.objWord o 2 = s.objWord o 2 - BitVec.ofNat 32 n)))
  ∧ (∀ (s : State) (k d o va : Nat) (par : Bool) (hd : d < 32) (x : Access), MayPerform s k x → NoPeer x → s.warp.arriving = false →
      x.kind = .btry d par → x.lanes = [{ lane := 0, va := va, pieces := [⟨.sram o, va, 16⟩] }] →
      s.warp.park = .ready → ∃ t, exec .evLoadReturn s = .next t ∧ t.mem = s.mem ∧ t.sram = s.sram
        ∧ t.warp = { s.warp with
          latch := if s.objVal o then s.warp.latch else s.warp.latch.or (some ⟨35, BitVec.ofNat 32 (va - 0x000F000000000000), 4⟩)
          out := pruneFences (s.warp.out.eraseIdx k)
          regs := { s.warp.regs with
            s := s.warp.regs.s.set d (if s.objVal o = true ∧ s.objPh o ≠ par then 1 else 0) hd
            cnt := { s.warp.regs.cnt with l := s.warp.regs.cnt.l - 1 } } })
  ∧ (∀ (s : State) (o : Nat) (par : Bool) (off n : Word) (pc : Pc),
      s.warp.park = .barrier o par off pc (some n) → s.warp.held = false →
      let clobbered : State := { s with warp := { s.warp with park := .ready, pendTrap := some (36, off, 0, pc) } }
      (s.objVal o = true → s.objPh o ≠ par → exec .evBarrierPoll s = .next { s with warp := { s.warp with park := .ready } })
      ∧ (s.objVal o = false → exec .evBarrierPoll s = .next clobbered)
      ∧ (s.objVal o = true → s.objPh o = par → s.objWord o 3 ≠ n → exec .evBarrierPoll s = .next clobbered)
      ∧ (s.objVal o = true → s.objPh o = par → s.objWord o 3 = n → exec .evBarrierPoll s = .next s))

/-- In an unchecked grid with no memory word held back and room in C and in the cluster's engine queue, each
COPY function whose octet of scalars passes the checks of R302 with a length above 0 puts its copy behind the
others and raises C by 1; with length 0 it only moves on; a copy that fails a check raises COPY_OPERAND with the
first failing reason, operand and value. CHN of an aligned address of the global window does the same for its
chain, bound to the active banks; a misaligned one is reason 1. PREF of a good range moves on with no value and
no counter changed; a misaligned one is reason 1. Where a memory word is held back, all of them wait. (R284,
R300, R301, R302, R303, R306, R310) -/
def Obligations.CopiesAndChainsEnterTheEngine : Prop :=
  (∀ (a h : BitVec 2) (v : BitVec 8) (l : BitVec 1) (s : State), let g := s.grid s.warp.grid
    let w (i : Nat) : Word := s.srcS (BitVec.ofNat 5 (8 * a.toNat + i))
    let check := checkCopy s false s.scratchOk ((g.launch.scratch + 2 ^ 18 - 1) / 2 ^ 18 * 2 ^ 18)
      (if g.launch.coop then some g.groups.length else none)
    let acts (i : Instr) (fn imm dlt : Nat) : Prop :=
      let c := copyOf fn imm dlt h.toNat w
      (∀ reason operand x, check c = some (reason, operand, x) →
        Traps (exec i s) s 37 (BitVec.ofNat 32 (reason + 16 * operand)) (BitVec.ofNat 32 x))
      ∧ (check c = none → c.len = 0 → FallsThrough (exec i s) s)
      ∧ (check c = none → c.len ≠ 0 → s.warp.regs.cnt.c ≠ 63 → (s.cluster s.warp.cluster).engine.length < 64 →
          StartsJob (exec i s) s (.copy c))
    let all : List Instr := [.cpy a h, .cpymc a v h, .cpyb a h, .cpyout a h, .cpypar a l h, .cpygf a v l h, .cpypeer a h]
    (memoryBlocked s = true → ∀ i ∈ all, exec i s = .next { s with grp := { s.grp with ended := .stalled } })
    ∧ (Unchecked s → memoryBlocked s = false →
    acts (.cpy a h) 0 0 0 ∧ acts (.cpymc a v h) 1 v.toNat 0 ∧ acts (.cpyb a h) 2 0 0 ∧ acts (.cpyout a h) 3 0 0
    ∧ acts (.cpypar a l h) 4 0 l.toNat ∧ acts (.cpygf a v l h) 5 v.toNat l.toNat ∧ acts (.cpypeer a h) 6 0 0))
  ∧ (∀ (a : BitVec 4) (s : State), let va := (s.srcPair a).toNat
    memoryBlocked s = false →
    (va % 64 ≠ 0 → Traps (exec (.chn a) s) s 37 1 (BitVec.ofNat 32 va))
    ∧ (va % 64 = 0 → va < 0x000F000000000000 → Unchecked s → s.warp.regs.cnt.c ≠ 63 →
        (s.cluster s.warp.cluster).engine.length < 64 → StartsJob (exec (.chn a) s) s (.chain va 0 s.banks)))
  ∧ (∀ (a : BitVec 4) (b : BitVec 5) (h : BitVec 2) (s : State), let va := (s.srcPair a).toNat; let n := (s.srcS b).toNat
    memoryBlocked s = false →
    (va % 128 ≠ 0 → Traps (exec (.pref a b h) s) s 37 1 (BitVec.ofNat 32 va))
    ∧ (va % 128 = 0 → n % 128 = 0 → 128 ≤ n → n ≤ 2 ^ 24 → va + n ≤ 0x000F000000000000 →
        ∃ t, exec (.pref a b h) s = .next t ∧ t.warp = { s.warp with pc := s.warp.pc.next }
          ∧ t.others = s.others ∧ t.mem = s.mem ∧ t.sram = s.sram))

/-- In an unchecked grid with no memory word held back: WBACK and DISCARD of a good, translated range join the
outstanding operations and raise S, DISCARD with words of zeros; BANKCFG of a claimed segment asks for its
change; BANKQ joins with the peer-window offset of the segment at the gang's first placement and raises L;
DEPOSIT with room in a translated area whose header the die's pool may write takes the next slots, writes USED,
counts itself in SEQ and joins with its records, raising S, and with EXEC 0 only counts itself; TBLLOAD and
TBLLOAD.LOG of an aligned, translated source join and raise L; TBLSWAP changes the active banks of its mask and
raises GEN by 1; SEAL sets the seal range, and raises TILE_RANGE for a tile outside the window. (R310, R311,
R312, R313, R314, R326, R421, R422, R427) -/
def Obligations.RangeSegmentAndTableWordsComplete : Prop :=
  (∀ (a b : BitVec 5) (s : State), let va := (s.srcPair (BitVec.ofNat 4 (a.toNat / 2))).toNat; let n := (s.srcS b).toNat
    let c := s.warp.regs.cnt
    MemoryFree s → c.s ≠ 63 → va % 128 = 0 → n % 128 = 0 → 128 ≤ n → n ≤ 2 ^ 24 → va + n ≤ 0x000F000000000000 →
    (∀ x, va ≤ x → x < va + n → ∃ p, s.translate s.warp.ctx x .write = .phys p) →
    Joins (exec (.wback a b) s) s { c with s := c.s + 1 } (fun x => x.kind = .wback
        ∧ ∀ l ∈ x.lanes, ∀ p ∈ l.pieces, va ≤ p.va ∧ p.va + p.len ≤ va + n)
    ∧ Joins (exec (.discard a b) s) s { c with s := c.s + 1 } (fun x => x.kind = .discard
        ∧ (∀ l ∈ x.lanes, ∀ w ∈ l.data, w = 0) ∧ (x.lanes.map fun l => 4 * l.data.length).sum = n))
  ∧ (∀ (a d : BitVec 5) (m : BitVec 2) (s : State) (seg : Nat), let g := s.gang s.warp.gang; let c := s.warp.regs.cnt
    let n := (s.srcS a).toNat
    Unchecked s → memoryBlocked s = false → g.segs[n]? = some seg →
    exec (.bankcfg a m) s = .next { s with
        nextEntry := s.nextEntry + 1
        clusters := SMap.upd s.clusters s.warp.cluster {} fun (k : Cluster) => { k with
          changes := k.changes ++ [{ segment := seg, mode := segModeOf m.toNat, warp := some s.warp.uid, stamp := s.nextEntry }] }
        warp := { s.warp with pc := s.warp.pc.next } }
    ∧ (c.l ≠ 63 → Joins (exec (.bankq a d) s) s { c with l := c.l + 1 } fun x => x.kind = .scalar d.toNat
        (BitVec.ofNat 32 (g.firstCluster.getD 0 * 2 ^ 23 + g.firstSegs.getD n 0 * 2 ^ 18))))
  ∧ (∀ (d : BitVec 4) (a : BitVec 6) (s : State) (pa : Nat), let g := s.grid s.warp.grid; let area := g.launch.darea
    let n := popc s.snap.exec.toNat 32; let c := s.warp.regs.cnt
    MemoryFree s → s.warp.park = .ready → (∀ w ∈ s.allWarps, w.flights = []) → NamesBelow s [(4 * d.toNat, 4), (a.toNat, 1)] →
    (s.snap.exec = 0 → exec (.deposit d a) s = .next { s with warp := { s.warp with
      pc := s.warp.pc.next, depositSeq := s.warp.depositSeq + 1 } })
    ∧ (s.snap.exec ≠ 0 → c.s ≠ 63 → g.launch.cont ≠ 0 → area ≠ 0 → s.translate s.warp.ctx area .write = .phys pa →
      g.slotsUsed + n ≤ s.mem.readNat pa 4 → LinesHeld s (poolUser s.warp.cluster s.warp.ctx 1) true (linesOf pa 8) →
      (∀ x, area ≤ x → x < area + 64 + 48 * (g.slotsUsed + n) → ∃ p, s.translate s.warp.ctx x .write = .phys p) →
      ∃ t x, exec (.deposit d a) s = .next t ∧ t.warp.out = s.warp.out ++ [x] ∧ x.kind = .deposit ∧ x.lanes.length = n
        ∧ (∀ l ∈ x.lanes, l.data.take 4 = (List.range 4).map fun i => laneAt (s.srcV (4 * d.toNat + i)) l.lane)
        ∧ (t.grid s.warp.grid).slotsUsed = g.slotsUsed + n ∧ t.mem.readNat (pa + 4) 4 = (g.slotsUsed + n) % 2 ^ 32
        ∧ t.warp.depositSeq = s.warp.depositSeq + 1 ∧ t.warp.regs.cnt.s = c.s + 1 ∧ t.warp.pc = s.warp.pc.next))
  ∧ (∀ (a : BitVec 4) (k : BitVec 3) (s : State), let va := (s.srcPair a).toNat; let c := s.warp.regs.cnt
    let loads (i : Instr) (tid : Nat) (log : Bool) (n : Nat) : Prop :=
      va + n ≤ 0x000F000000000000 → (∀ x, va ≤ x → x < va + n → ∃ p, s.translate s.warp.ctx x .read = .phys p) →
      Joins (exec i s) s { c with l := c.l + 1 } fun x => x.kind = .tblload tid log
        ∧ (∀ l ∈ x.lanes, va ≤ l.va ∧ l.va + l.width ≤ va + n) ∧ (x.lanes.map LaneAcc.width).sum = n
    Unchecked s → c.l ≠ 63 → va % 64 = 0 → (s.ctx s.warp.ctx).injectionStopped = false → loads (.tblload a k) k.toNat false 4112 ∧ loads (.tblloadLog a) 0 true 8)
  ∧ (∀ (l : BitVec 1) (m : BitVec 8) (s : State), Unchecked s →
    (∀ x ∈ s.warp.out, ∀ t g, x.kind ≠ .tblload t g) →
    exec (.tblswap l m) s = .next { s with
      ctxs := SMap.upd s.ctxs s.warp.ctx {} fun (c : Ctx) => { c with
        bank := c.bank ^^^ BitVec.ofNat 9 (l.toNat * 256 + m.toNat), gen := c.gen + 1 }
      warp := { s.warp with pc := s.warp.pc.next } })
  ∧ (∀ (d n : BitVec 6) (t : BitVec 3) (s : State), let k := if n = 0 then 64 else n.toNat
    let inside (j : Nat) : Prop := s.snap.vbnd.toNat + 512 * j + 511 < s.snap.vcount.toNat
    let sets (g : Seal) : Out := .next { s with warp := { s.warp with pc := s.warp.pc.next, sealed := g } }
    NamesBelow s [(d.toNat, k)] → Unchecked s →
    ((∀ j < 3, t.getLsbD j = true → inside j) → exec (.seal d n t) s = sets ⟨d.toNat, k, t⟩ ∧ exec (.sealNovec t) s = sets ⟨0, 0, t⟩)
    ∧ (∀ j < 3, t.getLsbD j = true → ¬ inside j → (∀ m < j, t.getLsbD m = true → inside m) →
        Traps (exec (.seal d n t) s) s 23 (BitVec.ofNat 32 j) (s.snap.vbnd.setWidth 32)
        ∧ Traps (exec (.sealNovec t) s) s 23 (BitVec.ofNat 32 j) (s.snap.vbnd.setWidth 32)))

/-- With no matrix entry in flight, no access or segment change of its warp before it, and the lines of its
source and destination held, a sixteen-byte unchecked copy or chain COPY or XOR step between translated global
and own-scratch places leaves each destination byte as R301 gives it from the bytes before (the source byte, its
exclusive or with what stood there, or with the product in GF(2^8)), every other byte of that memory as it was,
the job gone and C of its warp one lower; a chain, its step read from the module's memory, goes on to its next
step unless that step is its last. An event that names one word of a copy performs that word alone, or reads it
alone, and marks it in the job. A 4,097th step, or one at a misaligned address, latches CHAIN_DESCRIPTOR.
SEGMENT_MODE_CHANGE with nothing before it outstanding and no copy in any engine leaves the segment in its mode
with every byte 0 and every byte outside it as it was, and for the driver it asks for the change of a segment
that no gang has claimed. ARRIVAL_LOG_APPEND of a store to a saved gang's scratch appends its entry to the
context's log, where that can be written, and lowers S. The product in GF(2^8) is bilinear over exclusive or,
and 1 is its unit. That an event names the words is the model's choice (log 12). (R207, R229, R250, R267, R301,
R303, R307, R308, R311, R378, R379) -/
def Obligations.EngineEventsMoveTheirBytes : Prop :=
  (∀ (s : State) (j : EngineJob) (c : Copy) (ls ld : Loc),
    let cl := s.ev.k; let m := s.ev.m
    let at_ (t : State) (l : Loc) (i : Nat) : Byte := match l with
      | .phys a => t.mem.read (a + i)
      | .sram a => t.sram.read (a + i)
      | _ => 0
    let plain (l : Loc) : Prop := (∃ a, l = .phys a) ∨ ∃ a, l = .sram a
    let shift (l : Loc) (k : Nat) : Loc := match l with
      | .phys a => .phys (a + k)
      | .sram a => .sram (a + k)
      | l => l
    let moved (lo n : Nat) (t : State) : Prop :=
      (∀ i < 16, at_ t ld i = if i < lo ∨ lo + n ≤ i then at_ s ld i else match c.fn with
        | 4 => at_ s ld i ^^^ at_ s ls i
        | 5 => at_ s ld i ^^^ BitVec.ofNat 8 (gfMul c.imm (at_ s ls i).toNat 8)
        | _ => at_ s ls i)
      ∧ (∀ a, ld = .phys a → t.sram = s.sram ∧ MemSameOutside s t a 16)
      ∧ (∀ a, ld = .sram a → t.mem = s.mem ∧ ∀ b, ¬ (a ≤ b ∧ b < a + 16) → t.sram.read b = s.sram.read b)
    let done (t : State) : Prop := (t.cluster cl).engine = (s.cluster cl).engine.eraseIdx m
      ∧ t.warp.regs.cnt.c = s.warp.regs.cnt.c - 1
    (s.cluster cl).engine[m]? = some j → j.stopped = false → j.waiting = none → j.sent = false → j.pos = 0 → j.ahead = [] → j.got = [] →
    j.node = none → j.spoilt = [] →
    j.warp = some s.warp.uid → s.warp.park = .ready → j.role = 0 → s.warp.regs.chkrole = 0 → s.warp.out = [] →
    (∀ w ∈ s.allWarps, w.flights = []) → c.fn ∈ [0, 3, 4, 5] → c.len = 16 → c.dlt = false → c.ben = false →
    c.src < 0x000F100000000000 → c.dst < 0x000F100000000000 → plain ls → plain ld →
    (∀ f, let u : State := { s with fresh := f }
      u.unitAt j c 0 c.src 16 false = .ok ls ∧ u.unitAt j c 0 c.dst 16 true = .ok ld) →
    (∀ q ∈ (s.cluster s.warp.cluster).changes, q.warp ≠ some s.warp.uid) →
    LinesHeld s (j.reader cl) false (ls.lines 16) → LinesHeld s (j.writer cl c) true (ld.lines 16) →
    (j.job = .copy c → s.ev.b = false → ∃ t, exec .evCopyComplete s = .next t ∧ moved 0 16 t ∧ done t)
    ∧ (∀ k < 4, j.job = .copy c → s.ev.b = true → s.ev.w.toNat = 4 * k → s.ev.n = 4 →
        (∀ f, let u : State := { s with fresh := f }
          u.unitAt j c (4 * k) (c.src + 4 * k) 4 false = .ok (shift ls (4 * k))
          ∧ u.unitAt j c (4 * k) (c.dst + 4 * k) 4 true = .ok (shift ld (4 * k))) →
        (s.ev.v = 0 → ∃ t, exec .evCopyComplete s = .next t ∧ moved (4 * k) 4 t
          ∧ (t.cluster cl).engine[m]? = some (if k = 0 then { j with pos := 4 } else { j with ahead := [4 * k] })
          ∧ t.warp.regs.cnt.c = s.warp.regs.cnt.c)
        ∧ (s.ev.v = 1 → ∃ t, exec .evCopyComplete s = .next t ∧ t.mem = s.mem ∧ t.sram = s.sram
          ∧ (t.cluster cl).engine[m]? = some { j with got := [(4 * k, (List.range 4).map fun i => at_ s ls (4 * k + i))] }))
    ∧ (∀ va steps banks pa, let d := wordsOfBytes 64 (s.mem.readBytes pa 64); let w0 := (d.getD 0 0).toNat
        j.job = .chain va steps banks → j.step = [] → s.ev.b = false → steps < 4096 → va % 64 = 0 → va < 0x000F000000000000 →
        s.translate j.ctx va .read = .phys pa → pa < 2 ^ 42 → LinesHeld s (j.reader cl) false (linesOf pa 64) → stepMalformed false d = false → fld w0 28 4 ≠ 1 → stepCopy d = c →
        ∃ t, exec .evChainStep s = .next t ∧ moved 0 16 t ∧ (w0.testBit 27 = true → done t)
          ∧ (w0.testBit 27 = false → (t.cluster cl).engine[m]?.map (·.job)
              = some (.chain (pair (d.getD 8 0) (d.getD 9 0)).toNat (steps + 1) banks))))
  ∧ (∀ (s : State) (j : EngineJob) (va steps : Nat) (banks : BitVec 9), let cl := s.ev.k; let m := s.ev.m
    (s.cluster cl).engine[m]? = some j → j.stopped = false → j.waiting = none → j.node = none → j.warp = some s.warp.uid →
    s.warp.park = .ready → s.warp.out = [] → (∀ q ∈ (s.cluster s.warp.cluster).changes, q.warp ≠ some s.warp.uid) →
    s.warp.latch = none → j.job = .chain va steps banks → j.step = [] → 4096 ≤ steps ∨ va % 64 ≠ 0 →
    ∃ t, exec .evChainStep s = .next t ∧ (t.warp.latch.map (·.cause)) = some 39
      ∧ (t.cluster cl).engine = (s.cluster cl).engine.eraseIdx m ∧ t.warp.regs.cnt.c = s.warp.regs.cnt.c - 1)
  ∧ (∀ (s : State) (c : SegChange), let cl := s.ev.k; let lo := sramAddr cl c.segment 0
    let claimed := (s.segment cl c.segment).claimed
    s.ev.b = false → (s.cluster cl).changes[s.ev.m]? = some c → c.segment < 32 → (∀ w ∈ s.allWarps, w.out = [] ∧ w.flights = []) →
    (∀ q ∈ s.clusters, q.2.engine = []) → (claimed = true → c.warp ≠ none) → ((s.segment cl c.segment).mode = .cache → ∀ q ∈ s.cohReqs, q.holder ≠ cl) →
    ∃ t, exec .evSegmentModeChange s = .next t ∧ (t.cluster cl).changes = (s.cluster cl).changes.eraseIdx s.ev.m
      ∧ (t.segment cl c.segment).mode = c.mode ∧ (t.segment cl c.segment).fifo = [] ∧ t.mem = s.mem
      ∧ ∀ b, t.sram.read b = if lo ≤ b ∧ b < lo + 2 ^ 18 then 0 else s.sram.read b)
  ∧ (∀ s : State, let cl := s.ev.k; s.ev.b = true → s.ev.n < 32 →
    ∃ t, exec .evSegmentModeChange s = .next t ∧ t.warp = s.warp ∧ t.mem = s.mem ∧ t.sram = s.sram
      ∧ (t.cluster cl).changes = if (s.segment cl s.ev.n).claimed then (s.cluster cl).changes
        else (s.cluster cl).changes ++ [{ segment := s.ev.n, mode := segModeOf s.ev.v.toNat, stamp := s.nextEntry }])
  ∧ (∀ (s : State) (k va cl o h off lane : Nat) (data : List Word) (x : Access) (base size : Nat),
    let c := s.ctx s.warp.ctx
    MayPerform s k x → s.warp.park = .ready → s.warp.arriving = false → x.kind = .store 4 0 →
    x.lanes = [{ lane := lane, va := va, pieces := [⟨.logged h off, va, 16⟩], data := data }] → data.length = 4 →
    windowOf va = .peer cl o → s.peerTarget s.warp.ctx cl o = .saved h off false → s.alogArea s.warp.ctx = some (base, size) →
    c.alogOvf = false → c.alogHead.toNat + 32 ≤ size →
    (∀ x ∈ [base + c.alogHead.toNat, c.swdesc.toNat + 24, c.swdesc.toNat + 28], (s.ctxPhys s.warp.ctx x true).isSome = true) →
    ∃ t, exec .evArrivalLogAppend s = .next t
      ∧ (t.ctx s.warp.ctx).alog = c.alog ++ [{ kind := 0, gang := h, off := off, mask := 0xFFFF, data := data }]
      ∧ (t.ctx s.warp.ctx).alogHead = c.alogHead + 32 ∧ t.warp.regs.cnt.s = s.warp.regs.cnt.s - 1 ∧ t.sram = s.sram)
  ∧ (∀ a b x y : Nat, a < 256 → b < 256 → x < 256 → y < 256 →
    gfMul (a ^^^ b) x 8 = gfMul a x 8 ^^^ gfMul b x 8 ∧ gfMul a (x ^^^ y) 8 = gfMul a x 8 ^^^ gfMul a y 8 ∧ gfMul 1 x 8 = x)

/-- With all 32 lanes active in an unchecked grid, room in M and in the queue, and its tiles in the window and
operands aligned and claimed (memory tiles of global rows below the scratch window), each of MMA, MSCALE, TZERO,
TLOAD, TSTORE, TADDST, TMOVE, MQUANT and OPFENCE enters one entry that binds its operation, tiles and regions;
MBATCH writes and takes the next batch number, with room in the queue; MWAITB, with room there, of a complete
batch covers its entries and moves on, of one that is not complete it parks, and of a number not yet given it
raises BATCH_NUMBER. With a lane inactive each raises ILLEGAL_CONVERGENCE, and with its tile outside the window
TILE_RANGE. (R93, R169, R170, R184, R186, R187, R188, R191, R193, R199, R200) -/
def Obligations.MatrixWordsEnterTheQueue : Prop :=
  (∀ (f : BitVec 4) (k t p v h q : BitVec 2) (a b : BitVec 5) (z x : BitVec 1) (s : State),
    let full : Prop := s.snap.exec = 0xFFFFFFFF
    let room : Prop := Unchecked s ∧ s.warp.regs.cnt.m ≠ 63 ∧ (s.core s.snap.coreid.toNat).mq.length < 16
    let inWin (t : BitVec 2) : Prop := s.snap.vbnd.toNat + 512 * t.toNat + 511 < s.snap.vcount.toNat
    let tile (t : BitVec 2) : Nat := s.snap.vbnd.toNat + 512 * t.toNat
    let sa := (s.srcS a).toNat; let sb := (s.srcS b).toNat
    let scratch (base n : Nat) : Prop := s.scratchOk base n = true
    let kn := 32 * 2 ^ k.toNat; let bits := mmaBits f.toNat
    let len := 128 * cvSize v.toNat
    let rows (r : Region) : Prop := r = { global := false, base := sa, pitch := sb, len := len, rows := 128 }
    let rowsOk : Prop := sa % 16 = 0 ∧ sb % 16 = 0 ∧ len ≤ sb ∧ sb ≤ 2 ^ 24 ∧ ∀ i < 128, scratch (sa + i * sb) len
    let ga := (s.srcPair (BitVec.ofNat 4 (a.toNat / 2))).toNat
    let grows (r : Region) : Prop := r = { global := true, base := ga, pitch := sb, len := len, rows := 128 }
    let growsOk : Prop := ga % 16 = 0 ∧ sb % 16 = 0 ∧ len ≤ sb ∧ sb ≤ 2 ^ 24 ∧ ga + 127 * sb + len ≤ 0x000F000000000000
      ∧ ∀ g ∈ s.grids, ∀ q ∈ g.2.stable, q.2 = 0
    (¬ full → ∀ i ∈ ([.mma f k t a b z x, .mscale t p a b, .tzero t, .tload t a b z v, .tstore t a b z v, .taddst t a b z v,
        .tmove t p, .mquant q k t a b h, .opfence, .mbatch a, .mwaitb a] : List Instr), Traps (exec i s) s 10 s.snap.exec 0)
    ∧ (full → ¬ inWin t → ∀ i ∈ ([.mma f k t a b z x, .mscale t p a b, .tzero t, .tload t a b z v, .tstore t a b z v,
        .taddst t a b z v, .tmove t p, .mquant q k t a b h] : List Instr),
        Traps (exec i s) s 23 (t.setWidth 32) (s.snap.vbnd.setWidth 32))
    ∧ (full → room →
      (∃ u, exec .opfence s = .next u ∧ u.warp.opfence = s.nextEntry)
      ∧ Enqueues (exec .opfence s) s (fun e => e.op = .opfence)
      ∧ (inWin t →
        Enqueues (exec (.tzero t) s) s (fun e => e.op = .tzero ∧ e.dst = some (tile t))
        ∧ (inWin p → Enqueues (exec (.tmove t p) s) s fun e => e.op = .tmove ∧ e.dst = some (tile t) ∧ e.src = tile p)
        ∧ (sa % 128 = 0 → scratch sa (16 * kn * bits) → sb + kn * bits / 32 ≤ 16384 →
          Enqueues (exec (.mma f k t a b z x) s) s fun e => e.op = .mma f.toNat kn (decide (z = 1)) (decide (x = 1))
            ∧ e.dst = some (tile t) ∧ e.src = tile t ∧ e.reads = [{ base := sa, len := 16 * kn * bits }]
            ∧ e.bword = sb ∧ e.bwords = kn * bits / 32)
        ∧ (inWin p → sa % 64 = 0 → sb % 64 = 0 → scratch sa 256 → scratch sb 256 →
          Enqueues (exec (.mscale t p a b) s) s fun e => e.op = .mscale ∧ e.dst = some (tile t) ∧ e.src = tile p
            ∧ e.reads = [{ base := sa, len := 256 }, { base := sb, len := 256 }])
        ∧ (sa % 128 = 0 → sb % 64 = 0 → scratch sa (2048 * quantBits q.toNat) → scratch sb (256 * (128 / kn)) →
          Enqueues (exec (.mquant q k t a b h) s) s fun e => e.op = .mquant q.toNat kn (if h = 0 then 0 else 8 * 2 ^ h.toNat)
            ∧ e.src = tile t ∧ e.writes = [{ base := sa, len := 2048 * quantBits q.toNat }, { base := sb, len := 256 * (128 / kn) }])
        ∧ (rowsOk →
          Enqueues (exec (.tload t a b 0 v) s) s (fun e => e.op = .tload v.toNat ∧ e.dst = some (tile t) ∧ ∃ r, rows r ∧ e.reads = [r])
          ∧ Enqueues (exec (.tstore t a b 0 v) s) s (fun e => e.op = .tstore v.toNat ∧ e.src = tile t ∧ ∃ r, rows r ∧ e.writes = [r])
          ∧ Enqueues (exec (.taddst t a b 0 v) s) s (fun e => e.op = .taddst v.toNat ∧ e.src = tile t ∧ ∃ r, rows r ∧ e.writes = [r]))
        ∧ (growsOk →
          Enqueues (exec (.tload t a b 1 v) s) s (fun e => e.op = .tload v.toNat ∧ e.dst = some (tile t) ∧ ∃ r, grows r ∧ e.reads = [r])
          ∧ Enqueues (exec (.tstore t a b 1 v) s) s (fun e => e.op = .tstore v.toNat ∧ e.src = tile t ∧ ∃ r, grows r ∧ e.writes = [r])
          ∧ Enqueues (exec (.taddst t a b 1 v) s) s (fun e => e.op = .taddst v.toNat ∧ e.src = tile t ∧ ∃ r, grows r ∧ e.writes = [r])))))
  ∧ (∀ (d : BitVec 5) (s : State), s.snap.exec = 0xFFFFFFFF → (s.core s.snap.coreid.toNat).mq.length < 16 →
    exec (.mbatch d) s = .next { s with warp := { s.warp with
      pc := s.warp.pc.next, batch := s.warp.batch + 1, regs := s.warp.regs.setS d (s.warp.batch + 1) } })
  ∧ (∀ (a : BitVec 5) (s : State), let b := s.srcS a
    let done : Prop := ∀ e ∈ s.warp.flights, e.done = true ∨ 2 ^ 31 ≤ (b - e.batch).toNat
    s.snap.exec = 0xFFFFFFFF → Unchecked s → (s.core s.snap.coreid.toNat).mq.length < 16 → s.warp.latch = none ∨ s.warp.handler = true →
    (2 ^ 31 ≤ (s.warp.batch - b).toNat → Traps (exec (.mwaitb a) s) s 26 b s.warp.batch)
    ∧ ((s.warp.batch - b).toNat < 2 ^ 31 →
      (done → exec (.mwaitb a) s = .next { s with warp := { s.warp with
        pc := s.warp.pc.next, flights := s.warp.flights.filter fun e => decide (2 ^ 31 ≤ (b - e.batch).toNat) } })
      ∧ (¬ done → exec (.mwaitb a) s = .next { s with warp := { s.warp with pc := s.warp.pc.next, park := .batch b } })))

/-- The entry at the head of a core's queue, of the warp in the focus and untouched by a hazard, takes effect at
MATRIX_ENTRY: TZERO leaves 0 and TMOVE the source's element in every element of its tile; an MMA, with no
self-check and no damaged cell, leaves mmaElement of R189 over the tile and the operand bytes as they stand in
scratch and in the core's B slot; MSCALE leaves the fused product of R46 with the scales that stand in scratch;
a TLOAD of any element format leaves the elements that stand in its region, in scratch or, where the lines'
tokens are held, in memory. An admitted TSTORE leaves the tile's elements, rounded to the format, in every byte
of its region, TADDST their sums with what stood there, and MQUANT in its two regions of scratch each block's
scale and packed codes; no other byte changes. OPFENCE ends the time in which the array may read older words. No
other pool entry changes, the entry is done, the queue one shorter and M one lower. ADMISSION admits the
updating entry of a head with no other head presented, never one whose bytes overlap an admitted one, and none
while the point holds its 256 or 64. The tile that a checked primary's entry wrote is kept for its log. (R93,
R169, R171, R182, R184, R189, R191, R193, R194, R195, R196, R199) -/
def Obligations.MatrixEntriesTakeEffectInQueueOrder : Prop :=
  (∀ (s : State) (e : MEntry) (rest : List MEntry) (d : Nat), let k := s.ev.k; let g := s.gang e.gang
    let r := s.warp.regs
    let done (t : State) : Prop := (t.core k).mq = rest ∧ t.warp.regs.cnt.m = r.cnt.m - 1
      ∧ t.warp.flights = s.warp.flights.map fun (f : MEntry) => (if f.id = e.id then { f with
          done := true
          tile := if r.chkrole = 1 ∧ e.dst.isSome then t.warp.regs.tileWords (e.dst.getD 0) else f.tile } else f)
    let ends (t : State) : Prop := (t.core k).mq = rest ∧ t.warp.regs.cnt.m = r.cnt.m - 1 ∧ ∀ f ∈ t.warp.flights, f.id = e.id → f.done = true
    let tile (t : State) (f : Nat → Nat → Word) : Prop := done t ∧ t.mem = s.mem ∧ t.sram = s.sram
      ∧ (∀ i < 128, ∀ j < 128, t.warp.regs.tileAt d i j = f i j)
      ∧ ∀ n, ¬ (d ≤ n ∧ n < d + 512) → t.warp.regs.entry n = r.entry n
    (s.core k).mq = e :: rest → e.core = k → e.uid = s.warp.uid → e.waiting = none → s.warp.park = .ready →
    (∀ f ∈ s.warp.flights, f.id = e.id → f.hazard = false) →
    (e.dst = some d →
      (e.op = .tzero → ∃ t, exec .evMatrixEntry s = .next t ∧ tile t fun _ _ => 0)
      ∧ (e.op = .tmove → ∃ t, exec .evMatrixEntry s = .next t ∧ tile t fun i j => r.tileAt e.src i j)
      ∧ (∀ fn kn z ta a0 n, e.op = .mma fn kn z ta → e.src = d → e.reads = [{ base := a0, len := n }] →
          (s.core k).achkctl.getLsbD 17 = false → s.ev.bytes = [] → s.warp.stale = [] →
          let bits := mmaBits fn
          let a (i x : Nat) : Nat := bitsAt (fun m => s.sram.read (g.place (a0 + m))) (if ta then (x * 128 + i) * bits else (i * kn + x) * bits) bits
          let b (j x : Nat) : Nat := bitsAt (fun m =>
            (SMap.get s.bstore ((k * 128 + j) * 16384 + e.bword + m / 4) 0).extractLsb' (8 * (m % 4)) 8) (x * bits) bits
          ∃ t, exec .evMatrixEntry s = .next t
            ∧ tile t (mmaElement e.log fn kn z (fun i j => (r.tileAt d i j).toNat) a b))
      ∧ (∀ a0 b0, e.op = .mscale → s.warp.stale = [] → e.reads = [{ base := a0, len := 256 }, { base := b0, len := 256 }] →
          let code (base i : Nat) : Nat := wordOfBytes ((List.range 2).map fun m => s.sram.read (g.place (base + 2 * i + m)))
          ∃ t, exec .evMatrixEntry s = .next t
            ∧ tile t fun i j => mscaleElement (r.tileAt d i j).toNat (code a0 i) (code b0 j) (r.tileAt e.src i j).toNat)
      ∧ (∀ cv base pitch, cv < 3 → e.op = .tload cv → s.warp.stale = [] →
          e.reads = [{ base := base, pitch := pitch, len := 128 * cvSize cv, rows := 128 }] →
          ∃ t, exec .evMatrixEntry s = .next t ∧ tile t fun i j => tileLoad cv (wordOfBytes
            ((List.range (cvSize cv)).map fun m => s.sram.read (g.place (base + i * pitch + (cvSize cv * j + m))))))
      ∧ (∀ cv q place, cv < 3 → e.op = .tload cv → e.reads = [q] → q.global = true → q.rows = 128 → q.len = 128 * cvSize cv →
          RegionAt s e [.read] q place → r.chkrole = 0 → s.ev.b = false →
          (∀ x a, q.has x → place x = .phys a → LinesHeld s { clusterUser (clusterOfCore e.core) e.ctx 1 with stamp := e.id } false [a / 128]) →
          ∃ t, exec .evMatrixEntry s = .next t ∧ ends t ∧ t.mem = s.mem ∧ t.sram = s.sram
            ∧ (∀ i < 128, ∀ j < 128, t.warp.regs.tileAt d i j = tileLoad cv (wordOfBytes ((List.range (cvSize cv)).map fun m =>
                s.byteOf ((place (q.base + i * q.pitch + (cvSize cv * j + m))).byte 0))))
            ∧ ∀ n, ¬ (d ≤ n ∧ n < d + 512) → t.warp.regs.entry n = r.entry n))
    ∧ (∀ cv q place, cv < 3 → e.writes = [q] → q.base % 16 = 0 → q.pitch % 16 = 0 → q.len ≤ q.pitch → q.rows = 128 → q.len = 128 * cvSize cv →
      e.admitted = true → s.warp.stale = [] → e.dst = none →
      RegionAt s e [.read, .write] q place → r.chkrole = 0 → s.ev.b = false → (∀ g ∈ s.grids, ∀ p ∈ g.2.stable, p.2 = 0) →
      let held (u : TokUser) : Prop := ∀ x a, q.has x → place x = .phys a → LinesHeld s u true [a / 128]
      let byte (t : State) (i j m : Nat) : Byte := t.byteOf ((place (q.base + i * q.pitch + (cvSize cv * j + m))).byte 0)
      let puts (val : Nat → Nat → Nat) : Prop := ∃ t, exec .evMatrixEntry s = .next t ∧ ends t
        ∧ (∀ n, t.warp.regs.entry n = r.entry n)
        ∧ (∀ i < 128, ∀ j < 128, ∀ m < cvSize cv, (byte t i j m).toNat = val i j / 256 ^ m % 256)
        ∧ ∀ b, (∀ x, q.has x → (place x).byte 0 ≠ b) → t.byteOf b = s.byteOf b
      (e.op = .tstore cv → held (clusterUser (clusterOfCore e.core) e.ctx 1) → puts fun i j => tileStore cv (r.tileAt e.src i j))
      ∧ (e.op = .taddst cv → (q.global = false ∨ held (poolUser (clusterOfCore e.core) e.ctx 1)) →
        puts fun i j => tileAdd cv (wordOfBytes ((List.range (cvSize cv)).map (byte s i j))) (r.tileAt e.src i j)))
    ∧ (∀ fn kn n qa qb place, fn < 4 → kn ∈ [32, 64, 128] → n ∈ [0, 16, 32, 64] → e.op = .mquant fn kn n → e.admitted = true → e.dst = none →
      e.writes = [qa, qb] → let bits := quantBits fn
      qa = { base := qa.base, len := 2048 * bits } → qb = { base := qb.base, len := 256 * (128 / kn) } →
      RegionAt s e [] qa place → RegionAt s e [] qb place → (∀ x y, qa.has x → qb.has y → place x ≠ place y) →
      let block (i c : Nat) : Nat × List Nat := quantBlock e.log fn
        (((hadamardRow n ((List.range 128).map fun j => (r.tileAt e.src i j).toNat)).drop (c * kn)).take kn)
      let byte (t : State) (o : Nat) : Byte := t.byteOf ((place o).byte 0)
      ∃ t, exec .evMatrixEntry s = .next t ∧ ends t ∧ (∀ n, t.warp.regs.entry n = r.entry n)
        ∧ (∀ i < 128, ∀ c < 128 / kn, (block i c).1 = (byte t (qb.base + 256 * c + 2 * i)).toNat + 256 * (byte t (qb.base + 256 * c + 2 * i + 1)).toNat
          ∧ ∀ k < kn, bitsAt (fun m => if m < 2048 * bits then byte t (qa.base + m) else 0) (((c * 128 + i) * kn + k) * bits) bits
              = (block i c).2.getD k 0)
        ∧ ∀ b, (∀ x, qa.has x ∨ qb.has x → (place x).byte 0 ≠ b) → t.byteOf b = s.byteOf b)
    ∧ (e.op = .opfence → s.warp.out = [] → ∃ t, exec .evMatrixEntry s = .next t ∧ done t
        ∧ t.warp.stale = s.warp.stale.filter fun x => decide (e.id < x.stamp)))
  ∧ (∀ (s : State) (e : MEntry) (rest : List MEntry), let k := s.ev.k
    (s.core k).mq = e :: rest → e.updates = true → e.admitted = false →
    (e.presented = none → (∀ c ∈ s.cores, ∀ f, c.2.mq.head? = some f → f.id = e.id) →
      exec .evAdmission s = .next { s with
        nextPresent := s.nextPresent + 1
        cores := SMap.upd s.cores k {} fun c => { c with
          mq := { e with presented := some s.nextPresent, admitted := true } :: rest } })
    ∧ (∀ p f, e.presented = some p → f ∈ s.cores.filterMap (fun c => c.2.mq.head?) →
        f.id ≠ e.id → f.updates = true → f.admitted = true → f.shares e = true →
        ∃ t, exec .evAdmission s = .next t ∧ (t.core k).mq = e :: rest)
    ∧ ((if e.global then 256 else 64) ≤ ((s.cores.filterMap fun c => c.2.mq.head?).filter fun f => f.id != e.id && f.updates).countP
          (fun f => f.admitted && f.global == e.global && (e.global || clusterOfCore f.core == clusterOfCore e.core)) →
        exec .evAdmission s = .next s))

/-- FORCED_SPAN_END ends the span of a checked run of 2^24 groups. SPAN_END of a drained checked primary with no
matrix entry in flight writes its log and end checkpoint to the check area, parks it for the verdict and gives
Hazel its signatures, its end checkpoint, its start and its log. SPAN_RECORD of a span with no shadow, where a
core can take one, starts a shadow from the span's checkpoint with SSIG and RSIG 0 on that core, which is of
another cluster than the primary's. RUN_END of a shadow with no matrix entry in flight vacates it; with the
primary's signatures, no trap, no closing event and no version of the primary's left the vote is over and the
primary goes on in its next span with SSIG and RSIG 0; with another SSIG the vote waits for the tiebreak.
COMMIT, once the stack's pool holds the line, writes the bytes of one line of the winner, one of the store that
ends the span only when no other is left, and no other byte; while lines remain the vote stays. Where R318 to
R338 leave room, the model reads them as log 23 says. (R275, R321, R322, R323, R324, R329, R331, R335) -/
def Obligations.CheckedRunEvents : Prop :=
  (∀ s : State, s.warp.regs.chkrole ≠ 0 → 2 ^ 24 ≤ s.warp.span.groups →
    exec .evForcedSpanEnd s = .next { s with warp := { s.warp with span := { s.warp.span with ending := true } } })
  ∧ (∀ s : State, let w := s.warp
    w.regs.chkrole = 1 → w.span.ending = true → w.drained = true → w.park = .ready → w.flights = [] →
    ∃ t v, exec .evSpanEnd s = .next t ∧ t.votes = s.votes ++ [v] ∧ v.primary.uid = w.uid ∧ v.primary.core = w.regs.coreid.toNat
      ∧ v.primary.ssig = w.regs.ssig ∧ v.primary.rsig = foldSeal w ∧ v.primary.endState = w.checkpoint
      ∧ v.span = w.regs.spanno ∧ v.start = w.span.start ∧ v.log = w.span.log ∧ v.shadowCore = none ∧ v.winner = none
      ∧ t.warp.park = .verdict ∧ t.warp.regs = w.regs ∧ t.mem = (s.writeCheck w).mem ∧ t.others = (s.writeCheck w).others)
  ∧ (∀ (s : State) (v : Vote) (c : Nat), s.votes[s.ev.m]? = some v → v.shadowCore = none →
    s.chooseCore v.primary.endState.regs.vcount.toNat v.primary.core [clusterOfCore v.primary.core] = some c →
    ∃ t w, exec .evSpanRecord s = .next t ∧ t.votes[s.ev.m]? = some { v with shadowCore := some c }
      ∧ t.others = s.others ++ [w] ∧ w.regs.chkrole = 2 ∧ w.regs.coreid.toNat = c ∧ c / 4 ≠ v.primary.core / 4
      ∧ w.pc = v.start.pc ∧ w.regs.s = v.start.regs.s ∧ w.regs.win = v.start.entries ∧ w.regs.ssig = 0 ∧ w.regs.rsig = 0
      ∧ w.park = .ready ∧ t.mem = s.mem ∧ t.warp = s.warp)
  ∧ (∀ (s : State) (m : Nat) (v : Vote) (p : Warp), let w := s.warp
    w.regs.chkrole = 2 → w.span.ending = true → w.drained = true → w.flights = [] → w.span.stopped = false →
    w.span.incomplete = false → w.span.trap = none →
    s.votes.findIdx? (fun v => v.primary.uid == w.primary && v.span == w.regs.spanno) = some m → s.votes[m]? = some v →
    v.winner = none → v.tie = none → v.primary.differs = false → v.primary.trap = none →
    v.primary.closing = .none → v.primary.last = none → p ∈ s.others → p.uid = v.primary.uid → p.park = .verdict → p.held = false →
    (v.primary.ssig = w.regs.ssig → v.primary.rsig = foldSeal w →
      (∀ x ∈ s.versions, ¬ (x.uid = v.primary.uid ∧ x.span = v.span)) →
      ∃ t, exec .evRunEnd s = .next t ∧ t.votes = s.votes.eraseIdx m ∧ t.warp = {} ∧ t.mem = s.mem
        ∧ ∃ q ∈ t.others, q.uid = p.uid ∧ q.park = .ready ∧ q.pc = p.pc
          ∧ q.regs = { p.regs with spanno := p.regs.spanno + 1, ssig := 0, rsig := 0 })
    ∧ (v.primary.ssig ≠ w.regs.ssig →
      ∃ t r, exec .evRunEnd s = .next t ∧ t.votes[m]? = some { v with shadow := some r } ∧ r.ssig = w.regs.ssig
        ∧ r.core = w.regs.coreid.toNat ∧ t.warp = {} ∧ t.others = s.others ∧ t.mem = s.mem))
  ∧ (∀ (s : State) (v : Vote) (u : Nat) (x : Version), let all := s.versions.filter (fun x => x.uid == u && x.span == v.span)
    s.votes[s.ev.m]? = some v → v.winner = some u → 2 ≤ all.length → s.ev.n = 0 →
    (if ∀ y ∈ all, y.last = true then all else all.filter fun y => !y.last).head? = some x →
    (∀ g ∈ s.grids, ∀ q ∈ g.2.stable, q.2 = 0) → LinesHeld s (stackUser x.die x.ctx) true [x.line] → x.counted = [] →
    ∃ t, exec .evCommit s = .next t ∧ t.versions = s.versions.erase x ∧ t.votes = s.votes ∧ t.sram = s.sram
      ∧ t.mem = x.bytes.foldl (fun m b => m.write (x.line * 128 + b.1) b.2) s.mem)

/-- With no entry active for the line, a pool with 2 to 255 tokens and data grants a cluster's read one token; a
home with all 256 answers TREQR with all of them and the data, and gives TREQW everything and TREQB data only.
TOKD, TOKN, WBD and WBN add their tokens, owner token and validity to what a pool or home holds, and give a
cluster the line that it asked for, where a way is free; an answer of a cluster goes on from its pool unchanged;
DATAB brings data for the one access that asked. A write by a holder of the whole line needs no message; another
begins a request that goes to the home and, as any holder evicts, WBD carries all it has with the owner token
and WBN without. A message made urgent goes before all that are not. A request that times out is sent again up
to TRETRY times and then raised as PREQ; a bypass read becomes an ordinary miss. PREQ enters the table, and is
activated by PACT to all four tables where the line has no other entry; a PACT enters an active entry, empties
the pool it does not serve, and is acknowledged; a repeated demand goes to each caching cluster of the die.
PDONE marks the request served, or frees an entry that still waits, and once four PACKs are in PDEACT goes to
all four tables; a table other than the arbiter's own drops its entry and acknowledges; PACK counts, and the
fourth of a deactivation clears the arbiter's entry. PWATCH of an entry not served enters the recovery of its
line. What each message carries where the rules leave room is in log 35. (R218, R220, R235, R236, R238, R241,
R243, R244, R245, R246, R247, R248) -/
def Obligations.TokenMessages : Prop :=
  (∀ (s : State) (m : CohMsg), s.cohMsgs[s.ev.k]? = some m →
    let x := m.line; let h := m.dst; let rest := s.cohMsgs.eraseIdx s.ev.k
    let quiet : Prop := s.activeEntry (dieOfHolder h) x = none ∧ (s.toks.map fun q => q.1).Nodup
    let roomy : Prop := (SMap.find s.retention (256 * x + h)).isSome = true ∨ (s.sharers h x).length < s.waysOf h x
    (m.age = 0 → exec .evHeadUrgent s = .next { s with
      cohMsgs := rest.takeWhile CohMsg.urgent ++ { m with age := 64 } :: rest.dropWhile CohMsg.urgent })
    ∧ (quiet → h = homeHolder x → (s.tok h x).tok ≠ 0 →
      (m.type = 0 → (s.tok h x).tok = 256 → (s.tok h x).owner = true →
        ∃ t, exec .evTreqr s = .next t ∧ (t.tok h x).tok = 0
          ∧ t.cohMsgs = rest ++ [tokMsg x h m.src m.req 256 true (s.tok h x).dirty true m.ctx])
      ∧ (m.type = 1 → ∃ t, exec .evTreqw s = .next t ∧ (t.tok h x).tok = 0
          ∧ t.cohMsgs = rest ++ [tokMsg x h m.src m.req (s.tok h x).tok (s.tok h x).owner (s.tok h x).dirty (s.tok h x).owner m.ctx])
      ∧ (m.type = 2 → (s.tok h x).valid = true → ∃ t, exec .evTreqb s = .next t ∧ t.toks = s.toks
          ∧ t.cohMsgs = rest ++ [{ type := 5, line := x, src := h, dst := m.src, req := m.req, ctx := m.ctx, data := s.mem.readBytes (128 * x) 128 }]))
    ∧ (∀ i : Instr, (i, m.type) ∈ [(Instr.evTokd, 3), (.evTokn, 4), (.evWbd, 11), (.evWbn, 12)] →
      (∀ r, m.fwd = some r → s.activeEntry (dieOfHolder h) x = none →
        ∃ t, exec i s = .next t ∧ t.toks = s.toks ∧ t.cohMsgs = rest ++ [{ m with dst := r, fwd := none }])
      ∧ (m.fwd = none → m.tok ≠ 0 → quiet → roomy →
        (192 ≤ h → h < 200 → SMap.find s.quarantine (128 * x / 4096) = none → (s.tok h x).tok + m.tok ≤ 256 →
          (∀ q ∈ s.cohReqs, ¬ (q.holder = h ∧ q.line = x)) →
          ∃ t, exec i s = .next t ∧ t.cohMsgs = rest
            ∧ t.tok h x = { valid := (s.tok h x).valid || m.type == 3 || m.type == 11
                            dirty := (if m.owner then m.dirty else (s.tok h x).dirty) && ((s.tok h x).owner || m.owner)
                            owner := (s.tok h x).owner || m.owner
                            tok := (s.tok h x).tok + m.tok })
        ∧ (∀ q, h < 192 → s.cohReqs.find? (fun q => q.holder == h && q.line == x) = some q → s.caching h = true → q.hint ≠ 3 →
          ∃ t, exec i s = .next t ∧ t.cohMsgs = rest ∧ t.cohReqs = s.cohReqs.erase q
            ∧ t.tok h x = ⟨true, m.dirty && m.owner, m.owner, m.tok⟩)))
    ∧ (m.type = 5 →
      (∀ r, m.fwd = some r → ∃ t, exec .evDatab s = .next t ∧ t.cohMsgs = rest ++ [{ m with dst := r, fwd := none }])
      ∧ (∀ q, m.fwd = none → s.cohReqs.find? (fun q => q.holder == h && q.line == x && q.req == m.req && q.data.isEmpty
            && (isCluster h || q.bypass)) = some q →
        (q.relayed = false → exec .evDatab s = .next { s with cohMsgs := rest, cohReqs := s.cohReqs.replace q { q with data := m.data } })
        ∧ (q.relayed = true → ∃ t, exec .evDatab s = .next t ∧ t.cohReqs = s.cohReqs.erase q
            ∧ t.cohMsgs = rest ++ [{ type := 5, line := x, src := h, dst := q.req, req := q.req, ctx := q.ctx, data := m.data }])))
    ∧ (m.type = 6 → m.req < 196 → s.preq (homeDie x) m.req = none → (∀ a ∈ s.arbiters, a.line ≠ x) →
      (∀ r e, s.preq (homeDie x) r = some e → e.line ≠ x) →
      ∃ t, exec .evPreq s = .next t ∧ t.arbiters = s.arbiters ++ [{ line := x, req := m.req }]
        ∧ t.preq (homeDie x) m.req = some { rd := m.rd, ddie := m.ddie, line := x, rec_ := m.rec_, toHome := m.toHome }
        ∧ t.cohMsgs = rest ++ (List.range 4).map fun k =>
            { type := 7, line := x, src := homeDie x, dst := poolOf k, req := m.req, rd := m.rd, rec_ := m.rec_
              ddie := m.ddie, toHome := m.toHome })
    ∧ (∀ d < 4, h = poolOf d → (s.toks.map fun q => q.1).Nodup →
      (m.type = 7 → let e : PReq := { act := true, rd := m.rd, ddie := m.ddie, rec_ := m.rec_, line := x, toHome := m.toHome }
        ∃ t, exec .evPact s = .next t ∧ t.preq d m.req = some e
          ∧ { type := 10, line := x, src := h, dst := poolOf m.src, req := m.req } ∈ t.cohMsgs
          ∧ ((s.tok h x).tok ≠ 0 → h ≠ e.target → (t.tok h x).tok = 0
            ∧ tokMsg x h e.target m.req (s.tok h x).tok (s.tok h x).owner (s.tok h x).dirty (s.tok h x).owner 0xFFF ∈ t.cohMsgs))
      ∧ (m.type = 9 → d ≠ homeDie x → (s.preqs.map fun q => q.1).Nodup → (∀ q ∈ s.cohReqs, q.line ≠ x) → s.armed d x = false →
        ∃ t, exec .evPdeact s = .next t ∧ t.preq d m.req = none
          ∧ t.cohMsgs = rest ++ [{ type := 10, line := x, src := h, dst := poolOf m.src, req := m.req }]))
    ∧ (m.type = 8 →
      ((∃ a ∈ s.arbiters, a.line = x ∧ a.req = m.req) → (∀ a ∈ s.arbiters, a.line = x → a.acks < 4) → exec .evPdone s = .next { s with
        cohMsgs := rest
        arbiters := s.arbiters.map fun (a : Arbiter) => if a.line = x ∧ a.req = m.req then { a with done := true } else a })
      ∧ (∀ a : Arbiter, s.arbiters = [a] → a.line = x → a.req = m.req → a.clearing = false → a.acks = 4 →
        ∃ t, exec .evPdone s = .next t ∧ t.arbiters = [{ a with done := true, clearing := true, acks := 0 }]
          ∧ t.cohMsgs = rest ++ (List.range 4).map fun k =>
              { type := 9, line := x, src := homeDie x, dst := poolOf k, req := a.req })
      ∧ (∀ e, (∀ a ∈ s.arbiters, ¬ (a.line = x ∧ a.req = m.req)) → s.preq (homeDie x) m.req = some e → e.line = x → e.rec_ = false →
        exec .evPdone s = .next { s with cohMsgs := rest, preqs := SMap.del s.preqs (256 * homeDie x + m.req) }))
    ∧ (m.type = 10 →
      ((∀ a ∈ s.arbiters, a.line = x → a.acks < 3) → exec .evPack s = .next { s with
        cohMsgs := rest
        arbiters := s.arbiters.map fun (a : Arbiter) => if a.line = x then { a with acks := a.acks + 1 } else a })
      ∧ (∀ a : Arbiter, s.arbiters = [a] → a.line = x → a.clearing = true → a.acks = 3 → s.recoveries = [] →
        (s.preqs.map fun q => q.1).Nodup → (∀ r e, s.preq (homeDie x) r = some e → e.line = x → r = a.req) →
        ∃ t, exec .evPack s = .next t ∧ t.arbiters = [] ∧ t.preq (homeDie x) a.req = none ∧ t.cohMsgs = rest)))
  ∧ (∀ (s : State) (q : CohReq), let cl := s.ev.k; let x := s.ev.v.toNat; let h := poolOf (dieOfCluster cl); let k := s.tok h x
    cl < 192 → s.cohReqs.find? (fun q => q.holder == cl && q.line == x && !q.asked) = some q →
    s.activeEntry (dieOfHolder h) x = none → (SMap.find s.retention (256 * x + h)).isSome = true →
    k.valid = true → 2 ≤ k.tok → k.tok < 256 →
    ∃ t, exec .evClusterRead s = .next t ∧ t.tok h x = { k with dirty := k.dirty && k.owner, tok := k.tok - 1 }
      ∧ t.cohMsgs = s.cohMsgs ++ [tokMsg x h cl cl 1 false k.dirty true q.ctx]
      ∧ t.cohReqs = s.cohReqs.replace q { q with asked := true })
  ∧ (∀ (s : State) (u : TokUser) (x : Nat), let h := u.writer s x
    tokenLine x = true → (∀ q ∈ s.cohReqs, ¬ (q.holder = h ∧ q.line = x)) →
    (h < 196 → s.mayWrite h x = false → s.filterFull h x = false →
      ∃ t ms, s.askWrite u x = (t, false) ∧ t.toks = s.toks ∧ t.cohMsgs = s.cohMsgs ++ ms
        ∧ t.cohReqs = s.cohReqs ++ [{ holder := h, req := u.req, line := x, write := true, cl := u.cl, ctx := u.ctx, hint := u.hint }]
        ∧ { type := 1, line := x, src := h, dst := homeHolder x, req := u.req, ctx := u.ctx } ∈ ms
        ∧ ∀ a ∈ ms, a.type = 1 ∧ a.line = x ∧ a.src = h ∧ a.dst ≠ h ∧ a.tok = 0)
    ∧ (s.mayWrite h x = true → (SMap.find s.retention (256 * x + h)).isSome = true →
      ∃ t, s.askWrite u x = (t, true) ∧ t.cohMsgs = s.cohMsgs ∧ t.cohReqs = s.cohReqs
        ∧ t.tok h x = { s.tok h x with dirty := (s.tok h x).owner }))
  ∧ (∀ (s : State) (h x : Nat), let k := s.tok h x
    h < 196 → k.tok ≠ 0 → s.pinnedLine h x = false → (s.toks.map fun q => q.1).Nodup →
    ((s.evictTok h x).tok h x).tok = 0 ∧ (s.evictTok h x).cohMsgs = s.cohMsgs ++
      [{ type := if k.owner then 11 else 12, line := x, src := h, dst := if h < 192 then poolOf (dieOfHolder h) else homeHolder x
         req := h, tok := k.tok, owner := k.owner, dirty := k.dirty }])
  ∧ (∀ (s : State) (q : CohReq), s.cohReqs[s.ev.k]? = some q → 192 ≤ q.holder →
    (q.bypass = false → q.persistent = false → (s.tok q.holder q.line).tok = 0 → s.abandoned q = false → s.leads q = true →
      (q.tries < s.tretry (dieOfHolder q.holder) →
        ∃ t ms, exec .evTransientTimeout s = .next t ∧ t.cohReqs = s.cohReqs.replace q { q with tries := q.tries + 1 }
          ∧ t.toks = s.toks ∧ t.cohMsgs = s.cohMsgs ++ ms ∧ ∀ a ∈ ms, a.line = q.line ∧ a.src = q.holder)
      ∧ (s.tretry (dieOfHolder q.holder) ≤ q.tries → s.persistentInUse q.req = false →
        ∃ t, exec .evTransientTimeout s = .next t ∧ t.cohReqs = s.cohReqs.replace q { q with persistent := true }
          ∧ t.cohMsgs = s.cohMsgs ++ [{ type := 6, line := q.line, src := q.holder, dst := poolOf (homeDie q.line), req := q.req
                                        rd := !q.write, ddie := dieOfHolder q.holder, toHome := decide (196 ≤ q.holder), ctx := q.ctx }]))
    ∧ (q.bypass = true → q.data = [] → s.missRegisters q.holder (poolSlice q.line) < 128 →
      (∀ p ∈ s.cohReqs, p.holder = q.holder → p.line = q.line → p.write = true ∨ p.bypass = true) →
      ∃ t ms, exec .evBypassTimeout s = .next t ∧ t.cohReqs = s.cohReqs.erase q ++ [{ q with bypass := false }]
        ∧ t.toks = s.toks ∧ t.cohMsgs = s.cohMsgs ++ ms ∧ ∀ a ∈ ms, a.line = q.line ∧ a.src = q.holder ∧ a.type < 2))
  ∧ (∀ (s : State) (e : PReq), let d := s.ev.k % 4
    s.preq d s.ev.n = some e → e.act = true → ∃ t, exec .evPersistentDemandRepeat s = .next t ∧ t.toks = s.toks
      ∧ t.cohMsgs = s.cohMsgs ++ (s.cachingOf d).map fun cl =>
          { type := 1, line := e.line, src := poolOf d, dst := cl, req := s.ev.n })
  ∧ (∀ (s : State) (a : Arbiter), let d := homeDie a.line
    s.arbiters[s.ev.k]? = some a → a.done = false → a.clearing = false → s.recoveries = [] → s.persistentInUse (192 + d) = false →
    ∃ t, exec .evPwatch s = .next t ∧ t.recoveries = []
      ∧ t.preq d (192 + d) = some { rec_ := true, ddie := d, line := a.line, toHome := true })

/-- RING_REGISTER of a legal descriptor registers the ring it describes, an illegal one none, RING_UNREGISTER
clears it, DOORBELL keeps the count, RING_FREEZE stops the ring and writes RD to its descriptor, RING_REMAP lets
it go on. ENTRY_CONSUME of a ring not overrun advances RD in the ring and its descriptor and enters the node
with its count less the credits kept; a malformed entry without NODEID has status 1. A ready LAUNCH, COPY or
CHAIN node with a failed predecessor ends with 9. EVFENCE ends once no record of its transitive predecessors is
left to write, and the front end and Equinox write their first record write by write once the homes hold the
lines' tokens, with the last write its message; the COPY or CHAIN next in its turn goes to an engine with room,
a copy of no bytes ends; BUNDLE hands its members over, which are ready unless a TIMED record is still to act,
or fails them; SIGNAL completes with its record behind those of the front end; RESYNC writes its snapshot, or
where it does not fit the header with 12. A completed node leaves the table and its successor's count goes down,
or a credit is kept. LAUNCH past its limits ends with 7, an image's metadata merged before it is translated, too
large a cooperative one with 8, and else a grid of the merged launch is made. RPF_TRANSLATE ends with 2 for an
image that cannot be read and with its own status for one refused, and else caches the finalised image.
DEPOSIT_SORT of a grid whose gangs have retired writes its records in order, the runs of equal keys and their
number, and ends the grid and its node. The corners that the rules leave are in log 32. (R86, R314, R343, R345,
R347, R348, R351, R354, R356, R357, R359, R381) -/
def Obligations.RingsAndNodes : Prop :=
  (∀ s : State, let k := s.ev.k; let m := s.ev.m; let r := (s.ctx k).ring m
    let sets (i : Instr) (x : Ring) : Prop := ∃ t, exec i s = .next t ∧ (t.ctx k).ring m = x ∧ t.mem = s.mem ∧ t.warp = s.warp
    (∀ d, s.ev.v ≠ 0 → m < 64 → (s.ctx k).phase ≠ .none → s.ev.v.toNat % 64 = 0 →
      (s.onRing k m fun (x : Ring) => { ctl := x.ctl }).ringCount < 1024 → s.ctxWords k s.ev.v.toNat 16 = some d →
      let w (i : Nat) : Nat := (d.getD i 0).toNat
      let legal : Prop := w 0 < 2 ^ 10 ∧ w 0 / 32 % 8 = 0 ∧ w 1 = 0 ∧ (∀ i < 10, w (6 + i) = 0) ∧ 4 ≤ w 0 % 32 ∧ w 0 % 32 ≤ 16
        ∧ w 2 % 4096 = 0 ∧ ¬ ((w 0).testBit 9 = true ∧ (w 0).testBit 8 = true)
      (legal → sets .evRingRegister {
          addr := s.ev.v
          registered := true
          dev := (w 0).testBit 9
          hostmem := (w 0).testBit 8
          logn := w 0 % 32
          base := w 2 + 2 ^ 32 * w 3
          rd := d.getD 5 0
          doorbell := d.getD 5 0
          ctl := if (w 0).testBit 9 then 0 else r.ctl })
      ∧ (¬ legal → sets .evRingRegister { ctl := r.ctl }))
    ∧ sets .evRingUnregister { ctl := r.ctl }
    ∧ (r.registered = true → r.dev = false →
      sets .evDoorbell { r with doorbell := s.ev.v.setWidth 32, wakePending := r.wakePending || r.frozen })
    ∧ (∀ a, r.registered = true → r.frozen = false → (∀ g ∈ s.grids, ∀ q ∈ g.2.stable, q.2 = 0) → s.ctxPhys k (r.addr.toNat + 20) true = some a →
      ∃ t, exec .evRingFreeze s = .next t ∧ ((t.ctx k).ring m).frozen = true ∧ ((t.ctx k).ring m).rd = r.rd
        ∧ ((t.ctx k).ring m).wakePending = false ∧ t.mem.readNat a 4 = r.rd.toNat ∧ MemSameOutside s t a 4)
    ∧ (r.registered = true → (s.ctx k).phase ≠ .tornDown →
      sets .evRingRemap { r with frozen := false, wakePending := false, published := false }))
  ∧ (∀ (s u : State) (c k : Nat) (ws : List Word), let r := (s.ctx c).ring k
    let n : Node := { ctx := c, ring := k, words := ws }
    let cs := u.credits.filter fun x => !x.member && x.ctx == c && x.nodeid == n.nodeid
    s.ringTurns.find? (fun q => s.look q.1 ((s.ctx q.1).ring q.2) != .empty) = some (c, k) → s.look c r = .entry →
    s.ctxWords c (r.slot r.rd) 64 = some ws → r.overRun = none →
    (∃ v, s.ctxWords c (r.addr.toNat + 16) 1 = some [v] ∧ (v - r.rd).toNat ≤ 2 ^ r.logn) →
    ({ s with lastRing := c * 64 + k }.onRing c k fun (x : Ring) => { x with rd := x.rd + 1, overRun := none }).putCtxWords c (r.addr.toNat + 20) [r.rd + 1] = some u →
    (u.malformed n r.dev (r.ctl.getLsbD 3) = false → u.findNode c n.nodeid = none → cs.length ≤ (n.w 0).toNat % 2 ^ 16 →
      cs = [] ∨ (u.ctx c).nodeids.contains n.nodeid = false →
      ∃ t, exec .evEntryConsume s = .next t ∧ (t.node s.nextNode).words = ws ∧ (t.node s.nextNode).ctx = c
        ∧ (t.node s.nextNode).unmet = (n.w 0).toNat % 2 ^ 16 - cs.length ∧ t.nextNode = s.nextNode + 1
        ∧ ((t.ctx c).ring k).rd = r.rd + 1 ∧ t.mem = u.mem)
    ∧ (u.malformed n r.dev (r.ctl.getLsbD 3) = true → n.nodeid = 0 →
      ∃ t, exec .evEntryConsume s = .next t ∧ t.node s.nextNode = { n with finish := some 1 } ∧ ((t.ctx c).ring k).rd = r.rd + 1))
  ∧ (∀ (s : State) (n : Node), let h := s.ev.m
    let fin (i : Instr) (st : Nat) : Prop := ∃ t, exec i s = .next t ∧ t.node h = { n with finish := some st } ∧ t.mem = s.mem
    let runs (i : Instr) (job : Job) : Prop := ∃ t cl j, exec i s = .next t ∧ cl < 192 ∧ (s.cluster cl).engine.length < engineDepth
      ∧ (t.cluster cl).engine = (s.cluster cl).engine ++ [j] ∧ j.job = job ∧ j.ctx = n.ctx ∧ j.node = some h
      ∧ t.node h = { n with phase := .running, accepted := true } ∧ t.mem = s.mem
    SMap.find s.nodes h = some n → n.phase = .ready → n.finish = none →
    (∀ i : Instr, (i, n.type) ∈ [(Instr.evNodeLaunch, 0), (.evNodeCopy, 1), (.evNodeChain, 2)] → n.inherited ≠ 0 → fin i 9)
    ∧ (n.type = 5 → s.ev.b = false →
      ((∀ r ∈ s.records, ¬ r.id ∈ n.past) → fin .evNodeEvfence n.inherited)
      ∧ ((∃ r ∈ s.records, r.id ∈ n.past) → exec .evNodeEvfence s = .next s))
    ∧ (n.inherited = 0 → s.firstJob n = true → (∃ cl < 192, (s.cluster cl).engine.length < engineDepth) →
      (n.type = 1 → n.copy.len ≠ 0 → runs .evNodeCopy (.copy n.copy))
      ∧ (n.type = 2 → runs .evNodeChain (.chain (n.addr 12) 0 (s.ctx n.ctx).bank)))
    ∧ (n.type = 1 → n.inherited = 0 → s.firstJob n = true → n.copy.len = 0 → fin .evNodeCopy 0)
    ∧ (n.type = 3 → (∀ id ∈ n.members, s.findNode n.ctx id ≠ some h) →
      ∃ t, exec .evNodeBundle s = .next t
        ∧ (if n.inherited = 0 then (t.node h).phase = .running else (t.node h).finish = some 9)
        ∧ ∀ id ∈ n.members, ∀ m, s.findNode n.ctx id = some m → (s.node m).finish = none →
            if n.inherited = 0 then
              ((s.node m).phase = .waiting → (s.node m).unmet = 0 → s.parentEnded (s.node m) = true → (s.node m).type ≠ 3 →
                (t.node m).phase = if (s.node m).isTimed ∧ (s.node m).released = false then .waiting else .ready)
            else (t.node m).finish = some 9)
    ∧ (∀ a, n.type = 4 → s.ctxPhys n.ctx (n.addr 12) true = some a → (s.nodes.map fun q => q.1).Nodup →
      let va := n.addr 12; let x := (n.w 16).toNat
      ∃ t, exec .evNodeSignal s = .next t ∧ SMap.find t.nodes h = none
        ∧ (n.inherited = 0 ∨ (s.ctx n.ctx).fq.registered = false → t.records = s.records ++ [{
            id := s.nextRecord
            ctx := n.ctx
            words := [(va + 8, a + 8, BitVec.ofNat 32 n.inherited), (va + 12, a + 12, n.nodeid), (va + 16, a + 16, loHalf s.dtb),
              (va + 20, a + 20, hiHalf s.dtb)]
            va := va
            pa := a
            add := x.testBit 0
            value := pair (n.w 14) (n.w 15)
            msix := if x.testBit 1 then some (fld x 2 11) else none }])
        ∧ (n.inherited = 0 → t.mem = s.mem ∧ t.dev.msix = s.dev.msix))
    ∧ (n.type = 7 → s.ctxs.any (fun c => s.snapLost c.1 c.2) = false → let recs := s.snapCtxs ++ s.snapRings ++ s.snapNodes ++ s.snapRecs
      let need := 64 + 4 * recs.flatten.length
      ((n.w 14).toNat < need → ∃ ws : List Word, ws.length = 16
          ∧ ws.take 4 = [BitVec.ofNat 32 need, 12, loHalf s.dtb, hiHalf s.dtb]
          ∧ ∀ u, s.putCtxWords n.ctx (n.addr 12) ws = some u →
            exec .evNodeResync s = .next (u.onNode h fun (x : Node) => { x with finish := x.finish.or (some (if n.inherited ≠ 0 then n.inherited else 12)) }))
      ∧ (need ≤ (n.w 14).toNat → ∃ ws : List Word, ws.length = 16 + recs.flatten.length ∧ ws.drop 16 = recs.flatten
          ∧ ws.take 4 = [BitVec.ofNat 32 need, BitVec.ofNat 32 n.inherited, loHalf s.dtb, hiHalf s.dtb]
          ∧ ∀ u, s.putCtxWords n.ctx (n.addr 12) ws = some u →
            exec .evNodeResync s = .next (u.onNode h fun (x : Node) => { x with finish := x.finish.or (some n.inherited) }))))
  ∧ (∀ (s : State) (r : EvRecord), let gone (t : State) : Prop := t.records = s.records.filter fun x => x.id != r.id
    let at_ (st : Nat) (t : State) : Prop := ∀ x ∈ t.records, x.id = r.id → x.stage = st
    let old := BitVec.ofNat 64 (s.mem.readNat r.pa 8)
    s.ev.b = true → s.records.find? (fun r => r.engine == s.ev.n) = some r → (∀ x ∈ s.records, x.id = r.id → x = r) → r.fault = none →
    (∀ q ∈ r.writes old, ∀ l ∈ linesOf q.1 q.2.length, tokenLine l = true → s.mayWrite (homeHolder l) l = true) →
    (∀ g ∈ s.grids, ∀ q ∈ g.2.stable, q.2 = 0) →
    (r.stage = 0 → ∃ t, exec .evNodeEvfence s = .next t
      ∧ t.mem = r.words.foldl (fun m q => m.writeBytes q.2.1 (bytesOfNat 4 q.2.2.toNat)) s.mem
      ∧ if r.engine = 1 then gone t ∧ t.dev.msix = s.dev.msix ++ r.msix.toList else at_ 1 t ∧ t.dev.msix = s.dev.msix)
    ∧ (r.stage = 1 → r.engine ≠ 1 → ∃ t, exec .evNodeEvfence s = .next t ∧ at_ 2 t ∧ MemSameOutside s t r.pa 8 ∧ t.dev.msix = s.dev.msix
      ∧ t.mem.readNat r.pa 8 = (if r.add then old + r.value else r.value).toNat
      ∧ ∀ x ∈ t.records, x.id = r.id → x.old = if r.add then old else 0)
    ∧ (r.stage = 2 → ∃ t, exec .evNodeEvfence s = .next t ∧ gone t ∧ MemSameOutside s t (r.pa + 24) 8 ∧ t.dev.msix = s.dev.msix ++ r.msix.toList
      ∧ t.mem.readNat (r.pa + 24) 8 = r.old.toNat))
  ∧ (∀ (s : State) (n : Node), let h := s.ev.m
    SMap.find s.nodes h = some n → n.finish = some 0 → n.sub = false → (∀ t ∈ s.timed, t.node ≠ h) → (s.nodes.map fun q => q.1).Nodup →
    (n.nsucc = 0 → ∃ t, exec .evNodeComplete s = .next t ∧ SMap.find t.nodes h = none ∧ t.credits = s.credits ∧ t.mem = s.mem)
    ∧ (n.nsucc = 1 → n.w 4 ≠ 0 →
      (∀ g, (s.nodes.filter fun q => q.2.ctx == n.ctx && q.2.nodeid == n.w 4).map (·.1) = [g] → g ≠ h → (s.node g).unmet ≠ 0 →
        ∃ t, exec .evNodeComplete s = .next t ∧ SMap.find t.nodes h = none ∧ (t.node g).unmet = (s.node g).unmet - 1 ∧ t.mem = s.mem)
      ∧ (s.findNode n.ctx (n.w 4) = none → ∃ t x, exec .evNodeComplete s = .next t ∧ SMap.find t.nodes h = none
          ∧ t.credits = s.credits ++ [x] ∧ x.ctx = n.ctx ∧ x.nodeid = n.w 4 ∧ x.status = 0 ∧ x.member = false)))
  ∧ (∀ (s : State) (n : Node), let h := s.ev.m; let l := n.launch none
    let fin (i : Instr) (st : Nat) : Prop := ∃ t, exec i s = .next t ∧ t.node h = { n with finish := some st } ∧ t.mem = s.mem
    SMap.find s.nodes h = some n → n.phase = .ready → n.finish = none → n.type = 0 → n.inherited = 0 → n.nrun = none →
    (s.earlyBad n l = true → fin .evNodeLaunch 7)
    ∧ (s.earlyBad n l = false → l.native = true →
      (n.lateBad l = true → fin .evNodeLaunch 7)
      ∧ (n.lateBad l = false → l.coop = true → s.coopFits l = false → fin .evNodeLaunch 8)
      ∧ (∀ gs, n.lateBad l = false → l.coop = false ∨ s.coopFits l = true → n.groupTable l = some gs →
        ∃ t g, exec .evNodeLaunch s = .next t ∧ t.grid s.nextGrid = g ∧ g.ctx = n.ctx ∧ g.node = h ∧ g.launch = l
          ∧ g.gridid = (s.ctx n.ctx).nextGrid + 1 ∧ g.codeBase = l.image ∧ g.codeLen = l.npkt ∧ g.entry = l.entry ∧ g.groups = gs
          ∧ g.total = l.gx * l.gy * l.gz ∧ g.pinned = s.pinsOf n.ctx g.stable ∧ t.node h = { n with phase := .running, grid := s.nextGrid, accepted := true }
          ∧ t.nextGrid = s.nextGrid + 1 ∧ t.mem = s.mem))
    ∧ (s.earlyBad n l = false → l.native = false →
      (s.imageRecords n.ctx (n.addr 12) = none → fin .evRpfTranslate 2)
      ∧ (∀ rs, s.imageRecords n.ctx (n.addr 12) = some rs → n.mergedBad rs = true → fin .evNodeLaunch 7)
      ∧ (∀ rs, s.imageRecords n.ctx (n.addr 12) = some rs → n.mergedBad rs = false → s.cached rs = none →
        (∀ e, finalise rs = .error e → fin .evRpfTranslate e)
        ∧ (∀ f, finalise rs = .ok f → (s.images.foldl (fun t m => t + m.size) 0) + f.size ≤ 2 ^ 26 →
          exec .evRpfTranslate s = .next { s with
            images := { place := imagePlace s.nextImage, source := rs, npkt := f.npkt, entry := f.entry, size := f.size, metas := f.metas } :: s.images
            nextImage := s.nextImage + 1
            mem := f.bytes.foldl (fun mem q => mem.writeBytes (imagePlace s.nextImage + q.1) q.2) s.mem }))))
  ∧ (∀ (s : State) (cap used : Word) (ws : List Word), let gr := s.grid s.ev.k; let area := gr.launch.darea
    let recs := (List.range used.toNat).map fun i => (ws.drop (12 * i)).take 12
    area ≠ 0 → gr.ended = false → gr.lost = false → gr.total ≠ 0 → gr.total ≤ gr.retired →
    s.ctxWords gr.ctx area 2 = some [cap, used] → s.ctxWords gr.ctx (area + 64) (12 * used.toNat) = some ws →
    ∃ rs, rs.Perm recs ∧ rs.Pairwise (fun a b => depositRank a ≤ depositRank b) ∧ (keyRuns 0 rs).Pairwise (fun a b => a.1 < b.1)
      ∧ ((keyRuns 0 rs).map fun r => r.2.2).sum = used.toNat
      ∧ ∀ a b c, s.putCtxWords gr.ctx (area + 64) rs.flatten = some a →
        a.putCtxWords gr.ctx (area + 64 + 48 * cap.toNat)
          ((keyRuns 0 rs).flatMap fun r => [BitVec.ofNat 32 r.1, BitVec.ofNat 32 r.2.1, BitVec.ofNat 32 r.2.2]) = some b →
        b.putCtxWords gr.ctx (area + 8) [BitVec.ofNat 32 (keyRuns 0 rs).length] = some c →
        ∃ t, exec .evDepositSort s = .next t ∧ t.mem = c.mem ∧ (t.grid s.ev.k).ended = true
          ∧ t.endedGrids = s.endedGrids ++ [(gr.ctx, gr.gridid)]
          ∧ ∀ n, SMap.find s.nodes gr.node = some n → n.finish = none →
            (t.node gr.node).finish = some 0 ∧ (t.node gr.node).nrun = some (keyRuns 0 rs).length)

/-- PRET returns permits up to 8 and past 8 fences the cluster's cores. GANG_OFFER with nothing to offer only
frees what was reserved, and where the first offer before every ready COPY and CHAIN fits sends its PLACE or
RESTORE. PLACE claims cores and segments and starts the gang's warps with their argument words, their window all
markers and the grid's entry as program counter, zeroes a B-store that last belonged to another context, and
answers PLACED; a gang that does not fit is REFUSED. PLACED moves the rotation on and starts a cooperative grid
with its last gang; REFUSED returns the gang to the head of its level, and a context that waited for it alone is
SAVED; RETIRED counts it and with the last gang, no deposit area given, ends the grid and its node; FAULT takes
the message. DRIVER_PREEMPT makes a switch pending, stops injection and holds parked warps, DRIVER_RESUME ends
it. SAVE tells the leaf, with the address of the save image, and its leaf then saves the gang: GANG_SAVE of a
gang whose warps are all held keeps their image, frees its place and answers SAVED, or tears the context down
where the image fits nowhere; SAVED counts it, with the last the context is SAVED. RESTORE claims for a gang and
answers PLACED or REFUSED, as PLACE does, once no miss of a way that it takes is outstanding; but for a
cooperative grid, whose gangs start with the last PLACED, its arrival-log entries are performed and dropped, but
for pushes that find no room (log 24), and its warps, with no switch pending, are then no longer held and have
RESUMED set. WARP_BOOST of a ready warp boosts it for 256 groups. Which place is taken, and how a cooperative
grid waits, is in log 33. (R97, R353, R361, R363, R364, R365, R367, R369, R371, R372, R377, R434) -/
def Obligations.SchedulerAndSwitch : Prop :=
  (∀ s : State, let cl := s.ev.k; let c := s.cluster cl; let n := s.ev.n
    let held := if s.ev.b then c.permitsDown.toNat else c.permitsUp.toNat
    n ≠ 0 → cl < 192 →
    (held + n ≤ 8 → (∀ m ∈ s.msgs, m.cluster = cl → m.sent = true) → ∃ t, exec .evPret s = .next t ∧ t.cores = s.cores
      ∧ (t.cluster cl).permitsDown.toNat = c.permitsDown.toNat + (if s.ev.b then n else 0)
      ∧ (t.cluster cl).permitsUp.toNat = c.permitsUp.toNat + (if s.ev.b then 0 else n))
    ∧ (8 < held + n → ∃ t, exec .evPret s = .next t ∧ ∀ i < 4, (t.core (4 * cl + i)).fenced = true))
  ∧ (∀ s : State, let u := s.keepReserved
    (s.offers = [] → exec .evGangOffer s = .next { s with reserved := [] })
    ∧ (∀ o os p, u.firstOffers = o :: os →
      packGangs (u.grid o.grid).launch o.grid (u.rotation o.level) o.gangs u.view = some p →
      ∃ t, exec .evGangOffer s = .next t ∧ t.msgs.length = s.msgs.length + o.gangs.length
        ∧ ∀ x ∈ t.msgs.drop s.msgs.length, x.kind = (if o.restore then .restore else .place) ∧ x.cluster ∈ p.map (·.2)
            ∧ (t.gang x.gang).phase = (if o.restore then .restoring else .offered)))
  ∧ (∀ (s u : State) (h : Nat), let cl := s.ev.k; let g := u.gang h; let gr := u.grid g.grid; let l := gr.launch
    let answers (t : State) (k : LinkKind) : Prop :=
      t.msgs.length = u.msgs.length + 1 ∧ ∃ m, t.msgs.getLast? = some m ∧ m.cluster = cl ∧ m.kind = k ∧ m.gang = h
    let untold (v : State) (c : Nat) : Prop := ∀ m ∈ v.msgs, m.kind = .saved ∨ m.kind = .retired → (v.gang m.gang).ctx ≠ c
    (s.receive cl .place = some (h, u) → s.dev.fwState = 1 →
      (∀ cores segs, u.claim l g.ctx cl = some (cores, segs) → u.claimWaits cl (some (cores, segs)) = false → let ws := u.gangWarps h g cores
        ∃ t before, exec .evPlace s = .next t ∧ (t.gang h).phase = .running ∧ (t.gang h).cluster = cl ∧ (t.gang h).cores = cores
          ∧ (t.gang h).segs = segs ∧ answers t .placed ∧ t.others = before ++ ws
          ∧ ∀ w ∈ ws, w.gang = h ∧ w.pc = { packet := BitVec.ofNat 30 gr.entry } ∧ w.regs.win = [] ∧ w.regs.exec = 0xFFFFFFFF
              ∧ w.regs.vbnd = BitVec.ofNat 12 l.vbnd ∧ w.regs.vcount = BitVec.ofNat 12 l.vcount
              ∧ w.park = (if l.coop then .unstarted else .ready)
              ∧ (∀ i : Fin 32, w.regs.s[i] = if i.val < 16 then l.args.getD i.val 0 else 0)
              ∧ ∀ c ∈ cores, (u.core c).bOwner ≠ some g.ctx → ∀ n < 128 * 16384, SMap.get t.bstore (c * (128 * 16384) + n) 0 = 0)
      ∧ (∀ q, u.claim l g.ctx cl = some q → u.claimWaits cl (some q) = true → exec .evPlace s = .next s)
      ∧ (u.claim l g.ctx cl = none → exec .evPlace s = .next (u.post { cluster := cl, kind := .refused, gang := h })))
    ∧ (s.receive cl .placed = some (h, u) → (l.coop = true → ∀ x ∈ gr.gangs, (u.gang x).phase ≠ .restoring) →
      ∃ t, exec .evPlaced s = .next t ∧ (t.gang h).placed = true ∧ SMap.get t.lastCluster gr.prio 0 = (cl + 1) % 192
        ∧ (l.coop = false → t.others = u.others)
        ∧ (l.coop = true → gr.gangs.length = gr.total → (∀ x ∈ gr.gangs, x = h ∨ (u.gang x).placed = true ∨ (u.gang x).phase = .retired) →
            (t.grid g.grid).began = true ∧ ∀ w ∈ t.others, w.grid = g.grid → w.park ≠ .unstarted))
    ∧ (s.receive cl .placed = some (h, u) → l.coop = true → gr.gangs.length = gr.total →
      (∀ x ∈ gr.gangs, x = h ∨ (u.gang x).placed = true ∨ (u.gang x).phase = .retired) → (∀ x ∈ gr.gangs, (u.gang x).overflowed = false) →
      (∀ x ∈ gr.gangs, ∀ e ∈ (u.ctx (u.gang x).ctx).alog, e.gang ≠ x) →
      (∃ x ∈ gr.gangs, (u.gang x).phase = .restoring) →
      ∃ t, exec .evPlaced s = .next t ∧ ∀ x ∈ gr.gangs, (u.gang x).phase = .restoring → (t.gang x).phase = .running)
    ∧ (s.receive cl .refused = some (h, u) → l.coop = false →
      ∃ t, exec .evRefused s = .next t ∧ t.others = u.others ∧ t.msgs = u.msgs
        ∧ (t.gang h).phase = (if g.phase = .restoring then .saved else if g.phase = .offered then .waiting else g.phase)
        ∧ (g.phase = .offered → (u.ctx g.ctx).phase = .saving → (∀ k ∈ u.clusters, k.2.engine = []) →
            (∀ x ∈ u.gangs, x.1 ≠ h → x.2.ctx = g.ctx → x.2.phase ≠ .running ∧ x.2.phase ≠ .offered ∧ x.2.phase ≠ .restoring) →
            untold u g.ctx → (u.gangs.map fun q => q.1).Nodup → (t.ctx g.ctx).phase = .saved))
    ∧ (s.receive cl .retired = some (h, u) →
      ∃ t, exec .evRetired s = .next t ∧ (t.grid g.grid).retired = gr.retired + 1
        ∧ (gr.retired + 1 = gr.total → gr.lost = false → gr.ended = false → l.darea = 0 →
            (t.grid g.grid).ended = true ∧ t.endedGrids = u.endedGrids ++ [(gr.ctx, gr.gridid)]
            ∧ ∀ n, SMap.find u.nodes gr.node = some n → n.finish = none → (t.node gr.node).finish = some 0))
    ∧ (s.receive cl .fault = some (h, u) → exec .evFault s = .next u.settle)
    ∧ (s.receive cl .saved = some (h, u) →
      ∃ t, exec .evSaved s = .next t ∧ (t.ctx g.ctx).saveDone = (u.ctx g.ctx).saveDone + 1
        ∧ ((u.ctx g.ctx).phase = .saving → (∀ k ∈ u.clusters, k.2.engine = []) →
            (∀ x ∈ u.gangs, x.2.ctx = g.ctx → x.2.phase ≠ .running ∧ x.2.phase ≠ .offered ∧ x.2.phase ≠ .restoring) →
            untold u g.ctx → (t.ctx g.ctx).phase = .saved))
    ∧ (s.receive cl .restore = some (h, u) →
      (u.claim l g.ctx cl = none → exec .evRestore s = .next (u.post { cluster := cl, kind := .refused, gang := h }))
      ∧ (∀ q, u.claim l g.ctx cl = some q → u.claimWaits cl (some q) = true → exec .evRestore s = .next s)
      ∧ (∀ cores segs, u.claim l g.ctx cl = some (cores, segs) → u.claimWaits cl (some (cores, segs)) = false → l.coop = true →
        ∃ t, exec .evRestore s = .next t ∧ answers t .placed ∧ (t.gang h).phase = g.phase ∧ (t.gang h).cores = cores
          ∧ (t.gang h).segs = segs)
      ∧ (∀ cores segs, u.claim l g.ctx cl = some (cores, segs) → u.claimWaits cl (some (cores, segs)) = false → l.coop = false →
        g.overflowed = false → g.phase = .restoring →
        ∃ t, exec .evRestore s = .next t ∧ ∀ e ∈ (t.ctx g.ctx).alog, e.gang = h → e.kind = 3)
      ∧ (∀ cores segs, u.claim l g.ctx cl = some (cores, segs) → u.claimWaits cl (some (cores, segs)) = false → l.coop = false →
        g.overflowed = false → g.phase = .restoring → (∀ e ∈ (u.ctx g.ctx).alog, e.gang ≠ h) →
        (u.ctx g.ctx).switchPending = false → (∀ w ∈ g.image, w.ctx = g.ctx ∧ w.gang = h) →
        ∃ t, exec .evRestore s = .next t ∧ (t.gang h).phase = .running ∧ (t.gang h).cluster = cl ∧ (t.gang h).cores = cores
          ∧ (t.gang h).segs = segs ∧ (t.gang h).moved = false ∧ (t.gang h).image = [] ∧ answers t .placed
          ∧ ∀ w ∈ g.image, ∃ q ∈ t.others, q.uid = w.uid ∧ q.held = false ∧ q.regs.wstat = w.regs.wstat ||| wsRESUMED)))
  ∧ (∀ s : State, let c := s.ctx s.ev.k
    (c.noPreempt = false → c.phase = .running ∨ c.phase = .frozen →
      ∃ t, exec .evDriverPreempt s = .next t ∧ (t.ctx s.ev.k).switchPending = true ∧ (t.ctx s.ev.k).injectionStopped = true
        ∧ ((t.ctx s.ev.k).phase = .saving ∨ (t.ctx s.ev.k).phase = .saved)
        ∧ ∀ w ∈ t.others, w.ctx = s.ev.k → w.regs.chkrole.toNat < 2 → w.park.blocking = true → w.held = true)
    ∧ (c.phase = .saved → ∃ t, exec .evDriverResume s = .next t ∧ (t.ctx s.ev.k).switchPending = false
        ∧ (t.ctx s.ev.k).injectionStopped = false ∧ (t.ctx s.ev.k).phase ≠ .saved))
  ∧ (∀ s : State, let h := s.ev.m; let g := s.gang h; let ws := s.gangMembers h
    (s.ev.b = true → g.phase = .running → g.told = false → (s.ctx g.ctx).switchPending = true ∨ g.moved = true →
      ∃ t m, exec .evSave s = .next t ∧ (t.gang h).told = true ∧ (t.gang h).imageOff = s.imageEnd g.ctx
        ∧ t.msgs.length = s.msgs.length + 1 ∧ t.msgs.getLast? = some m ∧ m.cluster = g.cluster ∧ m.kind = .save ∧ m.gang = h
        ∧ ∀ base room, s.saveArea g.ctx = some (base, room) → m.image = base + s.imageEnd g.ctx)
    ∧ (∀ x u, s.ev.b = false → s.receive s.ev.k .save = some (x, u) → (u.gang x).told = true → (u.gang x).phase = .running →
      ∃ t, exec .evSave s = .next t ∧ (t.gang x).asked = true ∧ t.msgs = u.msgs ∧ t.others = u.others)
    ∧ (g.phase = .running → g.asked = true → (∀ w ∈ ws, s.savable w = true) → s.copiesHeld h = true →
      (s.cluster g.cluster).changes = [] →
      (s.writeImage h ws = none → ∃ t, exec .evGangSave s = .next t ∧ (t.ctx g.ctx).phase = .tornDown)
      ∧ (∀ u, s.writeImage h ws = some u →
        ∃ t, exec .evGangSave s = .next t ∧ (t.gang h).phase = .saved ∧ (t.gang h).image = ws.map (Warp.imaged g)
          ∧ (t.gang h).cores = [] ∧ t.mem = u.mem
          ∧ (∃ m, t.msgs.getLast? = some m ∧ m.cluster = g.cluster ∧ m.kind = .saved ∧ m.gang = h)
          ∧ ∀ w ∈ t.warp :: t.others, w.gang = h → w.park = .vacant ∨ 2 ≤ w.regs.chkrole.toNat)))
  ∧ (∀ s : State, s.warp.park = .ready → exec .evWarpBoost s = .next { s with
      fresh := s.fresh + 1
      warp := { s.warp with boost := true, boostCount := 256, boostAt := if s.warp.boost then s.warp.boostAt else s.fresh } })

/-- A TIMED node enters Equinox's store, LATE where T has passed. The next record that may act acts no earlier
than T, in LOCKED at most 50 ns after T where it is not LATE: PREEMPT makes a switch pending, RESUME ends it,
LAUNCH releases its node. STRAGGLER marks its record, GO and GOT reach the records of a context at one T. A sync
records its offset; the clock steps once in LOST, is LOCKED by the sixteenth near sync, in HOLDOVER after four
far ones, LOCKED again by a near one; the timeouts lead on to HOLDOVER and LOST. A context is created, released
and torn down, which loses its grids and freezes its rings. PRDONE wakes what waits for its tag, PRFAIL gives it
PAGE_FAULT, each closes the request. An invalidation with nothing outstanding that it translated leaves no TLB
entry of its range. UNFENCE frees a core. PWRLIM is held between 2,000 and 4,800, HPERIOD as written, PTROOT of
an invalid context with its mask, the loader window in READY. Where their homes hold the lines, host and peer
writes to pages that no stable range pins change those bytes alone, a peer's atomic its word, and reads return
the bytes, the word of BAR0; a completion ends its copy; a peer comes UP by a write and DOWN with the fabric
vector. Also R446, R448, R450, R452 and R458; the model's choices are in logs 6, 31, 34, 38 and 39. (R382, R383,
R384, R386, R387, R408, R416, R417, R445, R447, R451, R453) -/
def Obligations.TimedHostAndFabricEvents : Prop :=
  (∀ (s : State) (n : Node), SMap.find s.nodes s.ev.m = some n → n.phase = .ready → n.finish = none → n.type = 6 →
    n.inherited = 0 → s.timed.length < 256 →
    ∃ t r, exec .evNodeTimed s = .next t ∧ t.timed = s.timed ++ [r] ∧ r.node = s.ev.m ∧ r.target = (n.w 13).toNat
      ∧ r.action = (n.w 12).toNat % 4 ∧ r.time = pair (n.w 14) (n.w 15) ∧ r.acted = false ∧ r.done = none
      ∧ r.order = s.ev.m ∧ r.late = decide (r.time.toNat < s.dtb.toNat) ∧ (t.node s.ev.m).phase = .running)
  ∧ (∀ (s : State) (r : TimedRec), s.timed[s.ev.m]? = some r → s.mayAct r = true →
    (∀ x ∈ s.timed, s.mayAct x = true → x.before r = false) → r.time.toNat + 2 ^ 33 < 2 ^ 64 → s.dtb.toNat + 2 ^ 33 < 2 ^ 64 →
    let acts (i : Instr) (P : State → Prop) : Prop := ∃ t, exec i s = .next t ∧ P t ∧ r.time.toNat ≤ t.dtb.toNat
      ∧ s.dtb.toNat ≤ t.dtb.toNat ∧ (s.dev.clock = .locked → r.late = false → s.dtb.toNat ≤ r.time.toNat + 50 → t.dtb.toNat ≤ r.time.toNat + 50)
      ∧ (∃ x ∈ t.timed, x.node = r.node ∧ x.acted = true ∧ x.achieved = t.dtb) ∧ t.mem = s.mem
    (r.action = 1 → (s.ctx r.target).noPreempt = false → (s.ctx r.target).phase = .running →
      acts .evTimedPreempt fun t => (t.ctx r.target).switchPending = true ∧ (t.ctx r.target).injectionStopped = true)
    ∧ (r.action = 2 → (s.ctx r.target).phase = .saved →
      acts .evTimedResume fun t => (t.ctx r.target).switchPending = false ∧ (t.ctx r.target).injectionStopped = false)
    ∧ (∀ h, r.action = 0 → (s.nodes.filter fun q => q.2.ctx == r.target && q.2.nodeid == (s.node r.node).w 19).map (·.1) = [h] → (s.node h).isTimed = true →
      (s.node h).released = false → acts .evTimedLaunch fun t => (t.node h).released = true))
  ∧ (∀ (s : State) (r : TimedRec), s.timed[s.ev.m]? = some r → r.acted = true → r.done = none → r.straggler = false → r.action ≠ 0 →
    (∀ x ∈ s.timed, x.acted = true ∨ r.time.toNat + r.grace ≤ x.time.toNat + 50) →
    ∃ t, exec .evStraggler s = .next t ∧ ∃ x ∈ t.timed, x.node = r.node ∧ x.straggler = true)
  ∧ (∀ s : State, ∀ i ∈ ([.evGo, .evGot] : List Instr), exec i s = .next { s with
      timed := s.timed.map fun (t : TimedRec) => if t.target = s.ev.k ∧ t.time = s.ev.v then { t with go := true } else t })
  ∧ (∀ s : State, let d := s.dev; let x : Word := s.ev.v.setWidth 32
    let near : Prop := -40 ≤ x.toInt ∧ x.toInt ≤ 40
    (d.ptpctl.getLsbD 31 = true → ∃ t, exec .evPtpMessage s = .next t ∧ t.dev.ptpofs = x
      ∧ (d.clock = .lost → d.stepped = false → t.dtb = s.dtb - BitVec.ofInt 64 x.toInt ∧ t.dev.stepped = true ∧ t.dev.clock = .lost)
      ∧ (d.clock = .lost → d.stepped = true → t.dtb = s.dtb ∧ t.dev.clock = if near ∧ 15 ≤ d.syncGood then .locked else .lost)
      ∧ (d.clock = .locked → t.dtb = s.dtb ∧ t.dev.clock = if ¬ near ∧ 3 ≤ d.syncBad then .holdover else .locked)
      ∧ (d.clock = .holdover → t.dtb = s.dtb ∧ t.dev.clock = if near then .locked else .holdover))
    ∧ (d.clock = .locked → ∃ t, exec .evSyncTimeout s = .next t ∧ t.dev.clock = .holdover)
    ∧ (d.clock = .lost → ∃ t, exec .evSyncTimeout s = .next t ∧ t.dev.clock = .lost ∧ t.dev.syncGood = 0)
    ∧ (d.clock = .holdover → ∃ t, exec .evHoldoverTimeout s = .next t ∧ t.dev.clock = .lost))
  ∧ (∀ s : State, let k := s.ev.k; let c := s.ctx k
    let sets (i : Instr) (x : Ctx) : Prop := ∃ t, exec i s = .next t ∧ t.ctx k = x ∧ t.mem = s.mem ∧ t.warp = s.warp
    (k ≤ 4094 → s.ev.w.getLsbD 0 = true → c.phase = .none → sets .evContextCreate { c with ctl := 1, phase := .running })
    ∧ (s.ev.w.getLsbD 0 = false → c.phase = .tornDown → sets .evContextRelease c.released)
    ∧ (s.ev.w.getLsbD 1 = true → c.phase ≠ .none → c.phase ≠ .tornDown →
      ∃ t, exec .evTeardown s = .next t ∧ (t.ctx k).phase = .tornDown ∧ (∀ r ∈ (t.ctx k).rings, r.2.frozen = true)
        ∧ ∀ g, (SMap.find s.grids g).isSome = true → (s.grid g).ctx = k → (s.grid g).ended = false → (t.grid g).lost = true)
    ∧ (∀ r, c.request (s.ev.w.toNat % 2 ^ 32) = some r → let tag := s.ev.w.toNat % 2 ^ 32
      (∃ t, exec .evPrdone s = .next t ∧ (t.ctx k).request tag = none
        ∧ ∀ w ∈ s.others, ∀ a b f, w.park = .fault tag a b f → w.ctx = k → w.held = false → { w with park := .ready } ∈ t.others)
      ∧ ((∀ q ∈ s.clusters, ∀ j ∈ q.2.engine, j.waiting ≠ some tag) → (∀ q ∈ s.cores, ∀ e ∈ q.2.mq, e.waiting ≠ some tag) →
        ∃ t, exec .evPrfail s = .next t ∧ (t.ctx k).request tag = none
          ∧ ∀ w ∈ s.others, ∀ a b f, w.park = .fault tag a b f → w.ctx = k → w.held = false →
              { w with park := .ready, pendTrap := some (causePageFault, a, b, w.pc) } ∈ t.others))
    ∧ (s.ev.w.getLsbD 0 = true → c.phase ≠ .none → sets .evInvalidate { c with invctl := 1, invalidating := true })
    ∧ (c.invalidating = true → s.translatedIn k c = false →
      sets .evInvalidationDone { c with invctl := 0, invalidating := false, tlb := c.tlb.filter fun e => !c.invalidates e.vpage e.pages })
    ∧ (s.ev.w.getLsbD 31 = true → s.ev.w.toNat % 1024 < 768 → ∃ t, exec .evUnfence s = .next t
        ∧ t.core (s.ev.w.toNat % 1024) = { s.core (s.ev.w.toNat % 1024) with fenced := false, demerits := 0 }))
  ∧ (∀ s : State, let v := loHalf s.ev.w; let off := s.ev.v.toNat
    let writes (P : State → Prop) : Prop := ∃ t, exec .evRegisterWrite s = .next t ∧ P t ∧ t.mem = s.mem ∧ t.warp = s.warp
    (s.ev.n = 4 →
      (off = 0x18 → writes fun t => t.dev.pwrlim.toNat = max 2000 (min 4800 (v.toNat % 8192)))
      ∧ (off = 0x20 → writes fun t => t.dev.hperiod = v)
      ∧ (0x800000 ≤ off → off < 0x1000000 → off % 4 = 0 → s.dev.fwState = 1 →
          writes fun t => t.dev.loader.readNat (off - 0x800000) 4 = v.toNat))
    ∧ (∀ k < 4095, s.ev.n = 8 → off = 0x1000008 + 4096 * k → (s.ctx k).ctl.getLsbD 0 = false →
        writes fun t => (t.ctx k).ptroot = s.ev.w &&& 0x000FFFFFFFFFF001)
    ∧ (s.ev.b = false → s.ev.k = 1 → s.ev.n = 4 → off < 2 ^ 26 → off % 4 = 0 →
        exec .evInboundRead s = .next { s with dev := { s.dev with replies := bytesOfNat 4 (s.barRead off).toNat } })
    ∧ exec .evLinkRetrain s = .next { s with dev := { s.dev with hostcap := BitVec.ofNat 32 (s.ev.n % 8) } })
  ∧ (∀ s : State, let bs := s.ev.bytes; let pa := s.ev.v.toNat; let len := if s.ev.n = 14 then 8 else 4
    let wrote (t : State) (a : Nat) (bs : List Byte) : Prop := (∀ i < bs.length, t.mem.read (a + i) = bs.getD i 0) ∧ MemSameOutside s t a bs.length
    let held (write : Bool) (a n : Nat) : Prop := ∀ x ∈ linesOf a n, LinesHeld s (homeUser x) write [x]
    s.ingress = [] → (∀ g ∈ s.grids, ∀ q ∈ g.2.stable, q.2 = 0) → (∀ w ∈ s.allWarps, w.flights = []) →
    (bs.length ≤ 4096 →
      (∀ a, s.ev.b = false → s.ev.k ≠ 1 → s.ev.k ≠ 2 → s.bar2 bs.length = some a → held true a bs.length →
        ∃ t, exec .evInboundWrite s = .next t ∧ wrote t a bs ∧ t.ingress = [])
      ∧ (s.peerAsks bs.length = true → held true pa bs.length →
        (∃ t, exec .evTransportWrite s = .next t ∧ wrote t pa bs ∧ t.ingress = [])
        ∧ ∃ t, exec .evCpypeerData s = .next t ∧ wrote t pa bs ∧ t.ingress = []))
    ∧ (∀ x, s.ev.n < 15 → s.peerAsks len = true → pa % len = 0 → held true pa len →
      atomOp s.ev.n (s.mem.readNat pa len) (s.ev.w.toNat % 2 ^ (8 * len)) (s.ev.m % 2 ^ 32) = some x →
      ∃ t, exec .evTransportAtomic s = .next t ∧ wrote t pa (bytesOfNat len x)
        ∧ t.dev.replies = bytesOfNat len (s.mem.readNat pa len))
    ∧ (s.ev.n ≤ 4096 →
      (∀ a, s.ev.b = false → s.ev.k ≠ 1 → s.bar2 s.ev.n = some a → held false a s.ev.n →
        ∃ t, exec .evInboundRead s = .next t ∧ t.mem = s.mem ∧ t.dev.replies = s.mem.readBytes a s.ev.n)
      ∧ (s.peerAsks s.ev.n = true → held false pa s.ev.n →
        ∃ t, exec .evTransportRead s = .next t ∧ t.mem = s.mem ∧ t.dev.replies = s.mem.readBytes pa s.ev.n)))
  ∧ (∀ s : State,
    (∀ j, (s.cluster s.ev.k).engine[s.ev.m]? = some j → j.sent = true → j.warp = some s.warp.uid → s.warp.park ≠ .vacant → j.node = none →
      ∃ t, exec .evTransportCompletion s = .next t ∧ (t.cluster s.ev.k).engine = (s.cluster s.ev.k).engine.eraseIdx s.ev.m
        ∧ t.warp.regs.cnt.c = s.warp.regs.cnt.c - 1 ∧ t.mem = s.mem)
    ∧ (s.ev.k < 512 → s.ev.w.toNat / 2 ^ 8 % 4 = 1 → ∃ t, exec .evPeerSetUp s = .next t ∧ (SMap.get t.peers s.ev.k {}).state = 1
        ∧ (∀ i : Fin 8, s.ev.w.getLsbD i = true → 4 + i.val ∉ t.dev.portsDown)
        ∧ (SMap.get t.peers s.ev.k {}).ports = s.ev.w.setWidth 8 ∧ (SMap.get t.peers s.ev.k {}).mac = (SMap.get s.peers s.ev.k {}).mac)
    ∧ ((SMap.get s.peers s.ev.k {}).state = 1 → ∃ t, exec .evPeerDown s = .next t ∧ (SMap.get t.peers s.ev.k {}).state = 2
        ∧ ((∀ q ∈ s.clusters, q.2.engine = []) → t.dev.msix = s.dev.msix ++ [s.dev.vecfab.toNat % 2048] ∧ t.mem = s.mem)))

/-- A replayed group counts on its core and sets REPLAYED, and the sixteenth in a row loses its grid. A
corrected error that an access or a running scrub finds enters its log, and one that reaches the threshold
retires its L3 line. A quarantined page is cleaned to zeros a millisecond later, and a clean one that is not
lasting is returned by QCLEAR. A domain never crossed is lowered a step. An uncorrectable error, found by an
access or by a scrub that runs, of a claimed scratch segment loses the owner's grid, one of a memory word tears
down each context that maps the page and quarantines it. A warm reset keeps physical memory where no line is
dirty, HSEC, the error logs and the demerits and no scratch; a cold reset no memory of the device. The clock
steps by 50 MHz between 800 and 2,000; at 800 a power trip, and at any clock 105 °C or low flow, turn the module
off. Each hour lowers demerits by 1. Requests for health records are kept and merged, and a record is written at
the next slot of its ring, with its magic and sequence number, and to no other byte. LDRGO starts verification,
which ends READY or FAIL; a missed heartbeat tears down every live context. A performance counter that is on for
an event that only timing counts counts it modulo 2^48 and sets OVF where it wraps; retransmissions are counted,
the ninth of one flit takes a port's link down, discards are counted. Also R31, R452, R458 and R459; the model's
choices are in logs 1, 36, 37 and 40. (R223, R404, R405, R406, R411, R424, R435, R438, R442, R455, R456, R457)
-/
def Obligations.ErrorHealthAndResetEvents : Prop :=
  (∀ s : State, let w := s.warp; let c := w.regs.coreid.toNat; w.park = .ready →
    (w.replays + 1 < 16 → exec .evGroupReplay s = .next { s with
      cores := SMap.upd s.cores c {} fun (c : Core) => { c with replaycnt := c.replaycnt + 1 }
      others := s.others.map fun v => if v.regs.coreid = w.regs.coreid then { v with replays := 0 } else v
      warp := { w with ibuf := none, replays := w.replays + 1, regs := { w.regs with wstat := w.regs.wstat ||| wsREPLAYED } } })
    ∧ (16 ≤ w.replays + 1 → (s.grid w.grid).ended = false →
      ∃ t, exec .evGroupReplay s = .next t ∧ (t.grid w.grid).lost = true ∧ (t.core c).limitHit = true))
  ∧ (∀ s : State, let lv := s.ev.n % 7; let p := errPlace lv s.ev.m s.ev.w.toNat s.ev.v.toNat
    (s.ev.b = true → s.ev.k ≠ 1 → s.scrubs p.level = false → exec .evScrubStep s = .next s)
    ∧ (s.ev.b = true → s.ev.k = 1 ∨ s.scrubs p.level = true →
    ((∀ e ∈ s.errors, e.isAt p = false) → (s.errTable p.die p.level).length < 256 → 1 < (s.winctl p.level).1 →
      ∃ t e, exec .evScrubStep s = .next t ∧ t.errors = s.errors ++ [e] ∧ e.isAt p = true ∧ e.wcnt = 1 ∧ e.ue = false
        ∧ e.scrub = (s.ev.k != 1) ∧ e.last = s.dtb ∧ t.mem = s.mem)
    ∧ (∀ e, lv = 4 → s.errors = [e] → e.isAt p = true → e.lasting = false → s.dev.hsec.toNat < e.window + (s.winctl 4).2 →
        (s.winctl 4).1 ≤ min 255 (e.wcnt + 1) →
        ∃ t x, exec .evScrubStep s = .next t ∧ t.errors = [x] ∧ x.retired = true ∧ x.lasting = true
          ∧ t.retiredUnits = s.retiredUnits ++ [(4, p.loc / 128 * 4 + p.die)] ∧ t.mem = s.mem)))
  ∧ (∀ s : State, let page := s.ev.v.toNat
    let due := (SMap.get s.dev.quarDtb page 0).toNat + 1000000
    SMap.find s.quarantine page = some false → s.dev.hfq.registered = false → due < 2 ^ 64 →
    due ≤ s.dtb.toNat ∨ s.dtbLimit due = due →
    ∃ t, exec .evQuarantineClean s = .next t ∧ SMap.find t.quarantine page = some true
      ∧ (∀ i < 4096, t.mem.read (page * 4096 + i) = 0) ∧ MemSameOutside s t (page * 4096) 4096
      ∧ due ≤ t.dtb.toNat)
  ∧ (∀ s : State, let page := s.ev.v.toNat / 4096
    s.ev.v.toNat % 4096 = 0 → SMap.find s.quarantine page = some true → ((memPlace (page * 4096)).level, page) ∉ s.retiredUnits →
    exec .evQclear s = .next { s with quarantine := SMap.del s.quarantine page })
  ∧ (∀ s : State, let k := s.ev.k; k < 196 → s.ev.b = false → (s.domain k).crossed = none → (s.domain k).steps < 5 →
    ∃ t, exec .evAdaptiveUndervolting s = .next t ∧ t.domain k = { s.domain k with steps := (s.domain k).steps + 1 })
  ∧ (∀ s : State, let g := (s.gang (s.segment s.ev.m s.ev.n).gang).grid
    (s.ev.k = 2 → (s.ev.b = true → s.scrubs 2 = true) → s.ev.m < 192 → s.ev.n < 32 → (s.segment s.ev.m s.ev.n).claimed = true → (s.segment s.ev.m s.ev.n).mode ≠ .cache →
      (s.grid g).lost = false → (s.grid g).ended = false → ∃ t, exec .evUncorrectable s = .next t ∧ (t.grid g).lost = true)
    ∧ (s.ev.k = 6 → cacheable s.ev.v.toNat = true → (s.ev.b = true → s.scrubs (memPlace s.ev.v.toNat).level = true) → ∃ t, exec .evUncorrectable s = .next t
        ∧ (SMap.find t.quarantine (s.ev.v.toNat / 4096)).isSome = true
        ∧ ∀ c ∈ s.mappers (s.ev.v.toNat / 4096), (s.ctx c).phase ≠ .none → (t.ctx c).phase = .tornDown))
  ∧ (∀ s : State, (s.ev.w = 0xA5 → ∃ t, exec .evWarmReset s = .next t ∧ (s.memCopy = [] → ∀ a < 2 ^ 52, t.mem.read a = s.mem.read a)
        ∧ t.sram = [] ∧ t.warp = {} ∧ t.others = [] ∧ t.ctxs = [] ∧ t.errors = s.errors ∧ t.dev.hsec = s.dev.hsec ∧ t.dev.fwState = 0
        ∧ t.dev.clock = .lost ∧ ∀ c, (t.core c).demerits = (s.core c).demerits ∧ (t.core c).clk = 0)
    ∧ (s.ev.w ≠ 0xA5 → exec .evWarmReset s = .next s)
    ∧ ∃ t, exec .evColdReset s = .next t ∧ (∀ a, t.mem.read a = if 2 ^ 42 ≤ a ∧ a < 2 ^ 52 then s.mem.read a else 0)
        ∧ t = { State.reset with mem := t.mem, agenda := s.agenda, ev := s.ev, fresh := s.fresh })
  ∧ (∀ s : State, let off : State := { s with dev := { s.dev with off := true, fwReason := 4 } }
    exec .evClockStep s = .next { s with dev := { s.dev with mhz := if s.ev.b then min 2000 (s.dev.mhz + 50) else max 800 (s.dev.mhz - 50) } }
    ∧ exec .evJunction95 s = .next { s with dev := { s.dev with mhz := max 800 (s.dev.mhz - 50) } }
    ∧ exec .evPowerTrip s = .next (if s.dev.mhz = 800 then off else s)
    ∧ exec .evJunction105 s = .next off ∧ exec .evFlowLow s = .next off)
  ∧ (∀ s : State, let hour := (s.dev.hsec.toNat / 3600 + 1) * 3600; let p := s.dev.hperiod.toNat; let d := s.dev
    (hour < 2 ^ 32 → s.ev.n = 0 → ∃ t, exec .evDemeritDecay s = .next t ∧ t.dev.hsec.toNat = hour
      ∧ ∀ c, (t.core c).demerits.toNat = (s.core c).demerits.toNat - 1)
    ∧ (p ≠ 0 → (d.hsec.toNat / p + 1) * p < 2 ^ 32 → ∃ t, exec .evHealthPeriodic s = .next t
        ∧ t.dev.hsec.toNat = (d.hsec.toNat / p + 1) * p ∧ t.dev.healthAsk = d.healthAsk ++ [1])
    ∧ (s.ev.w = 1 → exec .evHreq s = .next { s with dev := { d with
        healthAsk := if 0 ∈ d.healthAsk then d.healthAsk else d.healthAsk ++ [0]
        askNonce := d.hnonce } })
    ∧ (∀ c rest, d.healthAsk = c :: rest → d.hq.registered = true → d.hq.full = false →
      ∃ t, exec .evHealthRecord s = .next t ∧ t.dev.healthAsk = rest ∧ t.dev.hq.wr = d.hq.wr + 1 ∧ t.dev.healthSeq = d.healthSeq + 1
        ∧ t.mem.readNat (d.hq.slot 11584) 4 = 0x484C5448 ∧ t.mem.readNat (d.hq.slot 11584 + 16) 8 = (d.healthSeq + 1).toNat
        ∧ MemSameOutside s t (d.hq.slot 11584) 11584)
    ∧ (s.ev.w = 1 → d.fwState = 1 ∨ d.fwState = 2 → exec .evLdrgo s = .next { s with dev := { d with fwState := 3, fwReason := 0 } })
    ∧ (d.fwState = 0 ∨ d.fwState = 3 → exec .evFirmwareVerified s = .next { s with dev := { d with
        fwState := if s.ev.b then 1 else 2
        fwReason := if s.ev.b then 0 else if s.ev.n = 3 then 3 else 1
        fwVersion := if s.ev.b then BitVec.ofNat 16 s.ev.n else 0
        fwImage := if !s.ev.b then d.fwImage else if d.fwState = 3 then (List.range d.ldrlen.toNat).map d.loader.read else [] } })
    ∧ (d.fwState = 1 → ∃ t, exec .evHeartbeatMissed s = .next t ∧ t.dev.fwState = 2 ∧ t.dev.fwReason = 2
        ∧ ∀ c, (SMap.find s.ctxs c).isSome = true → (s.ctx c).phase ≠ .none → (t.ctx c).phase = .tornDown))
  ∧ (∀ s : State, let c := s.ev.k; let n := s.ev.n; let old := SMap.get (s.core c).pmc n 0
    let sel := SMap.get (s.core c).pmcsel n 0
    (s.ev.b = false → c < 768 → n < 8 → timedEvent false (sel.toNat % 256) = true → pmcCounts sel (sel.toNat % 256) s.ev.m = true →
      ∃ t, exec .evPmcWrap s = .next t ∧ (SMap.get (t.core c).pmc n 0).toNat = (old.toNat + s.ev.v.toNat) % 2 ^ 48
        ∧ (2 ^ 48 ≤ old.toNat + s.ev.v.toNat → (SMap.get (t.core c).pmcsel n 0).getLsbD 29 = true) ∧ t.mem = s.mem)
    ∧ (let k := s.ev.k % 12; k ∉ s.dev.portsDown →
      (s.ev.b = false ∨ k < 4 ∨ SMap.get s.dev.retxRow k 0 < 8 →
        ∃ t, exec .evFlitRetransmit s = .next t ∧ SMap.get t.dev.retx k 0 = SMap.get s.dev.retx k 0 + 1)
      ∧ (s.ev.b = true → 4 ≤ k → 8 ≤ SMap.get s.dev.retxRow k 0 →
        ∃ t, exec .evFlitRetransmit s = .next t ∧ k ∈ t.dev.portsDown ∧ t.dev.retx = s.dev.retx))
    ∧ (∃ t, exec .evParityDiscard s = .next t ∧ t.cluster (s.ev.k % 192)
        = { s.cluster (s.ev.k % 192) with parcnt := (s.cluster (s.ev.k % 192)).parcnt + 1 }))

/-- At State.reset no warp is resident, no context, grid, gang or node exists, every segment of every cluster is
in CACHE mode and belongs to no gang, the DTB clock is LOST and CLK is 0, the home of each line holds all 256
tokens with the owner token and no other holder any, the command links hold 8 permits each way, the self-check,
scrub, window and token-timeout registers have the values of their tables, the module's clock is 2.0 GHz,
memory, scratch and loader window are in canonical form and list nothing, and a fresh warp's registers have EXEC
all ones, FPMODE 8 and the counters 0. What is empty or 0 without a rule is the model's choice (logs 1 and 4).
(R100, R175, R207, R228, R237, R361, R423, R436, R457) -/
def Obligations.ResetState : Prop :=
  State.reset.memWf = true ∧ State.reset.mem = [] ∧ State.reset.sram = [] ∧ State.reset.warp.park = .vacant ∧ State.reset.others = []
  ∧ State.reset.ctxs = [] ∧ State.reset.grids = [] ∧ State.reset.gangs = [] ∧ State.reset.nodes = []
  ∧ (∀ cl seg, (State.reset.segment cl seg).mode = .cache ∧ (State.reset.segment cl seg).claimed = false)
  ∧ State.reset.dev.clock = .lost ∧ (∀ c, (State.reset.core c).clk = 0 ∧ (State.reset.core c).achkctl = 0x00020400
      ∧ (State.reset.core c).demerits = 0 ∧ (State.reset.core c).fenced = false)
  ∧ (∀ h x, State.reset.tok h x = if h = homeHolder x then ⟨true, false, true, 256⟩ else {})
  ∧ (∀ cl, (State.reset.cluster cl).permitsUp = 8 ∧ (State.reset.cluster cl).permitsDown = 8)
  ∧ (∀ d : Fin 4, State.reset.dev.toktime[d] = 0x13E80400)
  ∧ State.reset.dev.scrubctl.toList = [0x8000000A, 0x8000000A, 0x8000000A, 0x8000003C, 0x8000012C, 0x80000E10, 0x80000E10]
  ∧ State.reset.dev.winctl.toList = [0x03000E10, 0x03000E10, 0x03000E10, 0x02015180, 0x02015180, 0x04015180, 0x04015180]
  ∧ State.reset.dev.mhz = 2000 ∧ State.reset.dev.off = false
  ∧ ({} : Regs).exec = 0xFFFFFFFF ∧ ({} : Regs).fpmode = 0x00000008 ∧ ({} : Regs).cnt = {}

/-- Whatever the state, if physical memory, the clusters' SRAM and the loader window are in canonical form,
addresses strictly rising and no listed byte 0, and the step answers a next state, then in that state they are
in canonical form too: equal memories stay equal data through every word and every event. That an unlisted byte
reads as 0 is the model's choice (log 1). (R8, R207, R448) -/
def Obligations.StepKeepsMemoryForm : Prop :=
  ∀ s t : State, s.memWf = true → step s = .next t → t.memWf = true

end Statements
end

