-- ==== Sys2Proof/Laws/Dispatch.lean ====
section
/-! SUPPORT. What `exec` answers for each constructor: its meaning, one lemma each. -/

namespace Sys2Proof.Machine

@[simp] theorem exec_trap (imm : BitVec 16) (s : State) : exec (.trap imm) s = execTrap imm s := rfl
@[simp] theorem exec_pushr (o : BitVec 17) (s : State) : exec (.pushr o) s = execPushr o s := rfl
@[simp] theorem exec_gsync (g : BitVec 8) (s : State) : exec (.gsync g) s = execGsync g s := rfl
@[simp] theorem exec_bra (o : BitVec 17) (s : State) : exec (.bra o) s = execBra o s := rfl
@[simp] theorem exec_bz (sg : BitVec 5) (o : BitVec 17) (s : State) : exec (.bz sg o) s = execBz sg o s := rfl
@[simp] theorem exec_bnz (sg : BitVec 5) (o : BitVec 17) (s : State) : exec (.bnz sg o) s = execBnz sg o s := rfl
@[simp] theorem exec_bany (p : BitVec 3) (o : BitVec 17) (s : State) : exec (.bany p o) s = execBany p o s := rfl
@[simp] theorem exec_ball (p : BitVec 3) (o : BitVec 17) (s : State) : exec (.ball p o) s = execBall p o s := rfl
@[simp] theorem exec_bnone (p : BitVec 3) (o : BitVec 17) (s : State) : exec (.bnone p o) s = execBnone p o s := rfl
@[simp] theorem exec_bdiv (p : BitVec 3) (o : BitVec 17) (s : State) : exec (.bdiv p o) s = execBdiv p o s := rfl
@[simp] theorem exec_call (o : BitVec 25) (s : State) : exec (.call o) s = execCall o s := rfl
@[simp] theorem exec_sadd (d : BitVec 5) (a : BitVec 5) (b : BitVec 5) (s : State) : exec (.sadd d a b) s = execSadd d a b s := rfl
@[simp] theorem exec_ssub (d : BitVec 5) (a : BitVec 5) (b : BitVec 5) (s : State) : exec (.ssub d a b) s = execSsub d a b s := rfl
@[simp] theorem exec_smul (d : BitVec 5) (a : BitVec 5) (b : BitVec 5) (s : State) : exec (.smul d a b) s = execSmul d a b s := rfl
@[simp] theorem exec_smulhiI32 (d : BitVec 5) (a : BitVec 5) (b : BitVec 5) (s : State) : exec (.smulhiI32 d a b) s = execSmulhiI32 d a b s := rfl
@[simp] theorem exec_smulhiN32 (d : BitVec 5) (a : BitVec 5) (b : BitVec 5) (s : State) : exec (.smulhiN32 d a b) s = execSmulhiN32 d a b s := rfl
@[simp] theorem exec_sand (d : BitVec 5) (a : BitVec 5) (b : BitVec 5) (s : State) : exec (.sand d a b) s = execSand d a b s := rfl
@[simp] theorem exec_sor (d : BitVec 5) (a : BitVec 5) (b : BitVec 5) (s : State) : exec (.sor d a b) s = execSor d a b s := rfl
@[simp] theorem exec_sxor (d : BitVec 5) (a : BitVec 5) (b : BitVec 5) (s : State) : exec (.sxor d a b) s = execSxor d a b s := rfl
@[simp] theorem exec_sshl (d : BitVec 5) (a : BitVec 5) (b : BitVec 5) (s : State) : exec (.sshl d a b) s = execSshl d a b s := rfl
@[simp] theorem exec_sshrN32 (d : BitVec 5) (a : BitVec 5) (b : BitVec 5) (s : State) : exec (.sshrN32 d a b) s = execSshrN32 d a b s := rfl
@[simp] theorem exec_sshrI32 (d : BitVec 5) (a : BitVec 5) (b : BitVec 5) (s : State) : exec (.sshrI32 d a b) s = execSshrI32 d a b s := rfl
@[simp] theorem exec_sminI32 (d : BitVec 5) (a : BitVec 5) (b : BitVec 5) (s : State) : exec (.sminI32 d a b) s = execSminI32 d a b s := rfl
@[simp] theorem exec_smaxI32 (d : BitVec 5) (a : BitVec 5) (b : BitVec 5) (s : State) : exec (.smaxI32 d a b) s = execSmaxI32 d a b s := rfl
@[simp] theorem exec_sminN32 (d : BitVec 5) (a : BitVec 5) (b : BitVec 5) (s : State) : exec (.sminN32 d a b) s = execSminN32 d a b s := rfl
@[simp] theorem exec_smaxN32 (d : BitVec 5) (a : BitVec 5) (b : BitVec 5) (s : State) : exec (.smaxN32 d a b) s = execSmaxN32 d a b s := rfl
@[simp] theorem exec_sclz (d : BitVec 5) (a : BitVec 5) (s : State) : exec (.sclz d a) s = execSclz d a s := rfl
@[simp] theorem exec_spopc (d : BitVec 5) (a : BitVec 5) (s : State) : exec (.spopc d a) s = execSpopc d a s := rfl
@[simp] theorem exec_smov (d : BitVec 5) (a : BitVec 5) (s : State) : exec (.smov d a) s = execSmov d a s := rfl
@[simp] theorem exec_ssltI32 (d : BitVec 5) (a : BitVec 5) (b : BitVec 5) (s : State) : exec (.ssltI32 d a b) s = execSsltI32 d a b s := rfl
@[simp] theorem exec_ssltN32 (d : BitVec 5) (a : BitVec 5) (b : BitVec 5) (s : State) : exec (.ssltN32 d a b) s = execSsltN32 d a b s := rfl
@[simp] theorem exec_sseq (d : BitVec 5) (a : BitVec 5) (b : BitVec 5) (s : State) : exec (.sseq d a b) s = execSseq d a b s := rfl
@[simp] theorem exec_sadd64 (d : BitVec 4) (a : BitVec 4) (b : BitVec 4) (s : State) : exec (.sadd64 d a b) s = execSadd64 d a b s := rfl
@[simp] theorem exec_ssub64 (d : BitVec 4) (a : BitVec 4) (b : BitVec 4) (s : State) : exec (.ssub64 d a b) s = execSsub64 d a b s := rfl
@[simp] theorem exec_saddi (d : BitVec 5) (a : BitVec 5) (imm : BitVec 15) (s : State) : exec (.saddi d a imm) s = execSaddi d a imm s := rfl
@[simp] theorem exec_sandi (d : BitVec 5) (a : BitVec 5) (imm : BitVec 15) (s : State) : exec (.sandi d a imm) s = execSandi d a imm s := rfl
@[simp] theorem exec_sori (d : BitVec 5) (a : BitVec 5) (imm : BitVec 15) (s : State) : exec (.sori d a imm) s = execSori d a imm s := rfl
@[simp] theorem exec_sxori (d : BitVec 5) (a : BitVec 5) (imm : BitVec 15) (s : State) : exec (.sxori d a imm) s = execSxori d a imm s := rfl
@[simp] theorem exec_sshiShl (d : BitVec 5) (a : BitVec 5) (n : BitVec 5) (s : State) : exec (.sshiShl d a n) s = execSshiShl d a n s := rfl
@[simp] theorem exec_sshiShrN32 (d : BitVec 5) (a : BitVec 5) (n : BitVec 5) (s : State) : exec (.sshiShrN32 d a n) s = execSshiShrN32 d a n s := rfl
@[simp] theorem exec_sshiShrI32 (d : BitVec 5) (a : BitVec 5) (n : BitVec 5) (s : State) : exec (.sshiShrI32 d a n) s = execSshiShrI32 d a n s := rfl
@[simp] theorem exec_sshiRotl (d : BitVec 5) (a : BitVec 5) (n : BitVec 5) (s : State) : exec (.sshiRotl d a n) s = execSshiRotl d a n s := rfl
@[simp] theorem exec_slui (d : BitVec 5) (imm : BitVec 20) (s : State) : exec (.slui d imm) s = execSlui d imm s := rfl
@[simp] theorem exec_scmpi (d : BitVec 5) (a : BitVec 5) (k : BitVec 3) (imm : BitVec 12) (s : State) : exec (.scmpi d a k imm) s = execScmpi d a k imm s := rfl
@[simp] theorem exec_sld (d : BitVec 5) (a : BitVec 4) (imm : BitVec 15) (s : State) : exec (.sld d a imm) s = execSld d a imm s := rfl
@[simp] theorem exec_sst (d : BitVec 5) (a : BitVec 4) (imm : BitVec 15) (s : State) : exec (.sst d a imm) s = execSst d a imm s := rfl
@[simp] theorem exec_lstart (a : BitVec 4) (s : State) : exec (.lstart a) s = execLstart a s := rfl
@[simp] theorem exec_nextit (d : BitVec 3) (s : State) : exec (.nextit d) s = execNextit d s := rfl
@[simp] theorem exec_brit (o : BitVec 17) (s : State) : exec (.brit o) s = execBrit o s := rfl
@[simp] theorem exec_getsr (sg : BitVec 5) (imm : BitVec 10) (s : State) : exec (.getsr sg imm) s = execGetsr sg imm s := rfl
@[simp] theorem exec_setsr (sg : BitVec 5) (imm : BitVec 10) (s : State) : exec (.setsr sg imm) s = execSetsr sg imm s := rfl
@[simp] theorem exec_waitc (l : BitVec 5) (sg : BitVec 5) (y : BitVec 5) (m : BitVec 5) (a : BitVec 5) (s : State) : exec (.waitc l sg y m a) s = execWaitc l sg y m a s := rfl
@[simp] theorem exec_vadd (d : BitVec 6) (a : BitVec 6) (b : BitVec 6) (s : State) : exec (.vadd d a b) s = execVadd d a b s := rfl
@[simp] theorem exec_vsub (d : BitVec 6) (a : BitVec 6) (b : BitVec 6) (s : State) : exec (.vsub d a b) s = execVsub d a b s := rfl
@[simp] theorem exec_vmul (d : BitVec 6) (a : BitVec 6) (b : BitVec 6) (s : State) : exec (.vmul d a b) s = execVmul d a b s := rfl
@[simp] theorem exec_vmulhiI32 (d : BitVec 6) (a : BitVec 6) (b : BitVec 6) (s : State) : exec (.vmulhiI32 d a b) s = execVmulhiI32 d a b s := rfl
@[simp] theorem exec_vmulhiN32 (d : BitVec 6) (a : BitVec 6) (b : BitVec 6) (s : State) : exec (.vmulhiN32 d a b) s = execVmulhiN32 d a b s := rfl
@[simp] theorem exec_vminI32 (d : BitVec 6) (a : BitVec 6) (b : BitVec 6) (s : State) : exec (.vminI32 d a b) s = execVminI32 d a b s := rfl
@[simp] theorem exec_vmaxI32 (d : BitVec 6) (a : BitVec 6) (b : BitVec 6) (s : State) : exec (.vmaxI32 d a b) s = execVmaxI32 d a b s := rfl
@[simp] theorem exec_vminN32 (d : BitVec 6) (a : BitVec 6) (b : BitVec 6) (s : State) : exec (.vminN32 d a b) s = execVminN32 d a b s := rfl
@[simp] theorem exec_vmaxN32 (d : BitVec 6) (a : BitVec 6) (b : BitVec 6) (s : State) : exec (.vmaxN32 d a b) s = execVmaxN32 d a b s := rfl
@[simp] theorem exec_vand (d : BitVec 6) (a : BitVec 6) (b : BitVec 6) (s : State) : exec (.vand d a b) s = execVand d a b s := rfl
@[simp] theorem exec_vor (d : BitVec 6) (a : BitVec 6) (b : BitVec 6) (s : State) : exec (.vor d a b) s = execVor d a b s := rfl
@[simp] theorem exec_vxor (d : BitVec 6) (a : BitVec 6) (b : BitVec 6) (s : State) : exec (.vxor d a b) s = execVxor d a b s := rfl
@[simp] theorem exec_vandn (d : BitVec 6) (a : BitVec 6) (b : BitVec 6) (s : State) : exec (.vandn d a b) s = execVandn d a b s := rfl
@[simp] theorem exec_vshl (d : BitVec 6) (a : BitVec 6) (b : BitVec 6) (s : State) : exec (.vshl d a b) s = execVshl d a b s := rfl
@[simp] theorem exec_vshrN32 (d : BitVec 6) (a : BitVec 6) (b : BitVec 6) (s : State) : exec (.vshrN32 d a b) s = execVshrN32 d a b s := rfl
@[simp] theorem exec_vshrI32 (d : BitVec 6) (a : BitVec 6) (b : BitVec 6) (s : State) : exec (.vshrI32 d a b) s = execVshrI32 d a b s := rfl
@[simp] theorem exec_vrotl (d : BitVec 6) (a : BitVec 6) (b : BitVec 6) (s : State) : exec (.vrotl d a b) s = execVrotl d a b s := rfl
@[simp] theorem exec_vpopc (d : BitVec 6) (a : BitVec 6) (s : State) : exec (.vpopc d a) s = execVpopc d a s := rfl
@[simp] theorem exec_vclz (d : BitVec 6) (a : BitVec 6) (s : State) : exec (.vclz d a) s = execVclz d a s := rfl
@[simp] theorem exec_vbrev (d : BitVec 6) (a : BitVec 6) (s : State) : exec (.vbrev d a) s = execVbrev d a s := rfl
@[simp] theorem exec_vabsdI32 (d : BitVec 6) (a : BitVec 6) (b : BitVec 6) (s : State) : exec (.vabsdI32 d a b) s = execVabsdI32 d a b s := rfl
@[simp] theorem exec_vaddsI32 (d : BitVec 6) (a : BitVec 6) (b : BitVec 6) (s : State) : exec (.vaddsI32 d a b) s = execVaddsI32 d a b s := rfl
@[simp] theorem exec_vsubsI32 (d : BitVec 6) (a : BitVec 6) (b : BitVec 6) (s : State) : exec (.vsubsI32 d a b) s = execVsubsI32 d a b s := rfl
@[simp] theorem exec_vadd64 (d : BitVec 5) (a : BitVec 5) (b : BitVec 5) (s : State) : exec (.vadd64 d a b) s = execVadd64 d a b s := rfl
@[simp] theorem exec_vsub64 (d : BitVec 5) (a : BitVec 5) (b : BitVec 5) (s : State) : exec (.vsub64 d a b) s = execVsub64 d a b s := rfl
@[simp] theorem exec_vdot4I8 (d : BitVec 6) (a : BitVec 6) (b : BitVec 6) (s : State) : exec (.vdot4I8 d a b) s = execVdot4I8 d a b s := rfl
@[simp] theorem exec_vdot2I16 (d : BitVec 6) (a : BitVec 6) (b : BitVec 6) (s : State) : exec (.vdot2I16 d a b) s = execVdot2I16 d a b s := rfl
@[simp] theorem exec_vinti (f : BitVec 5) (d : BitVec 6) (a : BitVec 6) (imm : BitVec 8) (s : State) : exec (.vinti f d a imm) s = execVinti f d a imm s := rfl
@[simp] theorem exec_vfaddF32 (d : BitVec 6) (a : BitVec 6) (b : BitVec 6) (s : State) : exec (.vfaddF32 d a b) s = execVfaddF32 d a b s := rfl
@[simp] theorem exec_vfsubF32 (d : BitVec 6) (a : BitVec 6) (b : BitVec 6) (s : State) : exec (.vfsubF32 d a b) s = execVfsubF32 d a b s := rfl
@[simp] theorem exec_vfmulF32 (d : BitVec 6) (a : BitVec 6) (b : BitVec 6) (s : State) : exec (.vfmulF32 d a b) s = execVfmulF32 d a b s := rfl
@[simp] theorem exec_vfminF32 (d : BitVec 6) (a : BitVec 6) (b : BitVec 6) (s : State) : exec (.vfminF32 d a b) s = execVfminF32 d a b s := rfl
@[simp] theorem exec_vfmaxF32 (d : BitVec 6) (a : BitVec 6) (b : BitVec 6) (s : State) : exec (.vfmaxF32 d a b) s = execVfmaxF32 d a b s := rfl
@[simp] theorem exec_vfabsF32 (d : BitVec 6) (a : BitVec 6) (s : State) : exec (.vfabsF32 d a) s = execVfabsF32 d a s := rfl
@[simp] theorem exec_vfnegF32 (d : BitVec 6) (a : BitVec 6) (s : State) : exec (.vfnegF32 d a) s = execVfnegF32 d a s := rfl
@[simp] theorem exec_vfcpsgnF32 (d : BitVec 6) (a : BitVec 6) (b : BitVec 6) (s : State) : exec (.vfcpsgnF32 d a b) s = execVfcpsgnF32 d a b s := rfl
@[simp] theorem exec_vfaddF16x2 (d : BitVec 6) (a : BitVec 6) (b : BitVec 6) (s : State) : exec (.vfaddF16x2 d a b) s = execVfaddF16x2 d a b s := rfl
@[simp] theorem exec_vfsubF16x2 (d : BitVec 6) (a : BitVec 6) (b : BitVec 6) (s : State) : exec (.vfsubF16x2 d a b) s = execVfsubF16x2 d a b s := rfl
@[simp] theorem exec_vfmulF16x2 (d : BitVec 6) (a : BitVec 6) (b : BitVec 6) (s : State) : exec (.vfmulF16x2 d a b) s = execVfmulF16x2 d a b s := rfl
@[simp] theorem exec_vfminF16x2 (d : BitVec 6) (a : BitVec 6) (b : BitVec 6) (s : State) : exec (.vfminF16x2 d a b) s = execVfminF16x2 d a b s := rfl
@[simp] theorem exec_vfmaxF16x2 (d : BitVec 6) (a : BitVec 6) (b : BitVec 6) (s : State) : exec (.vfmaxF16x2 d a b) s = execVfmaxF16x2 d a b s := rfl
@[simp] theorem exec_vfaddB16x2 (d : BitVec 6) (a : BitVec 6) (b : BitVec 6) (s : State) : exec (.vfaddB16x2 d a b) s = execVfaddB16x2 d a b s := rfl
@[simp] theorem exec_vfsubB16x2 (d : BitVec 6) (a : BitVec 6) (b : BitVec 6) (s : State) : exec (.vfsubB16x2 d a b) s = execVfsubB16x2 d a b s := rfl
@[simp] theorem exec_vfmulB16x2 (d : BitVec 6) (a : BitVec 6) (b : BitVec 6) (s : State) : exec (.vfmulB16x2 d a b) s = execVfmulB16x2 d a b s := rfl
@[simp] theorem exec_vfminB16x2 (d : BitVec 6) (a : BitVec 6) (b : BitVec 6) (s : State) : exec (.vfminB16x2 d a b) s = execVfminB16x2 d a b s := rfl
@[simp] theorem exec_vfmaxB16x2 (d : BitVec 6) (a : BitVec 6) (b : BitVec 6) (s : State) : exec (.vfmaxB16x2 d a b) s = execVfmaxB16x2 d a b s := rfl
@[simp] theorem exec_vfaddF64 (d : BitVec 5) (a : BitVec 5) (b : BitVec 5) (s : State) : exec (.vfaddF64 d a b) s = execVfaddF64 d a b s := rfl
@[simp] theorem exec_vfsubF64 (d : BitVec 5) (a : BitVec 5) (b : BitVec 5) (s : State) : exec (.vfsubF64 d a b) s = execVfsubF64 d a b s := rfl
@[simp] theorem exec_vfmulF64 (d : BitVec 5) (a : BitVec 5) (b : BitVec 5) (s : State) : exec (.vfmulF64 d a b) s = execVfmulF64 d a b s := rfl
@[simp] theorem exec_vfminF64 (d : BitVec 5) (a : BitVec 5) (b : BitVec 5) (s : State) : exec (.vfminF64 d a b) s = execVfminF64 d a b s := rfl
@[simp] theorem exec_vfmaxF64 (d : BitVec 5) (a : BitVec 5) (b : BitVec 5) (s : State) : exec (.vfmaxF64 d a b) s = execVfmaxF64 d a b s := rfl
@[simp] theorem exec_vcmulB16 (d : BitVec 6) (a : BitVec 6) (b : BitVec 6) (s : State) : exec (.vcmulB16 d a b) s = execVcmulB16 d a b s := rfl
@[simp] theorem exec_vfmaF32 (d : BitVec 6) (a : BitVec 6) (b : BitVec 6) (e : BitVec 5) (s : State) : exec (.vfmaF32 d a b e) s = execVfmaF32 d a b e s := rfl
@[simp] theorem exec_vfmaF16x2 (d : BitVec 6) (a : BitVec 6) (b : BitVec 6) (e : BitVec 5) (s : State) : exec (.vfmaF16x2 d a b e) s = execVfmaF16x2 d a b e s := rfl
@[simp] theorem exec_vfmaB16x2 (d : BitVec 6) (a : BitVec 6) (b : BitVec 6) (e : BitVec 5) (s : State) : exec (.vfmaB16x2 d a b e) s = execVfmaB16x2 d a b e s := rfl
@[simp] theorem exec_vfmaF64 (d : BitVec 5) (a : BitVec 5) (b : BitVec 5) (e : BitVec 4) (s : State) : exec (.vfmaF64 d a b e) s = execVfmaF64 d a b e s := rfl
@[simp] theorem exec_vcmpI32 (k : BitVec 3) (p : BitVec 3) (a : BitVec 6) (b : BitVec 6) (s : State) : exec (.vcmpI32 k p a b) s = execVcmpI32 k p a b s := rfl
@[simp] theorem exec_vcmpN32 (k : BitVec 3) (p : BitVec 3) (a : BitVec 6) (b : BitVec 6) (s : State) : exec (.vcmpN32 k p a b) s = execVcmpN32 k p a b s := rfl
@[simp] theorem exec_vcmpF32 (k : BitVec 3) (p : BitVec 3) (a : BitVec 6) (b : BitVec 6) (s : State) : exec (.vcmpF32 k p a b) s = execVcmpF32 k p a b s := rfl
@[simp] theorem exec_vcmpF16x2 (k : BitVec 3) (p : BitVec 3) (a : BitVec 6) (b : BitVec 6) (s : State) : exec (.vcmpF16x2 k p a b) s = execVcmpF16x2 k p a b s := rfl
@[simp] theorem exec_vcvtF32I32 (d : BitVec 6) (a : BitVec 6) (s : State) : exec (.vcvtF32I32 d a) s = execVcvtF32I32 d a s := rfl
@[simp] theorem exec_vcvtF32N32 (d : BitVec 6) (a : BitVec 6) (s : State) : exec (.vcvtF32N32 d a) s = execVcvtF32N32 d a s := rfl
@[simp] theorem exec_vcvtI32F32 (d : BitVec 6) (a : BitVec 6) (s : State) : exec (.vcvtI32F32 d a) s = execVcvtI32F32 d a s := rfl
@[simp] theorem exec_vcvtI32F32Rz (d : BitVec 6) (a : BitVec 6) (s : State) : exec (.vcvtI32F32Rz d a) s = execVcvtI32F32Rz d a s := rfl
@[simp] theorem exec_vcvtN32F32 (d : BitVec 6) (a : BitVec 6) (s : State) : exec (.vcvtN32F32 d a) s = execVcvtN32F32 d a s := rfl
@[simp] theorem exec_vcvtF16x2F32 (d : BitVec 6) (a : BitVec 5) (s : State) : exec (.vcvtF16x2F32 d a) s = execVcvtF16x2F32 d a s := rfl
@[simp] theorem exec_vcvtB16x2F32 (d : BitVec 6) (a : BitVec 5) (s : State) : exec (.vcvtB16x2F32 d a) s = execVcvtB16x2F32 d a s := rfl
@[simp] theorem exec_vcvtF32F16 (d : BitVec 6) (a : BitVec 6) (s : State) : exec (.vcvtF32F16 d a) s = execVcvtF32F16 d a s := rfl
@[simp] theorem exec_vcvtF32F16h (d : BitVec 6) (a : BitVec 6) (s : State) : exec (.vcvtF32F16h d a) s = execVcvtF32F16h d a s := rfl
@[simp] theorem exec_vcvtF32B16 (d : BitVec 6) (a : BitVec 6) (s : State) : exec (.vcvtF32B16 d a) s = execVcvtF32B16 d a s := rfl
@[simp] theorem exec_vcvtF32B16h (d : BitVec 6) (a : BitVec 6) (s : State) : exec (.vcvtF32B16h d a) s = execVcvtF32B16h d a s := rfl
@[simp] theorem exec_vcvtF64F32 (d : BitVec 5) (a : BitVec 6) (s : State) : exec (.vcvtF64F32 d a) s = execVcvtF64F32 d a s := rfl
@[simp] theorem exec_vcvtF32F64 (d : BitVec 6) (a : BitVec 5) (s : State) : exec (.vcvtF32F64 d a) s = execVcvtF32F64 d a s := rfl
@[simp] theorem exec_vcvtE4x4F32 (d : BitVec 6) (a : BitVec 4) (s : State) : exec (.vcvtE4x4F32 d a) s = execVcvtE4x4F32 d a s := rfl
@[simp] theorem exec_vcvtE5x4F32 (d : BitVec 6) (a : BitVec 4) (s : State) : exec (.vcvtE5x4F32 d a) s = execVcvtE5x4F32 d a s := rfl
@[simp] theorem exec_vcvtE2x8F32 (d : BitVec 6) (a : BitVec 3) (s : State) : exec (.vcvtE2x8F32 d a) s = execVcvtE2x8F32 d a s := rfl
@[simp] theorem exec_vcvtL6F32 (d : BitVec 6) (a : BitVec 6) (s : State) : exec (.vcvtL6F32 d a) s = execVcvtL6F32 d a s := rfl
@[simp] theorem exec_vcvtF32L6 (d : BitVec 6) (a : BitVec 6) (s : State) : exec (.vcvtF32L6 d a) s = execVcvtF32L6 d a s := rfl
@[simp] theorem exec_vcvtF32E4 (d : BitVec 6) (a : BitVec 6) (s : State) : exec (.vcvtF32E4 d a) s = execVcvtF32E4 d a s := rfl
@[simp] theorem exec_vcvtF32E5 (d : BitVec 6) (a : BitVec 6) (s : State) : exec (.vcvtF32E5 d a) s = execVcvtF32E5 d a s := rfl
@[simp] theorem exec_vcvtF32E2 (d : BitVec 6) (a : BitVec 6) (s : State) : exec (.vcvtF32E2 d a) s = execVcvtF32E2 d a s := rfl
@[simp] theorem exec_vrcp (d : BitVec 6) (a : BitVec 6) (s : State) : exec (.vrcp d a) s = execVrcp d a s := rfl
@[simp] theorem exec_vrsq (d : BitVec 6) (a : BitVec 6) (s : State) : exec (.vrsq d a) s = execVrsq d a s := rfl
@[simp] theorem exec_vsqrt (d : BitVec 6) (a : BitVec 6) (s : State) : exec (.vsqrt d a) s = execVsqrt d a s := rfl
@[simp] theorem exec_vexp2 (d : BitVec 6) (a : BitVec 6) (s : State) : exec (.vexp2 d a) s = execVexp2 d a s := rfl
@[simp] theorem exec_vlog2 (d : BitVec 6) (a : BitVec 6) (s : State) : exec (.vlog2 d a) s = execVlog2 d a s := rfl
@[simp] theorem exec_vsint (d : BitVec 6) (a : BitVec 6) (s : State) : exec (.vsint d a) s = execVsint d a s := rfl
@[simp] theorem exec_vcost (d : BitVec 6) (a : BitVec 6) (s : State) : exec (.vcost d a) s = execVcost d a s := rfl
@[simp] theorem exec_vtanh (d : BitVec 6) (a : BitVec 6) (s : State) : exec (.vtanh d a) s = execVtanh d a s := rfl
@[simp] theorem exec_vtab (t : BitVec 3) (d : BitVec 6) (a : BitVec 6) (s : State) : exec (.vtab t d a) s = execVtab t d a s := rfl
@[simp] theorem exec_vmov (w : BitVec 2) (d : BitVec 6) (a : BitVec 6) (s : State) : exec (.vmov w d a) s = execVmov w d a s := rfl
@[simp] theorem exec_vmovs (d : BitVec 6) (a : BitVec 5) (s : State) : exec (.vmovs d a) s = execVmovs d a s := rfl
@[simp] theorem exec_vlaneid (d : BitVec 6) (s : State) : exec (.vlaneid d) s = execVlaneid d s := rfl
@[simp] theorem exec_vreadl (d : BitVec 5) (a : BitVec 6) (l : BitVec 5) (s : State) : exec (.vreadl d a l) s = execVreadl d a l s := rfl
@[simp] theorem exec_vwritel (d : BitVec 6) (a : BitVec 5) (l : BitVec 5) (s : State) : exec (.vwritel d a l) s = execVwritel d a l s := rfl
@[simp] theorem exec_vfirst (d : BitVec 6) (a : BitVec 6) (s : State) : exec (.vfirst d a) s = execVfirst d a s := rfl
@[simp] theorem exec_vshflIdx (d : BitVec 6) (a : BitVec 6) (b : BitVec 6) (s : State) : exec (.vshflIdx d a b) s = execVshflIdx d a b s := rfl
@[simp] theorem exec_vshflUp (d : BitVec 6) (a : BitVec 6) (n : BitVec 5) (s : State) : exec (.vshflUp d a n) s = execVshflUp d a n s := rfl
@[simp] theorem exec_vshflDown (d : BitVec 6) (a : BitVec 6) (n : BitVec 5) (s : State) : exec (.vshflDown d a n) s = execVshflDown d a n s := rfl
@[simp] theorem exec_vshflXor (d : BitVec 6) (a : BitVec 6) (n : BitVec 5) (s : State) : exec (.vshflXor d a n) s = execVshflXor d a n s := rfl
@[simp] theorem exec_vshflBcast (d : BitVec 6) (a : BitVec 6) (n : BitVec 5) (s : State) : exec (.vshflBcast d a n) s = execVshflBcast d a n s := rfl
@[simp] theorem exec_raddI32 (d : BitVec 6) (a : BitVec 6) (s : State) : exec (.raddI32 d a) s = execRaddI32 d a s := rfl
@[simp] theorem exec_raddF32 (d : BitVec 6) (a : BitVec 6) (s : State) : exec (.raddF32 d a) s = execRaddF32 d a s := rfl
@[simp] theorem exec_rminI32 (d : BitVec 6) (a : BitVec 6) (s : State) : exec (.rminI32 d a) s = execRminI32 d a s := rfl
@[simp] theorem exec_rmaxI32 (d : BitVec 6) (a : BitVec 6) (s : State) : exec (.rmaxI32 d a) s = execRmaxI32 d a s := rfl
@[simp] theorem exec_rminN32 (d : BitVec 6) (a : BitVec 6) (s : State) : exec (.rminN32 d a) s = execRminN32 d a s := rfl
@[simp] theorem exec_rmaxN32 (d : BitVec 6) (a : BitVec 6) (s : State) : exec (.rmaxN32 d a) s = execRmaxN32 d a s := rfl
@[simp] theorem exec_rminF32 (d : BitVec 6) (a : BitVec 6) (s : State) : exec (.rminF32 d a) s = execRminF32 d a s := rfl
@[simp] theorem exec_rmaxF32 (d : BitVec 6) (a : BitVec 6) (s : State) : exec (.rmaxF32 d a) s = execRmaxF32 d a s := rfl
@[simp] theorem exec_rand (d : BitVec 6) (a : BitVec 6) (s : State) : exec (.rand d a) s = execRand d a s := rfl
@[simp] theorem exec_ror (d : BitVec 6) (a : BitVec 6) (s : State) : exec (.ror d a) s = execRor d a s := rfl
@[simp] theorem exec_rxor (d : BitVec 6) (a : BitVec 6) (s : State) : exec (.rxor d a) s = execRxor d a s := rfl
@[simp] theorem exec_scanaddI32 (d : BitVec 6) (a : BitVec 6) (s : State) : exec (.scanaddI32 d a) s = execScanaddI32 d a s := rfl
@[simp] theorem exec_scanaddI32Ex (d : BitVec 6) (a : BitVec 6) (s : State) : exec (.scanaddI32Ex d a) s = execScanaddI32Ex d a s := rfl
@[simp] theorem exec_scanaddF32 (d : BitVec 6) (a : BitVec 6) (s : State) : exec (.scanaddF32 d a) s = execScanaddF32 d a s := rfl
@[simp] theorem exec_vvoteAny (d : BitVec 3) (a : BitVec 3) (s : State) : exec (.vvoteAny d a) s = execVvoteAny d a s := rfl
@[simp] theorem exec_vvoteAll (d : BitVec 3) (a : BitVec 3) (s : State) : exec (.vvoteAll d a) s = execVvoteAll d a s := rfl
@[simp] theorem exec_vvoteBallot (d : BitVec 5) (a : BitVec 3) (s : State) : exec (.vvoteBallot d a) s = execVvoteBallot d a s := rfl
@[simp] theorem exec_vvoteCount (d : BitVec 6) (a : BitVec 3) (s : State) : exec (.vvoteCount d a) s = execVvoteCount d a s := rfl
@[simp] theorem exec_pand (d : BitVec 3) (a : BitVec 3) (b : BitVec 3) (s : State) : exec (.pand d a b) s = execPand d a b s := rfl
@[simp] theorem exec_por (d : BitVec 3) (a : BitVec 3) (b : BitVec 3) (s : State) : exec (.por d a b) s = execPor d a b s := rfl
@[simp] theorem exec_pxor (d : BitVec 3) (a : BitVec 3) (b : BitVec 3) (s : State) : exec (.pxor d a b) s = execPxor d a b s := rfl
@[simp] theorem exec_pandn (d : BitVec 3) (a : BitVec 3) (b : BitVec 3) (s : State) : exec (.pandn d a b) s = execPandn d a b s := rfl
@[simp] theorem exec_pnot (d : BitVec 3) (a : BitVec 3) (s : State) : exec (.pnot d a) s = execPnot d a s := rfl
@[simp] theorem exec_pmov (d : BitVec 3) (a : BitVec 3) (s : State) : exec (.pmov d a) s = execPmov d a s := rfl
@[simp] theorem exec_setexec (a : BitVec 3) (s : State) : exec (.setexec a) s = execSetexec a s := rfl
@[simp] theorem exec_getexec (d : BitVec 3) (s : State) : exec (.getexec d) s = execGetexec d s := rfl
@[simp] theorem exec_pfroms (d : BitVec 3) (a : BitVec 5) (s : State) : exec (.pfroms d a) s = execPfroms d a s := rfl
@[simp] theorem exec_ptos (d : BitVec 5) (a : BitVec 3) (s : State) : exec (.ptos d a) s = execPtos d a s := rfl
@[simp] theorem exec_execand (a : BitVec 3) (s : State) : exec (.execand a) s = execExecand a s := rfl
@[simp] theorem exec_ppopc (d : BitVec 3) (a : BitVec 3) (s : State) : exec (.ppopc d a) s = execPpopc d a s := rfl
@[simp] theorem exec_vld (z : BitVec 3) (q : BitVec 1) (w : BitVec 2) (d : BitVec 6) (a : BitVec 6) (b : BitVec 4) (h : BitVec 2) (s : State) : exec (.vld z q w d a b h) s = execVld z q w d a b h s := rfl
@[simp] theorem exec_vst (z : BitVec 3) (q : BitVec 1) (w : BitVec 2) (d : BitVec 6) (a : BitVec 6) (b : BitVec 4) (h : BitVec 2) (s : State) : exec (.vst z q w d a b h) s = execVst z q w d a b h s := rfl
@[simp] theorem exec_vatomAddI32 (d : BitVec 6) (a : BitVec 6) (b : BitVec 4) (h : BitVec 2) (s : State) : exec (.vatomAddI32 d a b h) s = execVatomAddI32 d a b h s := rfl
@[simp] theorem exec_vatomAddF32 (d : BitVec 6) (a : BitVec 6) (b : BitVec 4) (h : BitVec 2) (s : State) : exec (.vatomAddF32 d a b h) s = execVatomAddF32 d a b h s := rfl
@[simp] theorem exec_vatomAddB16x2 (d : BitVec 6) (a : BitVec 6) (b : BitVec 4) (h : BitVec 2) (s : State) : exec (.vatomAddB16x2 d a b h) s = execVatomAddB16x2 d a b h s := rfl
@[simp] theorem exec_vatomMinI32 (d : BitVec 6) (a : BitVec 6) (b : BitVec 4) (h : BitVec 2) (s : State) : exec (.vatomMinI32 d a b h) s = execVatomMinI32 d a b h s := rfl
@[simp] theorem exec_vatomMaxI32 (d : BitVec 6) (a : BitVec 6) (b : BitVec 4) (h : BitVec 2) (s : State) : exec (.vatomMaxI32 d a b h) s = execVatomMaxI32 d a b h s := rfl
@[simp] theorem exec_vatomMinN32 (d : BitVec 6) (a : BitVec 6) (b : BitVec 4) (h : BitVec 2) (s : State) : exec (.vatomMinN32 d a b h) s = execVatomMinN32 d a b h s := rfl
@[simp] theorem exec_vatomMaxN32 (d : BitVec 6) (a : BitVec 6) (b : BitVec 4) (h : BitVec 2) (s : State) : exec (.vatomMaxN32 d a b h) s = execVatomMaxN32 d a b h s := rfl
@[simp] theorem exec_vatomAnd (d : BitVec 6) (a : BitVec 6) (b : BitVec 4) (h : BitVec 2) (s : State) : exec (.vatomAnd d a b h) s = execVatomAnd d a b h s := rfl
@[simp] theorem exec_vatomOr (d : BitVec 6) (a : BitVec 6) (b : BitVec 4) (h : BitVec 2) (s : State) : exec (.vatomOr d a b h) s = execVatomOr d a b h s := rfl
@[simp] theorem exec_vatomXor (d : BitVec 6) (a : BitVec 6) (b : BitVec 4) (h : BitVec 2) (s : State) : exec (.vatomXor d a b h) s = execVatomXor d a b h s := rfl
@[simp] theorem exec_vatomXchg (d : BitVec 6) (a : BitVec 6) (b : BitVec 4) (h : BitVec 2) (s : State) : exec (.vatomXchg d a b h) s = execVatomXchg d a b h s := rfl
@[simp] theorem exec_vatomCas (d : BitVec 5) (a : BitVec 6) (b : BitVec 4) (h : BitVec 2) (s : State) : exec (.vatomCas d a b h) s = execVatomCas d a b h s := rfl
@[simp] theorem exec_vatomIncw (d : BitVec 6) (a : BitVec 6) (b : BitVec 4) (h : BitVec 2) (s : State) : exec (.vatomIncw d a b h) s = execVatomIncw d a b h s := rfl
@[simp] theorem exec_vatomDecw (d : BitVec 6) (a : BitVec 6) (b : BitVec 4) (h : BitVec 2) (s : State) : exec (.vatomDecw d a b h) s = execVatomDecw d a b h s := rfl
@[simp] theorem exec_vatomAddI64 (d : BitVec 5) (a : BitVec 6) (b : BitVec 4) (h : BitVec 2) (s : State) : exec (.vatomAddI64 d a b h) s = execVatomAddI64 d a b h s := rfl
@[simp] theorem exec_mwait (f : BitVec 4) (d : BitVec 5) (a : BitVec 5) (b : BitVec 4) (s : State) : exec (.mwait f d a b) s = execMwait f d a b s := rfl
@[simp] theorem exec_binit (a : BitVec 5) (b : BitVec 5) (s : State) : exec (.binit a b) s = execBinit a b s := rfl
@[simp] theorem exec_barrive (a : BitVec 5) (s : State) : exec (.barrive a) s = execBarrive a s := rfl
@[simp] theorem exec_barrivePeer (a : BitVec 5) (s : State) : exec (.barrivePeer a) s = execBarrivePeer a s := rfl
@[simp] theorem exec_bexpect (a : BitVec 5) (b : BitVec 5) (s : State) : exec (.bexpect a b) s = execBexpect a b s := rfl
@[simp] theorem exec_bwait (a : BitVec 5) (b : BitVec 5) (s : State) : exec (.bwait a b) s = execBwait a b s := rfl
@[simp] theorem exec_btry (a : BitVec 5) (b : BitVec 5) (d : BitVec 5) (s : State) : exec (.btry a b d) s = execBtry a b d s := rfl
@[simp] theorem exec_binval (a : BitVec 5) (s : State) : exec (.binval a) s = execBinval a s := rfl
@[simp] theorem exec_cpy (a : BitVec 2) (h : BitVec 2) (s : State) : exec (.cpy a h) s = execCpy a h s := rfl
@[simp] theorem exec_cpymc (a : BitVec 2) (imm : BitVec 8) (h : BitVec 2) (s : State) : exec (.cpymc a imm h) s = execCpymc a imm h s := rfl
@[simp] theorem exec_cpyb (a : BitVec 2) (h : BitVec 2) (s : State) : exec (.cpyb a h) s = execCpyb a h s := rfl
@[simp] theorem exec_cpyout (a : BitVec 2) (h : BitVec 2) (s : State) : exec (.cpyout a h) s = execCpyout a h s := rfl
@[simp] theorem exec_cpypar (a : BitVec 2) (l : BitVec 1) (h : BitVec 2) (s : State) : exec (.cpypar a l h) s = execCpypar a l h s := rfl
@[simp] theorem exec_cpygf (a : BitVec 2) (imm : BitVec 8) (l : BitVec 1) (h : BitVec 2) (s : State) : exec (.cpygf a imm l h) s = execCpygf a imm l h s := rfl
@[simp] theorem exec_cpypeer (a : BitVec 2) (h : BitVec 2) (s : State) : exec (.cpypeer a h) s = execCpypeer a h s := rfl
@[simp] theorem exec_chn (a : BitVec 4) (s : State) : exec (.chn a) s = execChn a s := rfl
@[simp] theorem exec_pref (a : BitVec 4) (b : BitVec 5) (h : BitVec 2) (s : State) : exec (.pref a b h) s = execPref a b h s := rfl
@[simp] theorem exec_wback (a : BitVec 5) (b : BitVec 5) (s : State) : exec (.wback a b) s = execWback a b s := rfl
@[simp] theorem exec_discard (a : BitVec 5) (b : BitVec 5) (s : State) : exec (.discard a b) s = execDiscard a b s := rfl
@[simp] theorem exec_bankcfg (a : BitVec 5) (m : BitVec 2) (s : State) : exec (.bankcfg a m) s = execBankcfg a m s := rfl
@[simp] theorem exec_bankq (a : BitVec 5) (d : BitVec 5) (s : State) : exec (.bankq a d) s = execBankq a d s := rfl
@[simp] theorem exec_deposit (d : BitVec 4) (a : BitVec 6) (s : State) : exec (.deposit d a) s = execDeposit d a s := rfl
@[simp] theorem exec_mma (f : BitVec 4) (k : BitVec 2) (t : BitVec 2) (a : BitVec 5) (b : BitVec 5) (z : BitVec 1) (x : BitVec 1) (s : State) : exec (.mma f k t a b z x) s = execMma f k t a b z x s := rfl
@[simp] theorem exec_mscale (t : BitVec 2) (p : BitVec 2) (a : BitVec 5) (b : BitVec 5) (s : State) : exec (.mscale t p a b) s = execMscale t p a b s := rfl
@[simp] theorem exec_tzero (t : BitVec 2) (s : State) : exec (.tzero t) s = execTzero t s := rfl
@[simp] theorem exec_tload (t : BitVec 2) (a : BitVec 5) (b : BitVec 5) (g : BitVec 1) (v : BitVec 2) (s : State) : exec (.tload t a b g v) s = execTload t a b g v s := rfl
@[simp] theorem exec_tstore (t : BitVec 2) (a : BitVec 5) (b : BitVec 5) (g : BitVec 1) (v : BitVec 2) (s : State) : exec (.tstore t a b g v) s = execTstore t a b g v s := rfl
@[simp] theorem exec_taddst (t : BitVec 2) (a : BitVec 5) (b : BitVec 5) (g : BitVec 1) (v : BitVec 2) (s : State) : exec (.taddst t a b g v) s = execTaddst t a b g v s := rfl
@[simp] theorem exec_tmove (t : BitVec 2) (p : BitVec 2) (s : State) : exec (.tmove t p) s = execTmove t p s := rfl
@[simp] theorem exec_mquant (f : BitVec 2) (k : BitVec 2) (t : BitVec 2) (a : BitVec 5) (b : BitVec 5) (h : BitVec 2) (s : State) : exec (.mquant f k t a b h) s = execMquant f k t a b h s := rfl
@[simp] theorem exec_mbatch (d : BitVec 5) (s : State) : exec (.mbatch d) s = execMbatch d s := rfl
@[simp] theorem exec_mwaitb (a : BitVec 5) (s : State) : exec (.mwaitb a) s = execMwaitb a s := rfl
@[simp] theorem exec_sigchk (imm : BitVec 20) (s : State) : exec (.sigchk imm) s = execSigchk imm s := rfl
@[simp] theorem exec_sigset (imm : BitVec 20) (s : State) : exec (.sigset imm) s = execSigset imm s := rfl
@[simp] theorem exec_seal (d : BitVec 6) (n : BitVec 6) (t : BitVec 3) (s : State) : exec (.seal d n t) s = execSeal d n t s := rfl
@[simp] theorem exec_sealNovec (t : BitVec 3) (s : State) : exec (.sealNovec t) s = execSealNovec t s := rfl
@[simp] theorem exec_tblload (a : BitVec 4) (t : BitVec 3) (s : State) : exec (.tblload a t) s = execTblload a t s := rfl
@[simp] theorem exec_tblloadLog (a : BitVec 4) (s : State) : exec (.tblloadLog a) s = execTblloadLog a s := rfl
@[simp] theorem exec_tblswap (l : BitVec 1) (m : BitVec 8) (s : State) : exec (.tblswap l m) s = execTblswap l m s := rfl
@[simp] theorem exec_grprdCnt (d : BitVec 5) (a : BitVec 5) (s : State) : exec (.grprdCnt d a) s = execGrprdCnt d a s := rfl
@[simp] theorem exec_grprdMem (d : BitVec 5) (a : BitVec 5) (b : BitVec 5) (s : State) : exec (.grprdMem d a b) s = execGrprdMem d a b s := rfl
@[simp] theorem exec_grprdSelf (d : BitVec 5) (a : BitVec 5) (s : State) : exec (.grprdSelf d a) s = execGrprdSelf d a s := rfl
@[simp] theorem exec_nop (s : State) : exec .nop s = execNop s := rfl
@[simp] theorem exec_exit (s : State) : exec .exit s = execExit s := rfl
@[simp] theorem exec_ret (s : State) : exec .ret s = execRet s := rfl
@[simp] theorem exec_bpt (s : State) : exec .bpt s = execBpt s := rfl
@[simp] theorem exec_yield (s : State) : exec .yield s = execYield s := rfl
@[simp] theorem exec_rtt (s : State) : exec .rtt s = execRtt s := rfl
@[simp] theorem exec_join (s : State) : exec .join s = execJoin s := rfl
@[simp] theorem exec_bsync (s : State) : exec .bsync s = execBsync s := rfl
@[simp] theorem exec_lstop (s : State) : exec .lstop s = execLstop s := rfl
@[simp] theorem exec_fence (s : State) : exec .fence s = execFence s := rfl
@[simp] theorem exec_fenceRel (s : State) : exec .fenceRel s = execFenceRel s := rfl
@[simp] theorem exec_fenceAcq (s : State) : exec .fenceAcq s = execFenceAcq s := rfl
@[simp] theorem exec_opfence (s : State) : exec .opfence s = execOpfence s := rfl
@[simp] theorem exec_evExitComplete (s : State) : exec .evExitComplete s = execEvExitComplete s := rfl
@[simp] theorem exec_evWarpBoost (s : State) : exec .evWarpBoost s = execEvWarpBoost s := rfl
@[simp] theorem exec_evLoadReturn (s : State) : exec .evLoadReturn s = execEvLoadReturn s := rfl
@[simp] theorem exec_evStorePerformed (s : State) : exec .evStorePerformed s = execEvStorePerformed s := rfl
@[simp] theorem exec_evAtomicReturn (s : State) : exec .evAtomicReturn s = execEvAtomicReturn s := rfl
@[simp] theorem exec_evAlmondEntry (s : State) : exec .evAlmondEntry s = execEvAlmondEntry s := rfl
@[simp] theorem exec_evCopyComplete (s : State) : exec .evCopyComplete s = execEvCopyComplete s := rfl
@[simp] theorem exec_evChainStep (s : State) : exec .evChainStep s = execEvChainStep s := rfl
@[simp] theorem exec_evMatrixEntry (s : State) : exec .evMatrixEntry s = execEvMatrixEntry s := rfl
@[simp] theorem exec_evAdmission (s : State) : exec .evAdmission s = execEvAdmission s := rfl
@[simp] theorem exec_evSegmentModeChange (s : State) : exec .evSegmentModeChange s = execEvSegmentModeChange s := rfl
@[simp] theorem exec_evArrivalLogAppend (s : State) : exec .evArrivalLogAppend s = execEvArrivalLogAppend s := rfl
@[simp] theorem exec_evMonitorPoll (s : State) : exec .evMonitorPoll s = execEvMonitorPoll s := rfl
@[simp] theorem exec_evBarrierPoll (s : State) : exec .evBarrierPoll s = execEvBarrierPoll s := rfl
@[simp] theorem exec_evSpanEnd (s : State) : exec .evSpanEnd s = execEvSpanEnd s := rfl
@[simp] theorem exec_evForcedSpanEnd (s : State) : exec .evForcedSpanEnd s = execEvForcedSpanEnd s := rfl
@[simp] theorem exec_evSpanRecord (s : State) : exec .evSpanRecord s = execEvSpanRecord s := rfl
@[simp] theorem exec_evRunEnd (s : State) : exec .evRunEnd s = execEvRunEnd s := rfl
@[simp] theorem exec_evCommit (s : State) : exec .evCommit s = execEvCommit s := rfl
@[simp] theorem exec_evHeldStore (s : State) : exec .evHeldStore s = execEvHeldStore s := rfl
@[simp] theorem exec_evClusterRead (s : State) : exec .evClusterRead s = execEvClusterRead s := rfl
@[simp] theorem exec_evTreqr (s : State) : exec .evTreqr s = execEvTreqr s := rfl
@[simp] theorem exec_evTreqw (s : State) : exec .evTreqw s = execEvTreqw s := rfl
@[simp] theorem exec_evTreqb (s : State) : exec .evTreqb s = execEvTreqb s := rfl
@[simp] theorem exec_evTokd (s : State) : exec .evTokd s = execEvTokd s := rfl
@[simp] theorem exec_evTokn (s : State) : exec .evTokn s = execEvTokn s := rfl
@[simp] theorem exec_evDatab (s : State) : exec .evDatab s = execEvDatab s := rfl
@[simp] theorem exec_evPreq (s : State) : exec .evPreq s = execEvPreq s := rfl
@[simp] theorem exec_evPact (s : State) : exec .evPact s = execEvPact s := rfl
@[simp] theorem exec_evPdone (s : State) : exec .evPdone s = execEvPdone s := rfl
@[simp] theorem exec_evPdeact (s : State) : exec .evPdeact s = execEvPdeact s := rfl
@[simp] theorem exec_evPack (s : State) : exec .evPack s = execEvPack s := rfl
@[simp] theorem exec_evWbd (s : State) : exec .evWbd s = execEvWbd s := rfl
@[simp] theorem exec_evWbn (s : State) : exec .evWbn s = execEvWbn s := rfl
@[simp] theorem exec_evTransientTimeout (s : State) : exec .evTransientTimeout s = execEvTransientTimeout s := rfl
@[simp] theorem exec_evBypassTimeout (s : State) : exec .evBypassTimeout s = execEvBypassTimeout s := rfl
@[simp] theorem exec_evPersistentDemandRepeat (s : State) : exec .evPersistentDemandRepeat s = execEvPersistentDemandRepeat s := rfl
@[simp] theorem exec_evPwatch (s : State) : exec .evPwatch s = execEvPwatch s := rfl
@[simp] theorem exec_evHeadUrgent (s : State) : exec .evHeadUrgent s = execEvHeadUrgent s := rfl
@[simp] theorem exec_evRingRegister (s : State) : exec .evRingRegister s = execEvRingRegister s := rfl
@[simp] theorem exec_evRingUnregister (s : State) : exec .evRingUnregister s = execEvRingUnregister s := rfl
@[simp] theorem exec_evDoorbell (s : State) : exec .evDoorbell s = execEvDoorbell s := rfl
@[simp] theorem exec_evRingFreeze (s : State) : exec .evRingFreeze s = execEvRingFreeze s := rfl
@[simp] theorem exec_evRingRemap (s : State) : exec .evRingRemap s = execEvRingRemap s := rfl
@[simp] theorem exec_evEntryConsume (s : State) : exec .evEntryConsume s = execEvEntryConsume s := rfl
@[simp] theorem exec_evNodeComplete (s : State) : exec .evNodeComplete s = execEvNodeComplete s := rfl
@[simp] theorem exec_evNodeLaunch (s : State) : exec .evNodeLaunch s = execEvNodeLaunch s := rfl
@[simp] theorem exec_evRpfTranslate (s : State) : exec .evRpfTranslate s = execEvRpfTranslate s := rfl
@[simp] theorem exec_evNodeCopy (s : State) : exec .evNodeCopy s = execEvNodeCopy s := rfl
@[simp] theorem exec_evNodeChain (s : State) : exec .evNodeChain s = execEvNodeChain s := rfl
@[simp] theorem exec_evNodeBundle (s : State) : exec .evNodeBundle s = execEvNodeBundle s := rfl
@[simp] theorem exec_evNodeSignal (s : State) : exec .evNodeSignal s = execEvNodeSignal s := rfl
@[simp] theorem exec_evNodeEvfence (s : State) : exec .evNodeEvfence s = execEvNodeEvfence s := rfl
@[simp] theorem exec_evNodeTimed (s : State) : exec .evNodeTimed s = execEvNodeTimed s := rfl
@[simp] theorem exec_evNodeResync (s : State) : exec .evNodeResync s = execEvNodeResync s := rfl
@[simp] theorem exec_evTimedPreempt (s : State) : exec .evTimedPreempt s = execEvTimedPreempt s := rfl
@[simp] theorem exec_evTimedResume (s : State) : exec .evTimedResume s = execEvTimedResume s := rfl
@[simp] theorem exec_evTimedLaunch (s : State) : exec .evTimedLaunch s = execEvTimedLaunch s := rfl
@[simp] theorem exec_evStraggler (s : State) : exec .evStraggler s = execEvStraggler s := rfl
@[simp] theorem exec_evGo (s : State) : exec .evGo s = execEvGo s := rfl
@[simp] theorem exec_evDepositSort (s : State) : exec .evDepositSort s = execEvDepositSort s := rfl
@[simp] theorem exec_evGangOffer (s : State) : exec .evGangOffer s = execEvGangOffer s := rfl
@[simp] theorem exec_evPlace (s : State) : exec .evPlace s = execEvPlace s := rfl
@[simp] theorem exec_evPlaced (s : State) : exec .evPlaced s = execEvPlaced s := rfl
@[simp] theorem exec_evRefused (s : State) : exec .evRefused s = execEvRefused s := rfl
@[simp] theorem exec_evRetired (s : State) : exec .evRetired s = execEvRetired s := rfl
@[simp] theorem exec_evSave (s : State) : exec .evSave s = execEvSave s := rfl
@[simp] theorem exec_evGangSave (s : State) : exec .evGangSave s = execEvGangSave s := rfl
@[simp] theorem exec_evSaved (s : State) : exec .evSaved s = execEvSaved s := rfl
@[simp] theorem exec_evRestore (s : State) : exec .evRestore s = execEvRestore s := rfl
@[simp] theorem exec_evFault (s : State) : exec .evFault s = execEvFault s := rfl
@[simp] theorem exec_evPret (s : State) : exec .evPret s = execEvPret s := rfl
@[simp] theorem exec_evContextCreate (s : State) : exec .evContextCreate s = execEvContextCreate s := rfl
@[simp] theorem exec_evContextRelease (s : State) : exec .evContextRelease s = execEvContextRelease s := rfl
@[simp] theorem exec_evTeardown (s : State) : exec .evTeardown s = execEvTeardown s := rfl
@[simp] theorem exec_evDriverPreempt (s : State) : exec .evDriverPreempt s = execEvDriverPreempt s := rfl
@[simp] theorem exec_evDriverResume (s : State) : exec .evDriverResume s = execEvDriverResume s := rfl
@[simp] theorem exec_evGot (s : State) : exec .evGot s = execEvGot s := rfl
@[simp] theorem exec_evPrdone (s : State) : exec .evPrdone s = execEvPrdone s := rfl
@[simp] theorem exec_evPrfail (s : State) : exec .evPrfail s = execEvPrfail s := rfl
@[simp] theorem exec_evInvalidate (s : State) : exec .evInvalidate s = execEvInvalidate s := rfl
@[simp] theorem exec_evInvalidationDone (s : State) : exec .evInvalidationDone s = execEvInvalidationDone s := rfl
@[simp] theorem exec_evUnfence (s : State) : exec .evUnfence s = execEvUnfence s := rfl
@[simp] theorem exec_evQclear (s : State) : exec .evQclear s = execEvQclear s := rfl
@[simp] theorem exec_evPeerSetUp (s : State) : exec .evPeerSetUp s = execEvPeerSetUp s := rfl
@[simp] theorem exec_evRegisterWrite (s : State) : exec .evRegisterWrite s = execEvRegisterWrite s := rfl
@[simp] theorem exec_evWarmReset (s : State) : exec .evWarmReset s = execEvWarmReset s := rfl
@[simp] theorem exec_evColdReset (s : State) : exec .evColdReset s = execEvColdReset s := rfl
@[simp] theorem exec_evHreq (s : State) : exec .evHreq s = execEvHreq s := rfl
@[simp] theorem exec_evHealthPeriodic (s : State) : exec .evHealthPeriodic s = execEvHealthPeriodic s := rfl
@[simp] theorem exec_evHealthRecord (s : State) : exec .evHealthRecord s = execEvHealthRecord s := rfl
@[simp] theorem exec_evLdrgo (s : State) : exec .evLdrgo s = execEvLdrgo s := rfl
@[simp] theorem exec_evFirmwareVerified (s : State) : exec .evFirmwareVerified s = execEvFirmwareVerified s := rfl
@[simp] theorem exec_evHeartbeatMissed (s : State) : exec .evHeartbeatMissed s = execEvHeartbeatMissed s := rfl
@[simp] theorem exec_evInboundWrite (s : State) : exec .evInboundWrite s = execEvInboundWrite s := rfl
@[simp] theorem exec_evInboundRead (s : State) : exec .evInboundRead s = execEvInboundRead s := rfl
@[simp] theorem exec_evLinkRetrain (s : State) : exec .evLinkRetrain s = execEvLinkRetrain s := rfl
@[simp] theorem exec_evTransportRead (s : State) : exec .evTransportRead s = execEvTransportRead s := rfl
@[simp] theorem exec_evTransportWrite (s : State) : exec .evTransportWrite s = execEvTransportWrite s := rfl
@[simp] theorem exec_evTransportAtomic (s : State) : exec .evTransportAtomic s = execEvTransportAtomic s := rfl
@[simp] theorem exec_evCpypeerData (s : State) : exec .evCpypeerData s = execEvCpypeerData s := rfl
@[simp] theorem exec_evTransportCompletion (s : State) : exec .evTransportCompletion s = execEvTransportCompletion s := rfl
@[simp] theorem exec_evPeerDown (s : State) : exec .evPeerDown s = execEvPeerDown s := rfl
@[simp] theorem exec_evFlitRetransmit (s : State) : exec .evFlitRetransmit s = execEvFlitRetransmit s := rfl
@[simp] theorem exec_evParityDiscard (s : State) : exec .evParityDiscard s = execEvParityDiscard s := rfl
@[simp] theorem exec_evGroupReplay (s : State) : exec .evGroupReplay s = execEvGroupReplay s := rfl
@[simp] theorem exec_evUncorrectable (s : State) : exec .evUncorrectable s = execEvUncorrectable s := rfl
@[simp] theorem exec_evScrubStep (s : State) : exec .evScrubStep s = execEvScrubStep s := rfl
@[simp] theorem exec_evQuarantineClean (s : State) : exec .evQuarantineClean s = execEvQuarantineClean s := rfl
@[simp] theorem exec_evDemeritDecay (s : State) : exec .evDemeritDecay s = execEvDemeritDecay s := rfl
@[simp] theorem exec_evPtpMessage (s : State) : exec .evPtpMessage s = execEvPtpMessage s := rfl
@[simp] theorem exec_evSyncTimeout (s : State) : exec .evSyncTimeout s = execEvSyncTimeout s := rfl
@[simp] theorem exec_evHoldoverTimeout (s : State) : exec .evHoldoverTimeout s = execEvHoldoverTimeout s := rfl
@[simp] theorem exec_evClockStep (s : State) : exec .evClockStep s = execEvClockStep s := rfl
@[simp] theorem exec_evPowerTrip (s : State) : exec .evPowerTrip s = execEvPowerTrip s := rfl
@[simp] theorem exec_evJunction95 (s : State) : exec .evJunction95 s = execEvJunction95 s := rfl
@[simp] theorem exec_evJunction105 (s : State) : exec .evJunction105 s = execEvJunction105 s := rfl
@[simp] theorem exec_evFlowLow (s : State) : exec .evFlowLow s = execEvFlowLow s := rfl
@[simp] theorem exec_evAdaptiveUndervolting (s : State) : exec .evAdaptiveUndervolting s = execEvAdaptiveUndervolting s := rfl
@[simp] theorem exec_evPmcWrap (s : State) : exec .evPmcWrap s = execEvPmcWrap s := rfl

end Sys2Proof.Machine
end

