-- ==== Sys2Proof/Laws/State.lean ====
section
/-! SUPPORT. The fields of the state after each named update, one lemma a field, and what a part of the device
is after an update of a part. -/

namespace Sys2Proof.Machine

/-! ## onWarp -/

@[simp] theorem State.onWarp_warp (s : State) (f : Warp → Warp) : (s.onWarp f).warp = f s.warp := rfl
@[simp] theorem State.onWarp_others (s : State) (f : Warp → Warp) : (s.onWarp f).others = s.others := rfl
@[simp] theorem State.onWarp_snap (s : State) (f : Warp → Warp) : (s.onWarp f).snap = s.snap := rfl
@[simp] theorem State.onWarp_grp (s : State) (f : Warp → Warp) : (s.onWarp f).grp = s.grp := rfl
@[simp] theorem State.onWarp_agenda (s : State) (f : Warp → Warp) : (s.onWarp f).agenda = s.agenda := rfl
@[simp] theorem State.onWarp_ev (s : State) (f : Warp → Warp) : (s.onWarp f).ev = s.ev := rfl
@[simp] theorem State.onWarp_fresh (s : State) (f : Warp → Warp) : (s.onWarp f).fresh = s.fresh := rfl
@[simp] theorem State.onWarp_round (s : State) (f : Warp → Warp) : (s.onWarp f).round = s.round := rfl
@[simp] theorem State.onWarp_idle (s : State) (f : Warp → Warp) : (s.onWarp f).idle = s.idle := rfl
@[simp] theorem State.onWarp_mem (s : State) (f : Warp → Warp) : (s.onWarp f).mem = s.mem := rfl
@[simp] theorem State.onWarp_sram (s : State) (f : Warp → Warp) : (s.onWarp f).sram = s.sram := rfl
@[simp] theorem State.onWarp_bstore (s : State) (f : Warp → Warp) : (s.onWarp f).bstore = s.bstore := rfl
@[simp] theorem State.onWarp_cores (s : State) (f : Warp → Warp) : (s.onWarp f).cores = s.cores := rfl
@[simp] theorem State.onWarp_clusters (s : State) (f : Warp → Warp) : (s.onWarp f).clusters = s.clusters := rfl
@[simp] theorem State.onWarp_ctxs (s : State) (f : Warp → Warp) : (s.onWarp f).ctxs = s.ctxs := rfl
@[simp] theorem State.onWarp_grids (s : State) (f : Warp → Warp) : (s.onWarp f).grids = s.grids := rfl
@[simp] theorem State.onWarp_gangs (s : State) (f : Warp → Warp) : (s.onWarp f).gangs = s.gangs := rfl
@[simp] theorem State.onWarp_dtb (s : State) (f : Warp → Warp) : (s.onWarp f).dtb = s.dtb := rfl
@[simp] theorem State.onWarp_quarantine (s : State) (f : Warp → Warp) : (s.onWarp f).quarantine = s.quarantine := rfl
@[simp] theorem State.onWarp_versions (s : State) (f : Warp → Warp) : (s.onWarp f).versions = s.versions := rfl
@[simp] theorem State.onWarp_votes (s : State) (f : Warp → Warp) : (s.onWarp f).votes = s.votes := rfl
@[simp] theorem State.onWarp_nodes (s : State) (f : Warp → Warp) : (s.onWarp f).nodes = s.nodes := rfl
@[simp] theorem State.onWarp_credits (s : State) (f : Warp → Warp) : (s.onWarp f).credits = s.credits := rfl
@[simp] theorem State.onWarp_records (s : State) (f : Warp → Warp) : (s.onWarp f).records = s.records := rfl
@[simp] theorem State.onWarp_nextRecord (s : State) (f : Warp → Warp) : (s.onWarp f).nextRecord = s.nextRecord := rfl
@[simp] theorem State.onWarp_nextNode (s : State) (f : Warp → Warp) : (s.onWarp f).nextNode = s.nextNode := rfl
@[simp] theorem State.onWarp_endedGrids (s : State) (f : Warp → Warp) : (s.onWarp f).endedGrids = s.endedGrids := rfl
@[simp] theorem State.onWarp_msgs (s : State) (f : Warp → Warp) : (s.onWarp f).msgs = s.msgs := rfl
@[simp] theorem State.onWarp_lastCluster (s : State) (f : Warp → Warp) : (s.onWarp f).lastCluster = s.lastCluster := rfl
@[simp] theorem State.onWarp_reserved (s : State) (f : Warp → Warp) : (s.onWarp f).reserved = s.reserved := rfl
@[simp] theorem State.onWarp_readyCount (s : State) (f : Warp → Warp) : (s.onWarp f).readyCount = s.readyCount := rfl
@[simp] theorem State.onWarp_lastRing (s : State) (f : Warp → Warp) : (s.onWarp f).lastRing = s.lastRing := rfl
@[simp] theorem State.onWarp_images (s : State) (f : Warp → Warp) : (s.onWarp f).images = s.images := rfl
@[simp] theorem State.onWarp_nextImage (s : State) (f : Warp → Warp) : (s.onWarp f).nextImage = s.nextImage := rfl
@[simp] theorem State.onWarp_timed (s : State) (f : Warp → Warp) : (s.onWarp f).timed = s.timed := rfl
@[simp] theorem State.onWarp_toks (s : State) (f : Warp → Warp) : (s.onWarp f).toks = s.toks := rfl
@[simp] theorem State.onWarp_retention (s : State) (f : Warp → Warp) : (s.onWarp f).retention = s.retention := rfl
@[simp] theorem State.onWarp_memCopy (s : State) (f : Warp → Warp) : (s.onWarp f).memCopy = s.memCopy := rfl
@[simp] theorem State.onWarp_ingress (s : State) (f : Warp → Warp) : (s.onWarp f).ingress = s.ingress := rfl
@[simp] theorem State.onWarp_cohMsgs (s : State) (f : Warp → Warp) : (s.onWarp f).cohMsgs = s.cohMsgs := rfl
@[simp] theorem State.onWarp_cohReqs (s : State) (f : Warp → Warp) : (s.onWarp f).cohReqs = s.cohReqs := rfl
@[simp] theorem State.onWarp_preqs (s : State) (f : Warp → Warp) : (s.onWarp f).preqs = s.preqs := rfl
@[simp] theorem State.onWarp_arbiters (s : State) (f : Warp → Warp) : (s.onWarp f).arbiters = s.arbiters := rfl
@[simp] theorem State.onWarp_recoveries (s : State) (f : Warp → Warp) : (s.onWarp f).recoveries = s.recoveries := rfl
@[simp] theorem State.onWarp_peers (s : State) (f : Warp → Warp) : (s.onWarp f).peers = s.peers := rfl
@[simp] theorem State.onWarp_errors (s : State) (f : Warp → Warp) : (s.onWarp f).errors = s.errors := rfl
@[simp] theorem State.onWarp_retiredUnits (s : State) (f : Warp → Warp) : (s.onWarp f).retiredUnits = s.retiredUnits := rfl
@[simp] theorem State.onWarp_l2pmc (s : State) (f : Warp → Warp) : (s.onWarp f).l2pmc = s.l2pmc := rfl
@[simp] theorem State.onWarp_l2pmcsel (s : State) (f : Warp → Warp) : (s.onWarp f).l2pmcsel = s.l2pmcsel := rfl
@[simp] theorem State.onWarp_dev (s : State) (f : Warp → Warp) : (s.onWarp f).dev = s.dev := rfl
@[simp] theorem State.onWarp_nextEntry (s : State) (f : Warp → Warp) : (s.onWarp f).nextEntry = s.nextEntry := rfl
@[simp] theorem State.onWarp_nextPresent (s : State) (f : Warp → Warp) : (s.onWarp f).nextPresent = s.nextPresent := rfl
@[simp] theorem State.onWarp_nextUid (s : State) (f : Warp → Warp) : (s.onWarp f).nextUid = s.nextUid := rfl
@[simp] theorem State.onWarp_nextGrid (s : State) (f : Warp → Warp) : (s.onWarp f).nextGrid = s.nextGrid := rfl
@[simp] theorem State.onWarp_nextGang (s : State) (f : Warp → Warp) : (s.onWarp f).nextGang = s.nextGang := rfl

/-! ## onRegs -/

@[simp] theorem State.onRegs_warp (s : State) (f : Regs → Regs) : (s.onRegs f).warp = { s.warp with regs := f s.warp.regs } := rfl
@[simp] theorem State.onRegs_others (s : State) (f : Regs → Regs) : (s.onRegs f).others = s.others := rfl
@[simp] theorem State.onRegs_snap (s : State) (f : Regs → Regs) : (s.onRegs f).snap = s.snap := rfl
@[simp] theorem State.onRegs_grp (s : State) (f : Regs → Regs) : (s.onRegs f).grp = s.grp := rfl
@[simp] theorem State.onRegs_agenda (s : State) (f : Regs → Regs) : (s.onRegs f).agenda = s.agenda := rfl
@[simp] theorem State.onRegs_ev (s : State) (f : Regs → Regs) : (s.onRegs f).ev = s.ev := rfl
@[simp] theorem State.onRegs_fresh (s : State) (f : Regs → Regs) : (s.onRegs f).fresh = s.fresh := rfl
@[simp] theorem State.onRegs_round (s : State) (f : Regs → Regs) : (s.onRegs f).round = s.round := rfl
@[simp] theorem State.onRegs_idle (s : State) (f : Regs → Regs) : (s.onRegs f).idle = s.idle := rfl
@[simp] theorem State.onRegs_mem (s : State) (f : Regs → Regs) : (s.onRegs f).mem = s.mem := rfl
@[simp] theorem State.onRegs_sram (s : State) (f : Regs → Regs) : (s.onRegs f).sram = s.sram := rfl
@[simp] theorem State.onRegs_bstore (s : State) (f : Regs → Regs) : (s.onRegs f).bstore = s.bstore := rfl
@[simp] theorem State.onRegs_cores (s : State) (f : Regs → Regs) : (s.onRegs f).cores = s.cores := rfl
@[simp] theorem State.onRegs_clusters (s : State) (f : Regs → Regs) : (s.onRegs f).clusters = s.clusters := rfl
@[simp] theorem State.onRegs_ctxs (s : State) (f : Regs → Regs) : (s.onRegs f).ctxs = s.ctxs := rfl
@[simp] theorem State.onRegs_grids (s : State) (f : Regs → Regs) : (s.onRegs f).grids = s.grids := rfl
@[simp] theorem State.onRegs_gangs (s : State) (f : Regs → Regs) : (s.onRegs f).gangs = s.gangs := rfl
@[simp] theorem State.onRegs_dtb (s : State) (f : Regs → Regs) : (s.onRegs f).dtb = s.dtb := rfl
@[simp] theorem State.onRegs_quarantine (s : State) (f : Regs → Regs) : (s.onRegs f).quarantine = s.quarantine := rfl
@[simp] theorem State.onRegs_versions (s : State) (f : Regs → Regs) : (s.onRegs f).versions = s.versions := rfl
@[simp] theorem State.onRegs_votes (s : State) (f : Regs → Regs) : (s.onRegs f).votes = s.votes := rfl
@[simp] theorem State.onRegs_nodes (s : State) (f : Regs → Regs) : (s.onRegs f).nodes = s.nodes := rfl
@[simp] theorem State.onRegs_credits (s : State) (f : Regs → Regs) : (s.onRegs f).credits = s.credits := rfl
@[simp] theorem State.onRegs_records (s : State) (f : Regs → Regs) : (s.onRegs f).records = s.records := rfl
@[simp] theorem State.onRegs_nextRecord (s : State) (f : Regs → Regs) : (s.onRegs f).nextRecord = s.nextRecord := rfl
@[simp] theorem State.onRegs_nextNode (s : State) (f : Regs → Regs) : (s.onRegs f).nextNode = s.nextNode := rfl
@[simp] theorem State.onRegs_endedGrids (s : State) (f : Regs → Regs) : (s.onRegs f).endedGrids = s.endedGrids := rfl
@[simp] theorem State.onRegs_msgs (s : State) (f : Regs → Regs) : (s.onRegs f).msgs = s.msgs := rfl
@[simp] theorem State.onRegs_lastCluster (s : State) (f : Regs → Regs) : (s.onRegs f).lastCluster = s.lastCluster := rfl
@[simp] theorem State.onRegs_reserved (s : State) (f : Regs → Regs) : (s.onRegs f).reserved = s.reserved := rfl
@[simp] theorem State.onRegs_readyCount (s : State) (f : Regs → Regs) : (s.onRegs f).readyCount = s.readyCount := rfl
@[simp] theorem State.onRegs_lastRing (s : State) (f : Regs → Regs) : (s.onRegs f).lastRing = s.lastRing := rfl
@[simp] theorem State.onRegs_images (s : State) (f : Regs → Regs) : (s.onRegs f).images = s.images := rfl
@[simp] theorem State.onRegs_nextImage (s : State) (f : Regs → Regs) : (s.onRegs f).nextImage = s.nextImage := rfl
@[simp] theorem State.onRegs_timed (s : State) (f : Regs → Regs) : (s.onRegs f).timed = s.timed := rfl
@[simp] theorem State.onRegs_toks (s : State) (f : Regs → Regs) : (s.onRegs f).toks = s.toks := rfl
@[simp] theorem State.onRegs_retention (s : State) (f : Regs → Regs) : (s.onRegs f).retention = s.retention := rfl
@[simp] theorem State.onRegs_memCopy (s : State) (f : Regs → Regs) : (s.onRegs f).memCopy = s.memCopy := rfl
@[simp] theorem State.onRegs_ingress (s : State) (f : Regs → Regs) : (s.onRegs f).ingress = s.ingress := rfl
@[simp] theorem State.onRegs_cohMsgs (s : State) (f : Regs → Regs) : (s.onRegs f).cohMsgs = s.cohMsgs := rfl
@[simp] theorem State.onRegs_cohReqs (s : State) (f : Regs → Regs) : (s.onRegs f).cohReqs = s.cohReqs := rfl
@[simp] theorem State.onRegs_preqs (s : State) (f : Regs → Regs) : (s.onRegs f).preqs = s.preqs := rfl
@[simp] theorem State.onRegs_arbiters (s : State) (f : Regs → Regs) : (s.onRegs f).arbiters = s.arbiters := rfl
@[simp] theorem State.onRegs_recoveries (s : State) (f : Regs → Regs) : (s.onRegs f).recoveries = s.recoveries := rfl
@[simp] theorem State.onRegs_peers (s : State) (f : Regs → Regs) : (s.onRegs f).peers = s.peers := rfl
@[simp] theorem State.onRegs_errors (s : State) (f : Regs → Regs) : (s.onRegs f).errors = s.errors := rfl
@[simp] theorem State.onRegs_retiredUnits (s : State) (f : Regs → Regs) : (s.onRegs f).retiredUnits = s.retiredUnits := rfl
@[simp] theorem State.onRegs_l2pmc (s : State) (f : Regs → Regs) : (s.onRegs f).l2pmc = s.l2pmc := rfl
@[simp] theorem State.onRegs_l2pmcsel (s : State) (f : Regs → Regs) : (s.onRegs f).l2pmcsel = s.l2pmcsel := rfl
@[simp] theorem State.onRegs_dev (s : State) (f : Regs → Regs) : (s.onRegs f).dev = s.dev := rfl
@[simp] theorem State.onRegs_nextEntry (s : State) (f : Regs → Regs) : (s.onRegs f).nextEntry = s.nextEntry := rfl
@[simp] theorem State.onRegs_nextPresent (s : State) (f : Regs → Regs) : (s.onRegs f).nextPresent = s.nextPresent := rfl
@[simp] theorem State.onRegs_nextUid (s : State) (f : Regs → Regs) : (s.onRegs f).nextUid = s.nextUid := rfl
@[simp] theorem State.onRegs_nextGrid (s : State) (f : Regs → Regs) : (s.onRegs f).nextGrid = s.nextGrid := rfl
@[simp] theorem State.onRegs_nextGang (s : State) (f : Regs → Regs) : (s.onRegs f).nextGang = s.nextGang := rfl

/-! ## tick -/

@[simp] theorem State.tick_warp (s : State) (n : Nat) : (s.tick n).warp = s.warp := rfl
@[simp] theorem State.tick_others (s : State) (n : Nat) : (s.tick n).others = s.others := rfl
@[simp] theorem State.tick_snap (s : State) (n : Nat) : (s.tick n).snap = s.snap := rfl
@[simp] theorem State.tick_grp (s : State) (n : Nat) : (s.tick n).grp = s.grp := rfl
@[simp] theorem State.tick_agenda (s : State) (n : Nat) : (s.tick n).agenda = s.agenda := rfl
@[simp] theorem State.tick_ev (s : State) (n : Nat) : (s.tick n).ev = s.ev := rfl
@[simp] theorem State.tick_fresh (s : State) (n : Nat) : (s.tick n).fresh = s.fresh + n := rfl
@[simp] theorem State.tick_round (s : State) (n : Nat) : (s.tick n).round = s.round := rfl
@[simp] theorem State.tick_idle (s : State) (n : Nat) : (s.tick n).idle = s.idle := rfl
@[simp] theorem State.tick_mem (s : State) (n : Nat) : (s.tick n).mem = s.mem := rfl
@[simp] theorem State.tick_sram (s : State) (n : Nat) : (s.tick n).sram = s.sram := rfl
@[simp] theorem State.tick_bstore (s : State) (n : Nat) : (s.tick n).bstore = s.bstore := rfl
@[simp] theorem State.tick_cores (s : State) (n : Nat) : (s.tick n).cores = s.cores := rfl
@[simp] theorem State.tick_clusters (s : State) (n : Nat) : (s.tick n).clusters = s.clusters := rfl
@[simp] theorem State.tick_ctxs (s : State) (n : Nat) : (s.tick n).ctxs = s.ctxs := rfl
@[simp] theorem State.tick_grids (s : State) (n : Nat) : (s.tick n).grids = s.grids := rfl
@[simp] theorem State.tick_gangs (s : State) (n : Nat) : (s.tick n).gangs = s.gangs := rfl
@[simp] theorem State.tick_dtb (s : State) (n : Nat) : (s.tick n).dtb = s.dtb := rfl
@[simp] theorem State.tick_quarantine (s : State) (n : Nat) : (s.tick n).quarantine = s.quarantine := rfl
@[simp] theorem State.tick_versions (s : State) (n : Nat) : (s.tick n).versions = s.versions := rfl
@[simp] theorem State.tick_votes (s : State) (n : Nat) : (s.tick n).votes = s.votes := rfl
@[simp] theorem State.tick_nodes (s : State) (n : Nat) : (s.tick n).nodes = s.nodes := rfl
@[simp] theorem State.tick_credits (s : State) (n : Nat) : (s.tick n).credits = s.credits := rfl
@[simp] theorem State.tick_records (s : State) (n : Nat) : (s.tick n).records = s.records := rfl
@[simp] theorem State.tick_nextRecord (s : State) (n : Nat) : (s.tick n).nextRecord = s.nextRecord := rfl
@[simp] theorem State.tick_nextNode (s : State) (n : Nat) : (s.tick n).nextNode = s.nextNode := rfl
@[simp] theorem State.tick_endedGrids (s : State) (n : Nat) : (s.tick n).endedGrids = s.endedGrids := rfl
@[simp] theorem State.tick_msgs (s : State) (n : Nat) : (s.tick n).msgs = s.msgs := rfl
@[simp] theorem State.tick_lastCluster (s : State) (n : Nat) : (s.tick n).lastCluster = s.lastCluster := rfl
@[simp] theorem State.tick_reserved (s : State) (n : Nat) : (s.tick n).reserved = s.reserved := rfl
@[simp] theorem State.tick_readyCount (s : State) (n : Nat) : (s.tick n).readyCount = s.readyCount := rfl
@[simp] theorem State.tick_lastRing (s : State) (n : Nat) : (s.tick n).lastRing = s.lastRing := rfl
@[simp] theorem State.tick_images (s : State) (n : Nat) : (s.tick n).images = s.images := rfl
@[simp] theorem State.tick_nextImage (s : State) (n : Nat) : (s.tick n).nextImage = s.nextImage := rfl
@[simp] theorem State.tick_timed (s : State) (n : Nat) : (s.tick n).timed = s.timed := rfl
@[simp] theorem State.tick_toks (s : State) (n : Nat) : (s.tick n).toks = s.toks := rfl
@[simp] theorem State.tick_retention (s : State) (n : Nat) : (s.tick n).retention = s.retention := rfl
@[simp] theorem State.tick_memCopy (s : State) (n : Nat) : (s.tick n).memCopy = s.memCopy := rfl
@[simp] theorem State.tick_ingress (s : State) (n : Nat) : (s.tick n).ingress = s.ingress := rfl
@[simp] theorem State.tick_cohMsgs (s : State) (n : Nat) : (s.tick n).cohMsgs = s.cohMsgs := rfl
@[simp] theorem State.tick_cohReqs (s : State) (n : Nat) : (s.tick n).cohReqs = s.cohReqs := rfl
@[simp] theorem State.tick_preqs (s : State) (n : Nat) : (s.tick n).preqs = s.preqs := rfl
@[simp] theorem State.tick_arbiters (s : State) (n : Nat) : (s.tick n).arbiters = s.arbiters := rfl
@[simp] theorem State.tick_recoveries (s : State) (n : Nat) : (s.tick n).recoveries = s.recoveries := rfl
@[simp] theorem State.tick_peers (s : State) (n : Nat) : (s.tick n).peers = s.peers := rfl
@[simp] theorem State.tick_errors (s : State) (n : Nat) : (s.tick n).errors = s.errors := rfl
@[simp] theorem State.tick_retiredUnits (s : State) (n : Nat) : (s.tick n).retiredUnits = s.retiredUnits := rfl
@[simp] theorem State.tick_l2pmc (s : State) (n : Nat) : (s.tick n).l2pmc = s.l2pmc := rfl
@[simp] theorem State.tick_l2pmcsel (s : State) (n : Nat) : (s.tick n).l2pmcsel = s.l2pmcsel := rfl
@[simp] theorem State.tick_dev (s : State) (n : Nat) : (s.tick n).dev = s.dev := rfl
@[simp] theorem State.tick_nextEntry (s : State) (n : Nat) : (s.tick n).nextEntry = s.nextEntry := rfl
@[simp] theorem State.tick_nextPresent (s : State) (n : Nat) : (s.tick n).nextPresent = s.nextPresent := rfl
@[simp] theorem State.tick_nextUid (s : State) (n : Nat) : (s.tick n).nextUid = s.nextUid := rfl
@[simp] theorem State.tick_nextGrid (s : State) (n : Nat) : (s.tick n).nextGrid = s.nextGrid := rfl
@[simp] theorem State.tick_nextGang (s : State) (n : Nat) : (s.tick n).nextGang = s.nextGang := rfl

/-! ## onCtx -/

@[simp] theorem State.onCtx_warp (s : State) (c : Nat) (f : Ctx → Ctx) : (s.onCtx c f).warp = s.warp := rfl
@[simp] theorem State.onCtx_others (s : State) (c : Nat) (f : Ctx → Ctx) : (s.onCtx c f).others = s.others := rfl
@[simp] theorem State.onCtx_snap (s : State) (c : Nat) (f : Ctx → Ctx) : (s.onCtx c f).snap = s.snap := rfl
@[simp] theorem State.onCtx_grp (s : State) (c : Nat) (f : Ctx → Ctx) : (s.onCtx c f).grp = s.grp := rfl
@[simp] theorem State.onCtx_agenda (s : State) (c : Nat) (f : Ctx → Ctx) : (s.onCtx c f).agenda = s.agenda := rfl
@[simp] theorem State.onCtx_ev (s : State) (c : Nat) (f : Ctx → Ctx) : (s.onCtx c f).ev = s.ev := rfl
@[simp] theorem State.onCtx_fresh (s : State) (c : Nat) (f : Ctx → Ctx) : (s.onCtx c f).fresh = s.fresh := rfl
@[simp] theorem State.onCtx_round (s : State) (c : Nat) (f : Ctx → Ctx) : (s.onCtx c f).round = s.round := rfl
@[simp] theorem State.onCtx_idle (s : State) (c : Nat) (f : Ctx → Ctx) : (s.onCtx c f).idle = s.idle := rfl
@[simp] theorem State.onCtx_mem (s : State) (c : Nat) (f : Ctx → Ctx) : (s.onCtx c f).mem = s.mem := rfl
@[simp] theorem State.onCtx_sram (s : State) (c : Nat) (f : Ctx → Ctx) : (s.onCtx c f).sram = s.sram := rfl
@[simp] theorem State.onCtx_bstore (s : State) (c : Nat) (f : Ctx → Ctx) : (s.onCtx c f).bstore = s.bstore := rfl
@[simp] theorem State.onCtx_cores (s : State) (c : Nat) (f : Ctx → Ctx) : (s.onCtx c f).cores = s.cores := rfl
@[simp] theorem State.onCtx_clusters (s : State) (c : Nat) (f : Ctx → Ctx) : (s.onCtx c f).clusters = s.clusters := rfl
@[simp] theorem State.onCtx_ctxs (s : State) (c : Nat) (f : Ctx → Ctx) : (s.onCtx c f).ctxs = SMap.upd s.ctxs c {} f := rfl
@[simp] theorem State.onCtx_grids (s : State) (c : Nat) (f : Ctx → Ctx) : (s.onCtx c f).grids = s.grids := rfl
@[simp] theorem State.onCtx_gangs (s : State) (c : Nat) (f : Ctx → Ctx) : (s.onCtx c f).gangs = s.gangs := rfl
@[simp] theorem State.onCtx_dtb (s : State) (c : Nat) (f : Ctx → Ctx) : (s.onCtx c f).dtb = s.dtb := rfl
@[simp] theorem State.onCtx_quarantine (s : State) (c : Nat) (f : Ctx → Ctx) : (s.onCtx c f).quarantine = s.quarantine := rfl
@[simp] theorem State.onCtx_versions (s : State) (c : Nat) (f : Ctx → Ctx) : (s.onCtx c f).versions = s.versions := rfl
@[simp] theorem State.onCtx_votes (s : State) (c : Nat) (f : Ctx → Ctx) : (s.onCtx c f).votes = s.votes := rfl
@[simp] theorem State.onCtx_nodes (s : State) (c : Nat) (f : Ctx → Ctx) : (s.onCtx c f).nodes = s.nodes := rfl
@[simp] theorem State.onCtx_credits (s : State) (c : Nat) (f : Ctx → Ctx) : (s.onCtx c f).credits = s.credits := rfl
@[simp] theorem State.onCtx_records (s : State) (c : Nat) (f : Ctx → Ctx) : (s.onCtx c f).records = s.records := rfl
@[simp] theorem State.onCtx_nextRecord (s : State) (c : Nat) (f : Ctx → Ctx) : (s.onCtx c f).nextRecord = s.nextRecord := rfl
@[simp] theorem State.onCtx_nextNode (s : State) (c : Nat) (f : Ctx → Ctx) : (s.onCtx c f).nextNode = s.nextNode := rfl
@[simp] theorem State.onCtx_endedGrids (s : State) (c : Nat) (f : Ctx → Ctx) : (s.onCtx c f).endedGrids = s.endedGrids := rfl
@[simp] theorem State.onCtx_msgs (s : State) (c : Nat) (f : Ctx → Ctx) : (s.onCtx c f).msgs = s.msgs := rfl
@[simp] theorem State.onCtx_lastCluster (s : State) (c : Nat) (f : Ctx → Ctx) : (s.onCtx c f).lastCluster = s.lastCluster := rfl
@[simp] theorem State.onCtx_reserved (s : State) (c : Nat) (f : Ctx → Ctx) : (s.onCtx c f).reserved = s.reserved := rfl
@[simp] theorem State.onCtx_readyCount (s : State) (c : Nat) (f : Ctx → Ctx) : (s.onCtx c f).readyCount = s.readyCount := rfl
@[simp] theorem State.onCtx_lastRing (s : State) (c : Nat) (f : Ctx → Ctx) : (s.onCtx c f).lastRing = s.lastRing := rfl
@[simp] theorem State.onCtx_images (s : State) (c : Nat) (f : Ctx → Ctx) : (s.onCtx c f).images = s.images := rfl
@[simp] theorem State.onCtx_nextImage (s : State) (c : Nat) (f : Ctx → Ctx) : (s.onCtx c f).nextImage = s.nextImage := rfl
@[simp] theorem State.onCtx_timed (s : State) (c : Nat) (f : Ctx → Ctx) : (s.onCtx c f).timed = s.timed := rfl
@[simp] theorem State.onCtx_toks (s : State) (c : Nat) (f : Ctx → Ctx) : (s.onCtx c f).toks = s.toks := rfl
@[simp] theorem State.onCtx_retention (s : State) (c : Nat) (f : Ctx → Ctx) : (s.onCtx c f).retention = s.retention := rfl
@[simp] theorem State.onCtx_memCopy (s : State) (c : Nat) (f : Ctx → Ctx) : (s.onCtx c f).memCopy = s.memCopy := rfl
@[simp] theorem State.onCtx_ingress (s : State) (c : Nat) (f : Ctx → Ctx) : (s.onCtx c f).ingress = s.ingress := rfl
@[simp] theorem State.onCtx_cohMsgs (s : State) (c : Nat) (f : Ctx → Ctx) : (s.onCtx c f).cohMsgs = s.cohMsgs := rfl
@[simp] theorem State.onCtx_cohReqs (s : State) (c : Nat) (f : Ctx → Ctx) : (s.onCtx c f).cohReqs = s.cohReqs := rfl
@[simp] theorem State.onCtx_preqs (s : State) (c : Nat) (f : Ctx → Ctx) : (s.onCtx c f).preqs = s.preqs := rfl
@[simp] theorem State.onCtx_arbiters (s : State) (c : Nat) (f : Ctx → Ctx) : (s.onCtx c f).arbiters = s.arbiters := rfl
@[simp] theorem State.onCtx_recoveries (s : State) (c : Nat) (f : Ctx → Ctx) : (s.onCtx c f).recoveries = s.recoveries := rfl
@[simp] theorem State.onCtx_peers (s : State) (c : Nat) (f : Ctx → Ctx) : (s.onCtx c f).peers = s.peers := rfl
@[simp] theorem State.onCtx_errors (s : State) (c : Nat) (f : Ctx → Ctx) : (s.onCtx c f).errors = s.errors := rfl
@[simp] theorem State.onCtx_retiredUnits (s : State) (c : Nat) (f : Ctx → Ctx) : (s.onCtx c f).retiredUnits = s.retiredUnits := rfl
@[simp] theorem State.onCtx_l2pmc (s : State) (c : Nat) (f : Ctx → Ctx) : (s.onCtx c f).l2pmc = s.l2pmc := rfl
@[simp] theorem State.onCtx_l2pmcsel (s : State) (c : Nat) (f : Ctx → Ctx) : (s.onCtx c f).l2pmcsel = s.l2pmcsel := rfl
@[simp] theorem State.onCtx_dev (s : State) (c : Nat) (f : Ctx → Ctx) : (s.onCtx c f).dev = s.dev := rfl
@[simp] theorem State.onCtx_nextEntry (s : State) (c : Nat) (f : Ctx → Ctx) : (s.onCtx c f).nextEntry = s.nextEntry := rfl
@[simp] theorem State.onCtx_nextPresent (s : State) (c : Nat) (f : Ctx → Ctx) : (s.onCtx c f).nextPresent = s.nextPresent := rfl
@[simp] theorem State.onCtx_nextUid (s : State) (c : Nat) (f : Ctx → Ctx) : (s.onCtx c f).nextUid = s.nextUid := rfl
@[simp] theorem State.onCtx_nextGrid (s : State) (c : Nat) (f : Ctx → Ctx) : (s.onCtx c f).nextGrid = s.nextGrid := rfl
@[simp] theorem State.onCtx_nextGang (s : State) (c : Nat) (f : Ctx → Ctx) : (s.onCtx c f).nextGang = s.nextGang := rfl

/-! ## onGrid -/

@[simp] theorem State.onGrid_warp (s : State) (g : Nat) (f : Grid → Grid) : (s.onGrid g f).warp = s.warp := rfl
@[simp] theorem State.onGrid_others (s : State) (g : Nat) (f : Grid → Grid) : (s.onGrid g f).others = s.others := rfl
@[simp] theorem State.onGrid_snap (s : State) (g : Nat) (f : Grid → Grid) : (s.onGrid g f).snap = s.snap := rfl
@[simp] theorem State.onGrid_grp (s : State) (g : Nat) (f : Grid → Grid) : (s.onGrid g f).grp = s.grp := rfl
@[simp] theorem State.onGrid_agenda (s : State) (g : Nat) (f : Grid → Grid) : (s.onGrid g f).agenda = s.agenda := rfl
@[simp] theorem State.onGrid_ev (s : State) (g : Nat) (f : Grid → Grid) : (s.onGrid g f).ev = s.ev := rfl
@[simp] theorem State.onGrid_fresh (s : State) (g : Nat) (f : Grid → Grid) : (s.onGrid g f).fresh = s.fresh := rfl
@[simp] theorem State.onGrid_round (s : State) (g : Nat) (f : Grid → Grid) : (s.onGrid g f).round = s.round := rfl
@[simp] theorem State.onGrid_idle (s : State) (g : Nat) (f : Grid → Grid) : (s.onGrid g f).idle = s.idle := rfl
@[simp] theorem State.onGrid_mem (s : State) (g : Nat) (f : Grid → Grid) : (s.onGrid g f).mem = s.mem := rfl
@[simp] theorem State.onGrid_sram (s : State) (g : Nat) (f : Grid → Grid) : (s.onGrid g f).sram = s.sram := rfl
@[simp] theorem State.onGrid_bstore (s : State) (g : Nat) (f : Grid → Grid) : (s.onGrid g f).bstore = s.bstore := rfl
@[simp] theorem State.onGrid_cores (s : State) (g : Nat) (f : Grid → Grid) : (s.onGrid g f).cores = s.cores := rfl
@[simp] theorem State.onGrid_clusters (s : State) (g : Nat) (f : Grid → Grid) : (s.onGrid g f).clusters = s.clusters := rfl
@[simp] theorem State.onGrid_ctxs (s : State) (g : Nat) (f : Grid → Grid) : (s.onGrid g f).ctxs = s.ctxs := rfl
@[simp] theorem State.onGrid_grids (s : State) (g : Nat) (f : Grid → Grid) : (s.onGrid g f).grids = SMap.upd s.grids g {} f := rfl
@[simp] theorem State.onGrid_gangs (s : State) (g : Nat) (f : Grid → Grid) : (s.onGrid g f).gangs = s.gangs := rfl
@[simp] theorem State.onGrid_dtb (s : State) (g : Nat) (f : Grid → Grid) : (s.onGrid g f).dtb = s.dtb := rfl
@[simp] theorem State.onGrid_quarantine (s : State) (g : Nat) (f : Grid → Grid) : (s.onGrid g f).quarantine = s.quarantine := rfl
@[simp] theorem State.onGrid_versions (s : State) (g : Nat) (f : Grid → Grid) : (s.onGrid g f).versions = s.versions := rfl
@[simp] theorem State.onGrid_votes (s : State) (g : Nat) (f : Grid → Grid) : (s.onGrid g f).votes = s.votes := rfl
@[simp] theorem State.onGrid_nodes (s : State) (g : Nat) (f : Grid → Grid) : (s.onGrid g f).nodes = s.nodes := rfl
@[simp] theorem State.onGrid_credits (s : State) (g : Nat) (f : Grid → Grid) : (s.onGrid g f).credits = s.credits := rfl
@[simp] theorem State.onGrid_records (s : State) (g : Nat) (f : Grid → Grid) : (s.onGrid g f).records = s.records := rfl
@[simp] theorem State.onGrid_nextRecord (s : State) (g : Nat) (f : Grid → Grid) : (s.onGrid g f).nextRecord = s.nextRecord := rfl
@[simp] theorem State.onGrid_nextNode (s : State) (g : Nat) (f : Grid → Grid) : (s.onGrid g f).nextNode = s.nextNode := rfl
@[simp] theorem State.onGrid_endedGrids (s : State) (g : Nat) (f : Grid → Grid) : (s.onGrid g f).endedGrids = s.endedGrids := rfl
@[simp] theorem State.onGrid_msgs (s : State) (g : Nat) (f : Grid → Grid) : (s.onGrid g f).msgs = s.msgs := rfl
@[simp] theorem State.onGrid_lastCluster (s : State) (g : Nat) (f : Grid → Grid) : (s.onGrid g f).lastCluster = s.lastCluster := rfl
@[simp] theorem State.onGrid_reserved (s : State) (g : Nat) (f : Grid → Grid) : (s.onGrid g f).reserved = s.reserved := rfl
@[simp] theorem State.onGrid_readyCount (s : State) (g : Nat) (f : Grid → Grid) : (s.onGrid g f).readyCount = s.readyCount := rfl
@[simp] theorem State.onGrid_lastRing (s : State) (g : Nat) (f : Grid → Grid) : (s.onGrid g f).lastRing = s.lastRing := rfl
@[simp] theorem State.onGrid_images (s : State) (g : Nat) (f : Grid → Grid) : (s.onGrid g f).images = s.images := rfl
@[simp] theorem State.onGrid_nextImage (s : State) (g : Nat) (f : Grid → Grid) : (s.onGrid g f).nextImage = s.nextImage := rfl
@[simp] theorem State.onGrid_timed (s : State) (g : Nat) (f : Grid → Grid) : (s.onGrid g f).timed = s.timed := rfl
@[simp] theorem State.onGrid_toks (s : State) (g : Nat) (f : Grid → Grid) : (s.onGrid g f).toks = s.toks := rfl
@[simp] theorem State.onGrid_retention (s : State) (g : Nat) (f : Grid → Grid) : (s.onGrid g f).retention = s.retention := rfl
@[simp] theorem State.onGrid_memCopy (s : State) (g : Nat) (f : Grid → Grid) : (s.onGrid g f).memCopy = s.memCopy := rfl
@[simp] theorem State.onGrid_ingress (s : State) (g : Nat) (f : Grid → Grid) : (s.onGrid g f).ingress = s.ingress := rfl
@[simp] theorem State.onGrid_cohMsgs (s : State) (g : Nat) (f : Grid → Grid) : (s.onGrid g f).cohMsgs = s.cohMsgs := rfl
@[simp] theorem State.onGrid_cohReqs (s : State) (g : Nat) (f : Grid → Grid) : (s.onGrid g f).cohReqs = s.cohReqs := rfl
@[simp] theorem State.onGrid_preqs (s : State) (g : Nat) (f : Grid → Grid) : (s.onGrid g f).preqs = s.preqs := rfl
@[simp] theorem State.onGrid_arbiters (s : State) (g : Nat) (f : Grid → Grid) : (s.onGrid g f).arbiters = s.arbiters := rfl
@[simp] theorem State.onGrid_recoveries (s : State) (g : Nat) (f : Grid → Grid) : (s.onGrid g f).recoveries = s.recoveries := rfl
@[simp] theorem State.onGrid_peers (s : State) (g : Nat) (f : Grid → Grid) : (s.onGrid g f).peers = s.peers := rfl
@[simp] theorem State.onGrid_errors (s : State) (g : Nat) (f : Grid → Grid) : (s.onGrid g f).errors = s.errors := rfl
@[simp] theorem State.onGrid_retiredUnits (s : State) (g : Nat) (f : Grid → Grid) : (s.onGrid g f).retiredUnits = s.retiredUnits := rfl
@[simp] theorem State.onGrid_l2pmc (s : State) (g : Nat) (f : Grid → Grid) : (s.onGrid g f).l2pmc = s.l2pmc := rfl
@[simp] theorem State.onGrid_l2pmcsel (s : State) (g : Nat) (f : Grid → Grid) : (s.onGrid g f).l2pmcsel = s.l2pmcsel := rfl
@[simp] theorem State.onGrid_dev (s : State) (g : Nat) (f : Grid → Grid) : (s.onGrid g f).dev = s.dev := rfl
@[simp] theorem State.onGrid_nextEntry (s : State) (g : Nat) (f : Grid → Grid) : (s.onGrid g f).nextEntry = s.nextEntry := rfl
@[simp] theorem State.onGrid_nextPresent (s : State) (g : Nat) (f : Grid → Grid) : (s.onGrid g f).nextPresent = s.nextPresent := rfl
@[simp] theorem State.onGrid_nextUid (s : State) (g : Nat) (f : Grid → Grid) : (s.onGrid g f).nextUid = s.nextUid := rfl
@[simp] theorem State.onGrid_nextGrid (s : State) (g : Nat) (f : Grid → Grid) : (s.onGrid g f).nextGrid = s.nextGrid := rfl
@[simp] theorem State.onGrid_nextGang (s : State) (g : Nat) (f : Grid → Grid) : (s.onGrid g f).nextGang = s.nextGang := rfl

/-! ## onGang -/

@[simp] theorem State.onGang_warp (s : State) (h : Nat) (f : Gang → Gang) : (s.onGang h f).warp = s.warp := rfl
@[simp] theorem State.onGang_others (s : State) (h : Nat) (f : Gang → Gang) : (s.onGang h f).others = s.others := rfl
@[simp] theorem State.onGang_snap (s : State) (h : Nat) (f : Gang → Gang) : (s.onGang h f).snap = s.snap := rfl
@[simp] theorem State.onGang_grp (s : State) (h : Nat) (f : Gang → Gang) : (s.onGang h f).grp = s.grp := rfl
@[simp] theorem State.onGang_agenda (s : State) (h : Nat) (f : Gang → Gang) : (s.onGang h f).agenda = s.agenda := rfl
@[simp] theorem State.onGang_ev (s : State) (h : Nat) (f : Gang → Gang) : (s.onGang h f).ev = s.ev := rfl
@[simp] theorem State.onGang_fresh (s : State) (h : Nat) (f : Gang → Gang) : (s.onGang h f).fresh = s.fresh := rfl
@[simp] theorem State.onGang_round (s : State) (h : Nat) (f : Gang → Gang) : (s.onGang h f).round = s.round := rfl
@[simp] theorem State.onGang_idle (s : State) (h : Nat) (f : Gang → Gang) : (s.onGang h f).idle = s.idle := rfl
@[simp] theorem State.onGang_mem (s : State) (h : Nat) (f : Gang → Gang) : (s.onGang h f).mem = s.mem := rfl
@[simp] theorem State.onGang_sram (s : State) (h : Nat) (f : Gang → Gang) : (s.onGang h f).sram = s.sram := rfl
@[simp] theorem State.onGang_bstore (s : State) (h : Nat) (f : Gang → Gang) : (s.onGang h f).bstore = s.bstore := rfl
@[simp] theorem State.onGang_cores (s : State) (h : Nat) (f : Gang → Gang) : (s.onGang h f).cores = s.cores := rfl
@[simp] theorem State.onGang_clusters (s : State) (h : Nat) (f : Gang → Gang) : (s.onGang h f).clusters = s.clusters := rfl
@[simp] theorem State.onGang_ctxs (s : State) (h : Nat) (f : Gang → Gang) : (s.onGang h f).ctxs = s.ctxs := rfl
@[simp] theorem State.onGang_grids (s : State) (h : Nat) (f : Gang → Gang) : (s.onGang h f).grids = s.grids := rfl
@[simp] theorem State.onGang_gangs (s : State) (h : Nat) (f : Gang → Gang) : (s.onGang h f).gangs = SMap.upd s.gangs h {} f := rfl
@[simp] theorem State.onGang_dtb (s : State) (h : Nat) (f : Gang → Gang) : (s.onGang h f).dtb = s.dtb := rfl
@[simp] theorem State.onGang_quarantine (s : State) (h : Nat) (f : Gang → Gang) : (s.onGang h f).quarantine = s.quarantine := rfl
@[simp] theorem State.onGang_versions (s : State) (h : Nat) (f : Gang → Gang) : (s.onGang h f).versions = s.versions := rfl
@[simp] theorem State.onGang_votes (s : State) (h : Nat) (f : Gang → Gang) : (s.onGang h f).votes = s.votes := rfl
@[simp] theorem State.onGang_nodes (s : State) (h : Nat) (f : Gang → Gang) : (s.onGang h f).nodes = s.nodes := rfl
@[simp] theorem State.onGang_credits (s : State) (h : Nat) (f : Gang → Gang) : (s.onGang h f).credits = s.credits := rfl
@[simp] theorem State.onGang_records (s : State) (h : Nat) (f : Gang → Gang) : (s.onGang h f).records = s.records := rfl
@[simp] theorem State.onGang_nextRecord (s : State) (h : Nat) (f : Gang → Gang) : (s.onGang h f).nextRecord = s.nextRecord := rfl
@[simp] theorem State.onGang_nextNode (s : State) (h : Nat) (f : Gang → Gang) : (s.onGang h f).nextNode = s.nextNode := rfl
@[simp] theorem State.onGang_endedGrids (s : State) (h : Nat) (f : Gang → Gang) : (s.onGang h f).endedGrids = s.endedGrids := rfl
@[simp] theorem State.onGang_msgs (s : State) (h : Nat) (f : Gang → Gang) : (s.onGang h f).msgs = s.msgs := rfl
@[simp] theorem State.onGang_lastCluster (s : State) (h : Nat) (f : Gang → Gang) : (s.onGang h f).lastCluster = s.lastCluster := rfl
@[simp] theorem State.onGang_reserved (s : State) (h : Nat) (f : Gang → Gang) : (s.onGang h f).reserved = s.reserved := rfl
@[simp] theorem State.onGang_readyCount (s : State) (h : Nat) (f : Gang → Gang) : (s.onGang h f).readyCount = s.readyCount := rfl
@[simp] theorem State.onGang_lastRing (s : State) (h : Nat) (f : Gang → Gang) : (s.onGang h f).lastRing = s.lastRing := rfl
@[simp] theorem State.onGang_images (s : State) (h : Nat) (f : Gang → Gang) : (s.onGang h f).images = s.images := rfl
@[simp] theorem State.onGang_nextImage (s : State) (h : Nat) (f : Gang → Gang) : (s.onGang h f).nextImage = s.nextImage := rfl
@[simp] theorem State.onGang_timed (s : State) (h : Nat) (f : Gang → Gang) : (s.onGang h f).timed = s.timed := rfl
@[simp] theorem State.onGang_toks (s : State) (h : Nat) (f : Gang → Gang) : (s.onGang h f).toks = s.toks := rfl
@[simp] theorem State.onGang_retention (s : State) (h : Nat) (f : Gang → Gang) : (s.onGang h f).retention = s.retention := rfl
@[simp] theorem State.onGang_memCopy (s : State) (h : Nat) (f : Gang → Gang) : (s.onGang h f).memCopy = s.memCopy := rfl
@[simp] theorem State.onGang_ingress (s : State) (h : Nat) (f : Gang → Gang) : (s.onGang h f).ingress = s.ingress := rfl
@[simp] theorem State.onGang_cohMsgs (s : State) (h : Nat) (f : Gang → Gang) : (s.onGang h f).cohMsgs = s.cohMsgs := rfl
@[simp] theorem State.onGang_cohReqs (s : State) (h : Nat) (f : Gang → Gang) : (s.onGang h f).cohReqs = s.cohReqs := rfl
@[simp] theorem State.onGang_preqs (s : State) (h : Nat) (f : Gang → Gang) : (s.onGang h f).preqs = s.preqs := rfl
@[simp] theorem State.onGang_arbiters (s : State) (h : Nat) (f : Gang → Gang) : (s.onGang h f).arbiters = s.arbiters := rfl
@[simp] theorem State.onGang_recoveries (s : State) (h : Nat) (f : Gang → Gang) : (s.onGang h f).recoveries = s.recoveries := rfl
@[simp] theorem State.onGang_peers (s : State) (h : Nat) (f : Gang → Gang) : (s.onGang h f).peers = s.peers := rfl
@[simp] theorem State.onGang_errors (s : State) (h : Nat) (f : Gang → Gang) : (s.onGang h f).errors = s.errors := rfl
@[simp] theorem State.onGang_retiredUnits (s : State) (h : Nat) (f : Gang → Gang) : (s.onGang h f).retiredUnits = s.retiredUnits := rfl
@[simp] theorem State.onGang_l2pmc (s : State) (h : Nat) (f : Gang → Gang) : (s.onGang h f).l2pmc = s.l2pmc := rfl
@[simp] theorem State.onGang_l2pmcsel (s : State) (h : Nat) (f : Gang → Gang) : (s.onGang h f).l2pmcsel = s.l2pmcsel := rfl
@[simp] theorem State.onGang_dev (s : State) (h : Nat) (f : Gang → Gang) : (s.onGang h f).dev = s.dev := rfl
@[simp] theorem State.onGang_nextEntry (s : State) (h : Nat) (f : Gang → Gang) : (s.onGang h f).nextEntry = s.nextEntry := rfl
@[simp] theorem State.onGang_nextPresent (s : State) (h : Nat) (f : Gang → Gang) : (s.onGang h f).nextPresent = s.nextPresent := rfl
@[simp] theorem State.onGang_nextUid (s : State) (h : Nat) (f : Gang → Gang) : (s.onGang h f).nextUid = s.nextUid := rfl
@[simp] theorem State.onGang_nextGrid (s : State) (h : Nat) (f : Gang → Gang) : (s.onGang h f).nextGrid = s.nextGrid := rfl
@[simp] theorem State.onGang_nextGang (s : State) (h : Nat) (f : Gang → Gang) : (s.onGang h f).nextGang = s.nextGang := rfl

/-! ## onCore -/

@[simp] theorem State.onCore_warp (s : State) (c : Nat) (f : Core → Core) : (s.onCore c f).warp = s.warp := rfl
@[simp] theorem State.onCore_others (s : State) (c : Nat) (f : Core → Core) : (s.onCore c f).others = s.others := rfl
@[simp] theorem State.onCore_snap (s : State) (c : Nat) (f : Core → Core) : (s.onCore c f).snap = s.snap := rfl
@[simp] theorem State.onCore_grp (s : State) (c : Nat) (f : Core → Core) : (s.onCore c f).grp = s.grp := rfl
@[simp] theorem State.onCore_agenda (s : State) (c : Nat) (f : Core → Core) : (s.onCore c f).agenda = s.agenda := rfl
@[simp] theorem State.onCore_ev (s : State) (c : Nat) (f : Core → Core) : (s.onCore c f).ev = s.ev := rfl
@[simp] theorem State.onCore_fresh (s : State) (c : Nat) (f : Core → Core) : (s.onCore c f).fresh = s.fresh := rfl
@[simp] theorem State.onCore_round (s : State) (c : Nat) (f : Core → Core) : (s.onCore c f).round = s.round := rfl
@[simp] theorem State.onCore_idle (s : State) (c : Nat) (f : Core → Core) : (s.onCore c f).idle = s.idle := rfl
@[simp] theorem State.onCore_mem (s : State) (c : Nat) (f : Core → Core) : (s.onCore c f).mem = s.mem := rfl
@[simp] theorem State.onCore_sram (s : State) (c : Nat) (f : Core → Core) : (s.onCore c f).sram = s.sram := rfl
@[simp] theorem State.onCore_bstore (s : State) (c : Nat) (f : Core → Core) : (s.onCore c f).bstore = s.bstore := rfl
@[simp] theorem State.onCore_cores (s : State) (c : Nat) (f : Core → Core) : (s.onCore c f).cores = SMap.upd s.cores c {} f := rfl
@[simp] theorem State.onCore_clusters (s : State) (c : Nat) (f : Core → Core) : (s.onCore c f).clusters = s.clusters := rfl
@[simp] theorem State.onCore_ctxs (s : State) (c : Nat) (f : Core → Core) : (s.onCore c f).ctxs = s.ctxs := rfl
@[simp] theorem State.onCore_grids (s : State) (c : Nat) (f : Core → Core) : (s.onCore c f).grids = s.grids := rfl
@[simp] theorem State.onCore_gangs (s : State) (c : Nat) (f : Core → Core) : (s.onCore c f).gangs = s.gangs := rfl
@[simp] theorem State.onCore_dtb (s : State) (c : Nat) (f : Core → Core) : (s.onCore c f).dtb = s.dtb := rfl
@[simp] theorem State.onCore_quarantine (s : State) (c : Nat) (f : Core → Core) : (s.onCore c f).quarantine = s.quarantine := rfl
@[simp] theorem State.onCore_versions (s : State) (c : Nat) (f : Core → Core) : (s.onCore c f).versions = s.versions := rfl
@[simp] theorem State.onCore_votes (s : State) (c : Nat) (f : Core → Core) : (s.onCore c f).votes = s.votes := rfl
@[simp] theorem State.onCore_nodes (s : State) (c : Nat) (f : Core → Core) : (s.onCore c f).nodes = s.nodes := rfl
@[simp] theorem State.onCore_credits (s : State) (c : Nat) (f : Core → Core) : (s.onCore c f).credits = s.credits := rfl
@[simp] theorem State.onCore_records (s : State) (c : Nat) (f : Core → Core) : (s.onCore c f).records = s.records := rfl
@[simp] theorem State.onCore_nextRecord (s : State) (c : Nat) (f : Core → Core) : (s.onCore c f).nextRecord = s.nextRecord := rfl
@[simp] theorem State.onCore_nextNode (s : State) (c : Nat) (f : Core → Core) : (s.onCore c f).nextNode = s.nextNode := rfl
@[simp] theorem State.onCore_endedGrids (s : State) (c : Nat) (f : Core → Core) : (s.onCore c f).endedGrids = s.endedGrids := rfl
@[simp] theorem State.onCore_msgs (s : State) (c : Nat) (f : Core → Core) : (s.onCore c f).msgs = s.msgs := rfl
@[simp] theorem State.onCore_lastCluster (s : State) (c : Nat) (f : Core → Core) : (s.onCore c f).lastCluster = s.lastCluster := rfl
@[simp] theorem State.onCore_reserved (s : State) (c : Nat) (f : Core → Core) : (s.onCore c f).reserved = s.reserved := rfl
@[simp] theorem State.onCore_readyCount (s : State) (c : Nat) (f : Core → Core) : (s.onCore c f).readyCount = s.readyCount := rfl
@[simp] theorem State.onCore_lastRing (s : State) (c : Nat) (f : Core → Core) : (s.onCore c f).lastRing = s.lastRing := rfl
@[simp] theorem State.onCore_images (s : State) (c : Nat) (f : Core → Core) : (s.onCore c f).images = s.images := rfl
@[simp] theorem State.onCore_nextImage (s : State) (c : Nat) (f : Core → Core) : (s.onCore c f).nextImage = s.nextImage := rfl
@[simp] theorem State.onCore_timed (s : State) (c : Nat) (f : Core → Core) : (s.onCore c f).timed = s.timed := rfl
@[simp] theorem State.onCore_toks (s : State) (c : Nat) (f : Core → Core) : (s.onCore c f).toks = s.toks := rfl
@[simp] theorem State.onCore_retention (s : State) (c : Nat) (f : Core → Core) : (s.onCore c f).retention = s.retention := rfl
@[simp] theorem State.onCore_memCopy (s : State) (c : Nat) (f : Core → Core) : (s.onCore c f).memCopy = s.memCopy := rfl
@[simp] theorem State.onCore_ingress (s : State) (c : Nat) (f : Core → Core) : (s.onCore c f).ingress = s.ingress := rfl
@[simp] theorem State.onCore_cohMsgs (s : State) (c : Nat) (f : Core → Core) : (s.onCore c f).cohMsgs = s.cohMsgs := rfl
@[simp] theorem State.onCore_cohReqs (s : State) (c : Nat) (f : Core → Core) : (s.onCore c f).cohReqs = s.cohReqs := rfl
@[simp] theorem State.onCore_preqs (s : State) (c : Nat) (f : Core → Core) : (s.onCore c f).preqs = s.preqs := rfl
@[simp] theorem State.onCore_arbiters (s : State) (c : Nat) (f : Core → Core) : (s.onCore c f).arbiters = s.arbiters := rfl
@[simp] theorem State.onCore_recoveries (s : State) (c : Nat) (f : Core → Core) : (s.onCore c f).recoveries = s.recoveries := rfl
@[simp] theorem State.onCore_peers (s : State) (c : Nat) (f : Core → Core) : (s.onCore c f).peers = s.peers := rfl
@[simp] theorem State.onCore_errors (s : State) (c : Nat) (f : Core → Core) : (s.onCore c f).errors = s.errors := rfl
@[simp] theorem State.onCore_retiredUnits (s : State) (c : Nat) (f : Core → Core) : (s.onCore c f).retiredUnits = s.retiredUnits := rfl
@[simp] theorem State.onCore_l2pmc (s : State) (c : Nat) (f : Core → Core) : (s.onCore c f).l2pmc = s.l2pmc := rfl
@[simp] theorem State.onCore_l2pmcsel (s : State) (c : Nat) (f : Core → Core) : (s.onCore c f).l2pmcsel = s.l2pmcsel := rfl
@[simp] theorem State.onCore_dev (s : State) (c : Nat) (f : Core → Core) : (s.onCore c f).dev = s.dev := rfl
@[simp] theorem State.onCore_nextEntry (s : State) (c : Nat) (f : Core → Core) : (s.onCore c f).nextEntry = s.nextEntry := rfl
@[simp] theorem State.onCore_nextPresent (s : State) (c : Nat) (f : Core → Core) : (s.onCore c f).nextPresent = s.nextPresent := rfl
@[simp] theorem State.onCore_nextUid (s : State) (c : Nat) (f : Core → Core) : (s.onCore c f).nextUid = s.nextUid := rfl
@[simp] theorem State.onCore_nextGrid (s : State) (c : Nat) (f : Core → Core) : (s.onCore c f).nextGrid = s.nextGrid := rfl
@[simp] theorem State.onCore_nextGang (s : State) (c : Nat) (f : Core → Core) : (s.onCore c f).nextGang = s.nextGang := rfl

/-! ## onCluster -/

@[simp] theorem State.onCluster_warp (s : State) (c : Nat) (f : Cluster → Cluster) : (s.onCluster c f).warp = s.warp := rfl
@[simp] theorem State.onCluster_others (s : State) (c : Nat) (f : Cluster → Cluster) : (s.onCluster c f).others = s.others := rfl
@[simp] theorem State.onCluster_snap (s : State) (c : Nat) (f : Cluster → Cluster) : (s.onCluster c f).snap = s.snap := rfl
@[simp] theorem State.onCluster_grp (s : State) (c : Nat) (f : Cluster → Cluster) : (s.onCluster c f).grp = s.grp := rfl
@[simp] theorem State.onCluster_agenda (s : State) (c : Nat) (f : Cluster → Cluster) : (s.onCluster c f).agenda = s.agenda := rfl
@[simp] theorem State.onCluster_ev (s : State) (c : Nat) (f : Cluster → Cluster) : (s.onCluster c f).ev = s.ev := rfl
@[simp] theorem State.onCluster_fresh (s : State) (c : Nat) (f : Cluster → Cluster) : (s.onCluster c f).fresh = s.fresh := rfl
@[simp] theorem State.onCluster_round (s : State) (c : Nat) (f : Cluster → Cluster) : (s.onCluster c f).round = s.round := rfl
@[simp] theorem State.onCluster_idle (s : State) (c : Nat) (f : Cluster → Cluster) : (s.onCluster c f).idle = s.idle := rfl
@[simp] theorem State.onCluster_mem (s : State) (c : Nat) (f : Cluster → Cluster) : (s.onCluster c f).mem = s.mem := rfl
@[simp] theorem State.onCluster_sram (s : State) (c : Nat) (f : Cluster → Cluster) : (s.onCluster c f).sram = s.sram := rfl
@[simp] theorem State.onCluster_bstore (s : State) (c : Nat) (f : Cluster → Cluster) : (s.onCluster c f).bstore = s.bstore := rfl
@[simp] theorem State.onCluster_cores (s : State) (c : Nat) (f : Cluster → Cluster) : (s.onCluster c f).cores = s.cores := rfl
@[simp] theorem State.onCluster_clusters (s : State) (c : Nat) (f : Cluster → Cluster) : (s.onCluster c f).clusters = SMap.upd s.clusters c {} f := rfl
@[simp] theorem State.onCluster_ctxs (s : State) (c : Nat) (f : Cluster → Cluster) : (s.onCluster c f).ctxs = s.ctxs := rfl
@[simp] theorem State.onCluster_grids (s : State) (c : Nat) (f : Cluster → Cluster) : (s.onCluster c f).grids = s.grids := rfl
@[simp] theorem State.onCluster_gangs (s : State) (c : Nat) (f : Cluster → Cluster) : (s.onCluster c f).gangs = s.gangs := rfl
@[simp] theorem State.onCluster_dtb (s : State) (c : Nat) (f : Cluster → Cluster) : (s.onCluster c f).dtb = s.dtb := rfl
@[simp] theorem State.onCluster_quarantine (s : State) (c : Nat) (f : Cluster → Cluster) : (s.onCluster c f).quarantine = s.quarantine := rfl
@[simp] theorem State.onCluster_versions (s : State) (c : Nat) (f : Cluster → Cluster) : (s.onCluster c f).versions = s.versions := rfl
@[simp] theorem State.onCluster_votes (s : State) (c : Nat) (f : Cluster → Cluster) : (s.onCluster c f).votes = s.votes := rfl
@[simp] theorem State.onCluster_nodes (s : State) (c : Nat) (f : Cluster → Cluster) : (s.onCluster c f).nodes = s.nodes := rfl
@[simp] theorem State.onCluster_credits (s : State) (c : Nat) (f : Cluster → Cluster) : (s.onCluster c f).credits = s.credits := rfl
@[simp] theorem State.onCluster_records (s : State) (c : Nat) (f : Cluster → Cluster) : (s.onCluster c f).records = s.records := rfl
@[simp] theorem State.onCluster_nextRecord (s : State) (c : Nat) (f : Cluster → Cluster) : (s.onCluster c f).nextRecord = s.nextRecord := rfl
@[simp] theorem State.onCluster_nextNode (s : State) (c : Nat) (f : Cluster → Cluster) : (s.onCluster c f).nextNode = s.nextNode := rfl
@[simp] theorem State.onCluster_endedGrids (s : State) (c : Nat) (f : Cluster → Cluster) : (s.onCluster c f).endedGrids = s.endedGrids := rfl
@[simp] theorem State.onCluster_msgs (s : State) (c : Nat) (f : Cluster → Cluster) : (s.onCluster c f).msgs = s.msgs := rfl
@[simp] theorem State.onCluster_lastCluster (s : State) (c : Nat) (f : Cluster → Cluster) : (s.onCluster c f).lastCluster = s.lastCluster := rfl
@[simp] theorem State.onCluster_reserved (s : State) (c : Nat) (f : Cluster → Cluster) : (s.onCluster c f).reserved = s.reserved := rfl
@[simp] theorem State.onCluster_readyCount (s : State) (c : Nat) (f : Cluster → Cluster) : (s.onCluster c f).readyCount = s.readyCount := rfl
@[simp] theorem State.onCluster_lastRing (s : State) (c : Nat) (f : Cluster → Cluster) : (s.onCluster c f).lastRing = s.lastRing := rfl
@[simp] theorem State.onCluster_images (s : State) (c : Nat) (f : Cluster → Cluster) : (s.onCluster c f).images = s.images := rfl
@[simp] theorem State.onCluster_nextImage (s : State) (c : Nat) (f : Cluster → Cluster) : (s.onCluster c f).nextImage = s.nextImage := rfl
@[simp] theorem State.onCluster_timed (s : State) (c : Nat) (f : Cluster → Cluster) : (s.onCluster c f).timed = s.timed := rfl
@[simp] theorem State.onCluster_toks (s : State) (c : Nat) (f : Cluster → Cluster) : (s.onCluster c f).toks = s.toks := rfl
@[simp] theorem State.onCluster_retention (s : State) (c : Nat) (f : Cluster → Cluster) : (s.onCluster c f).retention = s.retention := rfl
@[simp] theorem State.onCluster_memCopy (s : State) (c : Nat) (f : Cluster → Cluster) : (s.onCluster c f).memCopy = s.memCopy := rfl
@[simp] theorem State.onCluster_ingress (s : State) (c : Nat) (f : Cluster → Cluster) : (s.onCluster c f).ingress = s.ingress := rfl
@[simp] theorem State.onCluster_cohMsgs (s : State) (c : Nat) (f : Cluster → Cluster) : (s.onCluster c f).cohMsgs = s.cohMsgs := rfl
@[simp] theorem State.onCluster_cohReqs (s : State) (c : Nat) (f : Cluster → Cluster) : (s.onCluster c f).cohReqs = s.cohReqs := rfl
@[simp] theorem State.onCluster_preqs (s : State) (c : Nat) (f : Cluster → Cluster) : (s.onCluster c f).preqs = s.preqs := rfl
@[simp] theorem State.onCluster_arbiters (s : State) (c : Nat) (f : Cluster → Cluster) : (s.onCluster c f).arbiters = s.arbiters := rfl
@[simp] theorem State.onCluster_recoveries (s : State) (c : Nat) (f : Cluster → Cluster) : (s.onCluster c f).recoveries = s.recoveries := rfl
@[simp] theorem State.onCluster_peers (s : State) (c : Nat) (f : Cluster → Cluster) : (s.onCluster c f).peers = s.peers := rfl
@[simp] theorem State.onCluster_errors (s : State) (c : Nat) (f : Cluster → Cluster) : (s.onCluster c f).errors = s.errors := rfl
@[simp] theorem State.onCluster_retiredUnits (s : State) (c : Nat) (f : Cluster → Cluster) : (s.onCluster c f).retiredUnits = s.retiredUnits := rfl
@[simp] theorem State.onCluster_l2pmc (s : State) (c : Nat) (f : Cluster → Cluster) : (s.onCluster c f).l2pmc = s.l2pmc := rfl
@[simp] theorem State.onCluster_l2pmcsel (s : State) (c : Nat) (f : Cluster → Cluster) : (s.onCluster c f).l2pmcsel = s.l2pmcsel := rfl
@[simp] theorem State.onCluster_dev (s : State) (c : Nat) (f : Cluster → Cluster) : (s.onCluster c f).dev = s.dev := rfl
@[simp] theorem State.onCluster_nextEntry (s : State) (c : Nat) (f : Cluster → Cluster) : (s.onCluster c f).nextEntry = s.nextEntry := rfl
@[simp] theorem State.onCluster_nextPresent (s : State) (c : Nat) (f : Cluster → Cluster) : (s.onCluster c f).nextPresent = s.nextPresent := rfl
@[simp] theorem State.onCluster_nextUid (s : State) (c : Nat) (f : Cluster → Cluster) : (s.onCluster c f).nextUid = s.nextUid := rfl
@[simp] theorem State.onCluster_nextGrid (s : State) (c : Nat) (f : Cluster → Cluster) : (s.onCluster c f).nextGrid = s.nextGrid := rfl
@[simp] theorem State.onCluster_nextGang (s : State) (c : Nat) (f : Cluster → Cluster) : (s.onCluster c f).nextGang = s.nextGang := rfl

/-! ## onNode -/

@[simp] theorem State.onNode_warp (s : State) (n : Nat) (f : Node → Node) : (s.onNode n f).warp = s.warp := rfl
@[simp] theorem State.onNode_others (s : State) (n : Nat) (f : Node → Node) : (s.onNode n f).others = s.others := rfl
@[simp] theorem State.onNode_snap (s : State) (n : Nat) (f : Node → Node) : (s.onNode n f).snap = s.snap := rfl
@[simp] theorem State.onNode_grp (s : State) (n : Nat) (f : Node → Node) : (s.onNode n f).grp = s.grp := rfl
@[simp] theorem State.onNode_agenda (s : State) (n : Nat) (f : Node → Node) : (s.onNode n f).agenda = s.agenda := rfl
@[simp] theorem State.onNode_ev (s : State) (n : Nat) (f : Node → Node) : (s.onNode n f).ev = s.ev := rfl
@[simp] theorem State.onNode_fresh (s : State) (n : Nat) (f : Node → Node) : (s.onNode n f).fresh = s.fresh := rfl
@[simp] theorem State.onNode_round (s : State) (n : Nat) (f : Node → Node) : (s.onNode n f).round = s.round := rfl
@[simp] theorem State.onNode_idle (s : State) (n : Nat) (f : Node → Node) : (s.onNode n f).idle = s.idle := rfl
@[simp] theorem State.onNode_mem (s : State) (n : Nat) (f : Node → Node) : (s.onNode n f).mem = s.mem := rfl
@[simp] theorem State.onNode_sram (s : State) (n : Nat) (f : Node → Node) : (s.onNode n f).sram = s.sram := rfl
@[simp] theorem State.onNode_bstore (s : State) (n : Nat) (f : Node → Node) : (s.onNode n f).bstore = s.bstore := rfl
@[simp] theorem State.onNode_cores (s : State) (n : Nat) (f : Node → Node) : (s.onNode n f).cores = s.cores := rfl
@[simp] theorem State.onNode_clusters (s : State) (n : Nat) (f : Node → Node) : (s.onNode n f).clusters = s.clusters := rfl
@[simp] theorem State.onNode_ctxs (s : State) (n : Nat) (f : Node → Node) : (s.onNode n f).ctxs = s.ctxs := rfl
@[simp] theorem State.onNode_grids (s : State) (n : Nat) (f : Node → Node) : (s.onNode n f).grids = s.grids := rfl
@[simp] theorem State.onNode_gangs (s : State) (n : Nat) (f : Node → Node) : (s.onNode n f).gangs = s.gangs := rfl
@[simp] theorem State.onNode_dtb (s : State) (n : Nat) (f : Node → Node) : (s.onNode n f).dtb = s.dtb := rfl
@[simp] theorem State.onNode_quarantine (s : State) (n : Nat) (f : Node → Node) : (s.onNode n f).quarantine = s.quarantine := rfl
@[simp] theorem State.onNode_versions (s : State) (n : Nat) (f : Node → Node) : (s.onNode n f).versions = s.versions := rfl
@[simp] theorem State.onNode_votes (s : State) (n : Nat) (f : Node → Node) : (s.onNode n f).votes = s.votes := rfl
@[simp] theorem State.onNode_credits (s : State) (n : Nat) (f : Node → Node) : (s.onNode n f).credits = s.credits := rfl
@[simp] theorem State.onNode_records (s : State) (n : Nat) (f : Node → Node) : (s.onNode n f).records = s.records := rfl
@[simp] theorem State.onNode_nextRecord (s : State) (n : Nat) (f : Node → Node) : (s.onNode n f).nextRecord = s.nextRecord := rfl
@[simp] theorem State.onNode_nextNode (s : State) (n : Nat) (f : Node → Node) : (s.onNode n f).nextNode = s.nextNode := rfl
@[simp] theorem State.onNode_endedGrids (s : State) (n : Nat) (f : Node → Node) : (s.onNode n f).endedGrids = s.endedGrids := rfl
@[simp] theorem State.onNode_msgs (s : State) (n : Nat) (f : Node → Node) : (s.onNode n f).msgs = s.msgs := rfl
@[simp] theorem State.onNode_lastCluster (s : State) (n : Nat) (f : Node → Node) : (s.onNode n f).lastCluster = s.lastCluster := rfl
@[simp] theorem State.onNode_reserved (s : State) (n : Nat) (f : Node → Node) : (s.onNode n f).reserved = s.reserved := rfl
@[simp] theorem State.onNode_readyCount (s : State) (n : Nat) (f : Node → Node) : (s.onNode n f).readyCount = s.readyCount := rfl
@[simp] theorem State.onNode_lastRing (s : State) (n : Nat) (f : Node → Node) : (s.onNode n f).lastRing = s.lastRing := rfl
@[simp] theorem State.onNode_images (s : State) (n : Nat) (f : Node → Node) : (s.onNode n f).images = s.images := rfl
@[simp] theorem State.onNode_nextImage (s : State) (n : Nat) (f : Node → Node) : (s.onNode n f).nextImage = s.nextImage := rfl
@[simp] theorem State.onNode_timed (s : State) (n : Nat) (f : Node → Node) : (s.onNode n f).timed = s.timed := rfl
@[simp] theorem State.onNode_toks (s : State) (n : Nat) (f : Node → Node) : (s.onNode n f).toks = s.toks := rfl
@[simp] theorem State.onNode_retention (s : State) (n : Nat) (f : Node → Node) : (s.onNode n f).retention = s.retention := rfl
@[simp] theorem State.onNode_memCopy (s : State) (n : Nat) (f : Node → Node) : (s.onNode n f).memCopy = s.memCopy := rfl
@[simp] theorem State.onNode_ingress (s : State) (n : Nat) (f : Node → Node) : (s.onNode n f).ingress = s.ingress := rfl
@[simp] theorem State.onNode_cohMsgs (s : State) (n : Nat) (f : Node → Node) : (s.onNode n f).cohMsgs = s.cohMsgs := rfl
@[simp] theorem State.onNode_cohReqs (s : State) (n : Nat) (f : Node → Node) : (s.onNode n f).cohReqs = s.cohReqs := rfl
@[simp] theorem State.onNode_preqs (s : State) (n : Nat) (f : Node → Node) : (s.onNode n f).preqs = s.preqs := rfl
@[simp] theorem State.onNode_arbiters (s : State) (n : Nat) (f : Node → Node) : (s.onNode n f).arbiters = s.arbiters := rfl
@[simp] theorem State.onNode_recoveries (s : State) (n : Nat) (f : Node → Node) : (s.onNode n f).recoveries = s.recoveries := rfl
@[simp] theorem State.onNode_peers (s : State) (n : Nat) (f : Node → Node) : (s.onNode n f).peers = s.peers := rfl
@[simp] theorem State.onNode_errors (s : State) (n : Nat) (f : Node → Node) : (s.onNode n f).errors = s.errors := rfl
@[simp] theorem State.onNode_retiredUnits (s : State) (n : Nat) (f : Node → Node) : (s.onNode n f).retiredUnits = s.retiredUnits := rfl
@[simp] theorem State.onNode_l2pmc (s : State) (n : Nat) (f : Node → Node) : (s.onNode n f).l2pmc = s.l2pmc := rfl
@[simp] theorem State.onNode_l2pmcsel (s : State) (n : Nat) (f : Node → Node) : (s.onNode n f).l2pmcsel = s.l2pmcsel := rfl
@[simp] theorem State.onNode_dev (s : State) (n : Nat) (f : Node → Node) : (s.onNode n f).dev = s.dev := rfl
@[simp] theorem State.onNode_nextEntry (s : State) (n : Nat) (f : Node → Node) : (s.onNode n f).nextEntry = s.nextEntry := rfl
@[simp] theorem State.onNode_nextPresent (s : State) (n : Nat) (f : Node → Node) : (s.onNode n f).nextPresent = s.nextPresent := rfl
@[simp] theorem State.onNode_nextUid (s : State) (n : Nat) (f : Node → Node) : (s.onNode n f).nextUid = s.nextUid := rfl
@[simp] theorem State.onNode_nextGrid (s : State) (n : Nat) (f : Node → Node) : (s.onNode n f).nextGrid = s.nextGrid := rfl
@[simp] theorem State.onNode_nextGang (s : State) (n : Nat) (f : Node → Node) : (s.onNode n f).nextGang = s.nextGang := rfl

/-! ## onDev -/

@[simp] theorem State.onDev_warp (s : State) (f : Dev → Dev) : (s.onDev f).warp = s.warp := rfl
@[simp] theorem State.onDev_others (s : State) (f : Dev → Dev) : (s.onDev f).others = s.others := rfl
@[simp] theorem State.onDev_snap (s : State) (f : Dev → Dev) : (s.onDev f).snap = s.snap := rfl
@[simp] theorem State.onDev_grp (s : State) (f : Dev → Dev) : (s.onDev f).grp = s.grp := rfl
@[simp] theorem State.onDev_agenda (s : State) (f : Dev → Dev) : (s.onDev f).agenda = s.agenda := rfl
@[simp] theorem State.onDev_ev (s : State) (f : Dev → Dev) : (s.onDev f).ev = s.ev := rfl
@[simp] theorem State.onDev_fresh (s : State) (f : Dev → Dev) : (s.onDev f).fresh = s.fresh := rfl
@[simp] theorem State.onDev_round (s : State) (f : Dev → Dev) : (s.onDev f).round = s.round := rfl
@[simp] theorem State.onDev_idle (s : State) (f : Dev → Dev) : (s.onDev f).idle = s.idle := rfl
@[simp] theorem State.onDev_mem (s : State) (f : Dev → Dev) : (s.onDev f).mem = s.mem := rfl
@[simp] theorem State.onDev_sram (s : State) (f : Dev → Dev) : (s.onDev f).sram = s.sram := rfl
@[simp] theorem State.onDev_bstore (s : State) (f : Dev → Dev) : (s.onDev f).bstore = s.bstore := rfl
@[simp] theorem State.onDev_cores (s : State) (f : Dev → Dev) : (s.onDev f).cores = s.cores := rfl
@[simp] theorem State.onDev_clusters (s : State) (f : Dev → Dev) : (s.onDev f).clusters = s.clusters := rfl
@[simp] theorem State.onDev_ctxs (s : State) (f : Dev → Dev) : (s.onDev f).ctxs = s.ctxs := rfl
@[simp] theorem State.onDev_grids (s : State) (f : Dev → Dev) : (s.onDev f).grids = s.grids := rfl
@[simp] theorem State.onDev_gangs (s : State) (f : Dev → Dev) : (s.onDev f).gangs = s.gangs := rfl
@[simp] theorem State.onDev_dtb (s : State) (f : Dev → Dev) : (s.onDev f).dtb = s.dtb := rfl
@[simp] theorem State.onDev_quarantine (s : State) (f : Dev → Dev) : (s.onDev f).quarantine = s.quarantine := rfl
@[simp] theorem State.onDev_versions (s : State) (f : Dev → Dev) : (s.onDev f).versions = s.versions := rfl
@[simp] theorem State.onDev_votes (s : State) (f : Dev → Dev) : (s.onDev f).votes = s.votes := rfl
@[simp] theorem State.onDev_nodes (s : State) (f : Dev → Dev) : (s.onDev f).nodes = s.nodes := rfl
@[simp] theorem State.onDev_credits (s : State) (f : Dev → Dev) : (s.onDev f).credits = s.credits := rfl
@[simp] theorem State.onDev_records (s : State) (f : Dev → Dev) : (s.onDev f).records = s.records := rfl
@[simp] theorem State.onDev_nextRecord (s : State) (f : Dev → Dev) : (s.onDev f).nextRecord = s.nextRecord := rfl
@[simp] theorem State.onDev_nextNode (s : State) (f : Dev → Dev) : (s.onDev f).nextNode = s.nextNode := rfl
@[simp] theorem State.onDev_endedGrids (s : State) (f : Dev → Dev) : (s.onDev f).endedGrids = s.endedGrids := rfl
@[simp] theorem State.onDev_msgs (s : State) (f : Dev → Dev) : (s.onDev f).msgs = s.msgs := rfl
@[simp] theorem State.onDev_lastCluster (s : State) (f : Dev → Dev) : (s.onDev f).lastCluster = s.lastCluster := rfl
@[simp] theorem State.onDev_reserved (s : State) (f : Dev → Dev) : (s.onDev f).reserved = s.reserved := rfl
@[simp] theorem State.onDev_readyCount (s : State) (f : Dev → Dev) : (s.onDev f).readyCount = s.readyCount := rfl
@[simp] theorem State.onDev_lastRing (s : State) (f : Dev → Dev) : (s.onDev f).lastRing = s.lastRing := rfl
@[simp] theorem State.onDev_images (s : State) (f : Dev → Dev) : (s.onDev f).images = s.images := rfl
@[simp] theorem State.onDev_nextImage (s : State) (f : Dev → Dev) : (s.onDev f).nextImage = s.nextImage := rfl
@[simp] theorem State.onDev_timed (s : State) (f : Dev → Dev) : (s.onDev f).timed = s.timed := rfl
@[simp] theorem State.onDev_toks (s : State) (f : Dev → Dev) : (s.onDev f).toks = s.toks := rfl
@[simp] theorem State.onDev_retention (s : State) (f : Dev → Dev) : (s.onDev f).retention = s.retention := rfl
@[simp] theorem State.onDev_memCopy (s : State) (f : Dev → Dev) : (s.onDev f).memCopy = s.memCopy := rfl
@[simp] theorem State.onDev_ingress (s : State) (f : Dev → Dev) : (s.onDev f).ingress = s.ingress := rfl
@[simp] theorem State.onDev_cohMsgs (s : State) (f : Dev → Dev) : (s.onDev f).cohMsgs = s.cohMsgs := rfl
@[simp] theorem State.onDev_cohReqs (s : State) (f : Dev → Dev) : (s.onDev f).cohReqs = s.cohReqs := rfl
@[simp] theorem State.onDev_preqs (s : State) (f : Dev → Dev) : (s.onDev f).preqs = s.preqs := rfl
@[simp] theorem State.onDev_arbiters (s : State) (f : Dev → Dev) : (s.onDev f).arbiters = s.arbiters := rfl
@[simp] theorem State.onDev_recoveries (s : State) (f : Dev → Dev) : (s.onDev f).recoveries = s.recoveries := rfl
@[simp] theorem State.onDev_peers (s : State) (f : Dev → Dev) : (s.onDev f).peers = s.peers := rfl
@[simp] theorem State.onDev_errors (s : State) (f : Dev → Dev) : (s.onDev f).errors = s.errors := rfl
@[simp] theorem State.onDev_retiredUnits (s : State) (f : Dev → Dev) : (s.onDev f).retiredUnits = s.retiredUnits := rfl
@[simp] theorem State.onDev_l2pmc (s : State) (f : Dev → Dev) : (s.onDev f).l2pmc = s.l2pmc := rfl
@[simp] theorem State.onDev_l2pmcsel (s : State) (f : Dev → Dev) : (s.onDev f).l2pmcsel = s.l2pmcsel := rfl
@[simp] theorem State.onDev_dev (s : State) (f : Dev → Dev) : (s.onDev f).dev = f s.dev := rfl
@[simp] theorem State.onDev_nextEntry (s : State) (f : Dev → Dev) : (s.onDev f).nextEntry = s.nextEntry := rfl
@[simp] theorem State.onDev_nextPresent (s : State) (f : Dev → Dev) : (s.onDev f).nextPresent = s.nextPresent := rfl
@[simp] theorem State.onDev_nextUid (s : State) (f : Dev → Dev) : (s.onDev f).nextUid = s.nextUid := rfl
@[simp] theorem State.onDev_nextGrid (s : State) (f : Dev → Dev) : (s.onDev f).nextGrid = s.nextGrid := rfl
@[simp] theorem State.onDev_nextGang (s : State) (f : Dev → Dev) : (s.onDev f).nextGang = s.nextGang := rfl

/-! ## mapWarps -/

@[simp] theorem State.mapWarps_warp (s : State) (f : Warp → Warp) : (s.mapWarps f).warp = f s.warp := rfl
@[simp] theorem State.mapWarps_others (s : State) (f : Warp → Warp) : (s.mapWarps f).others = s.others.map f := rfl
@[simp] theorem State.mapWarps_snap (s : State) (f : Warp → Warp) : (s.mapWarps f).snap = s.snap := rfl
@[simp] theorem State.mapWarps_grp (s : State) (f : Warp → Warp) : (s.mapWarps f).grp = s.grp := rfl
@[simp] theorem State.mapWarps_agenda (s : State) (f : Warp → Warp) : (s.mapWarps f).agenda = s.agenda := rfl
@[simp] theorem State.mapWarps_ev (s : State) (f : Warp → Warp) : (s.mapWarps f).ev = s.ev := rfl
@[simp] theorem State.mapWarps_fresh (s : State) (f : Warp → Warp) : (s.mapWarps f).fresh = s.fresh := rfl
@[simp] theorem State.mapWarps_round (s : State) (f : Warp → Warp) : (s.mapWarps f).round = s.round := rfl
@[simp] theorem State.mapWarps_idle (s : State) (f : Warp → Warp) : (s.mapWarps f).idle = s.idle := rfl
@[simp] theorem State.mapWarps_mem (s : State) (f : Warp → Warp) : (s.mapWarps f).mem = s.mem := rfl
@[simp] theorem State.mapWarps_sram (s : State) (f : Warp → Warp) : (s.mapWarps f).sram = s.sram := rfl
@[simp] theorem State.mapWarps_bstore (s : State) (f : Warp → Warp) : (s.mapWarps f).bstore = s.bstore := rfl
@[simp] theorem State.mapWarps_cores (s : State) (f : Warp → Warp) : (s.mapWarps f).cores = s.cores := rfl
@[simp] theorem State.mapWarps_clusters (s : State) (f : Warp → Warp) : (s.mapWarps f).clusters = s.clusters := rfl
@[simp] theorem State.mapWarps_ctxs (s : State) (f : Warp → Warp) : (s.mapWarps f).ctxs = s.ctxs := rfl
@[simp] theorem State.mapWarps_grids (s : State) (f : Warp → Warp) : (s.mapWarps f).grids = s.grids := rfl
@[simp] theorem State.mapWarps_gangs (s : State) (f : Warp → Warp) : (s.mapWarps f).gangs = s.gangs.map fun g => (g.1, { g.2 with image := g.2.image.map f }) := rfl
@[simp] theorem State.mapWarps_dtb (s : State) (f : Warp → Warp) : (s.mapWarps f).dtb = s.dtb := rfl
@[simp] theorem State.mapWarps_quarantine (s : State) (f : Warp → Warp) : (s.mapWarps f).quarantine = s.quarantine := rfl
@[simp] theorem State.mapWarps_versions (s : State) (f : Warp → Warp) : (s.mapWarps f).versions = s.versions := rfl
@[simp] theorem State.mapWarps_votes (s : State) (f : Warp → Warp) : (s.mapWarps f).votes = s.votes := rfl
@[simp] theorem State.mapWarps_nodes (s : State) (f : Warp → Warp) : (s.mapWarps f).nodes = s.nodes := rfl
@[simp] theorem State.mapWarps_credits (s : State) (f : Warp → Warp) : (s.mapWarps f).credits = s.credits := rfl
@[simp] theorem State.mapWarps_records (s : State) (f : Warp → Warp) : (s.mapWarps f).records = s.records := rfl
@[simp] theorem State.mapWarps_nextRecord (s : State) (f : Warp → Warp) : (s.mapWarps f).nextRecord = s.nextRecord := rfl
@[simp] theorem State.mapWarps_nextNode (s : State) (f : Warp → Warp) : (s.mapWarps f).nextNode = s.nextNode := rfl
@[simp] theorem State.mapWarps_endedGrids (s : State) (f : Warp → Warp) : (s.mapWarps f).endedGrids = s.endedGrids := rfl
@[simp] theorem State.mapWarps_msgs (s : State) (f : Warp → Warp) : (s.mapWarps f).msgs = s.msgs := rfl
@[simp] theorem State.mapWarps_lastCluster (s : State) (f : Warp → Warp) : (s.mapWarps f).lastCluster = s.lastCluster := rfl
@[simp] theorem State.mapWarps_reserved (s : State) (f : Warp → Warp) : (s.mapWarps f).reserved = s.reserved := rfl
@[simp] theorem State.mapWarps_readyCount (s : State) (f : Warp → Warp) : (s.mapWarps f).readyCount = s.readyCount := rfl
@[simp] theorem State.mapWarps_lastRing (s : State) (f : Warp → Warp) : (s.mapWarps f).lastRing = s.lastRing := rfl
@[simp] theorem State.mapWarps_images (s : State) (f : Warp → Warp) : (s.mapWarps f).images = s.images := rfl
@[simp] theorem State.mapWarps_nextImage (s : State) (f : Warp → Warp) : (s.mapWarps f).nextImage = s.nextImage := rfl
@[simp] theorem State.mapWarps_timed (s : State) (f : Warp → Warp) : (s.mapWarps f).timed = s.timed := rfl
@[simp] theorem State.mapWarps_toks (s : State) (f : Warp → Warp) : (s.mapWarps f).toks = s.toks := rfl
@[simp] theorem State.mapWarps_retention (s : State) (f : Warp → Warp) : (s.mapWarps f).retention = s.retention := rfl
@[simp] theorem State.mapWarps_memCopy (s : State) (f : Warp → Warp) : (s.mapWarps f).memCopy = s.memCopy := rfl
@[simp] theorem State.mapWarps_ingress (s : State) (f : Warp → Warp) : (s.mapWarps f).ingress = s.ingress := rfl
@[simp] theorem State.mapWarps_cohMsgs (s : State) (f : Warp → Warp) : (s.mapWarps f).cohMsgs = s.cohMsgs := rfl
@[simp] theorem State.mapWarps_cohReqs (s : State) (f : Warp → Warp) : (s.mapWarps f).cohReqs = s.cohReqs := rfl
@[simp] theorem State.mapWarps_preqs (s : State) (f : Warp → Warp) : (s.mapWarps f).preqs = s.preqs := rfl
@[simp] theorem State.mapWarps_arbiters (s : State) (f : Warp → Warp) : (s.mapWarps f).arbiters = s.arbiters := rfl
@[simp] theorem State.mapWarps_recoveries (s : State) (f : Warp → Warp) : (s.mapWarps f).recoveries = s.recoveries := rfl
@[simp] theorem State.mapWarps_peers (s : State) (f : Warp → Warp) : (s.mapWarps f).peers = s.peers := rfl
@[simp] theorem State.mapWarps_errors (s : State) (f : Warp → Warp) : (s.mapWarps f).errors = s.errors := rfl
@[simp] theorem State.mapWarps_retiredUnits (s : State) (f : Warp → Warp) : (s.mapWarps f).retiredUnits = s.retiredUnits := rfl
@[simp] theorem State.mapWarps_l2pmc (s : State) (f : Warp → Warp) : (s.mapWarps f).l2pmc = s.l2pmc := rfl
@[simp] theorem State.mapWarps_l2pmcsel (s : State) (f : Warp → Warp) : (s.mapWarps f).l2pmcsel = s.l2pmcsel := rfl
@[simp] theorem State.mapWarps_dev (s : State) (f : Warp → Warp) : (s.mapWarps f).dev = s.dev := rfl
@[simp] theorem State.mapWarps_nextEntry (s : State) (f : Warp → Warp) : (s.mapWarps f).nextEntry = s.nextEntry := rfl
@[simp] theorem State.mapWarps_nextPresent (s : State) (f : Warp → Warp) : (s.mapWarps f).nextPresent = s.nextPresent := rfl
@[simp] theorem State.mapWarps_nextUid (s : State) (f : Warp → Warp) : (s.mapWarps f).nextUid = s.nextUid := rfl
@[simp] theorem State.mapWarps_nextGrid (s : State) (f : Warp → Warp) : (s.mapWarps f).nextGrid = s.nextGrid := rfl
@[simp] theorem State.mapWarps_nextGang (s : State) (f : Warp → Warp) : (s.mapWarps f).nextGang = s.nextGang := rfl

/-! ## advance -/

@[simp] theorem State.advance_warp (s : State) : (s.advance).warp = { s.warp with pc := s.warp.pc.next } := rfl
@[simp] theorem State.advance_others (s : State) : (s.advance).others = s.others := rfl
@[simp] theorem State.advance_snap (s : State) : (s.advance).snap = s.snap := rfl
@[simp] theorem State.advance_grp (s : State) : (s.advance).grp = s.grp := rfl
@[simp] theorem State.advance_agenda (s : State) : (s.advance).agenda = s.agenda := rfl
@[simp] theorem State.advance_ev (s : State) : (s.advance).ev = s.ev := rfl
@[simp] theorem State.advance_fresh (s : State) : (s.advance).fresh = s.fresh := rfl
@[simp] theorem State.advance_round (s : State) : (s.advance).round = s.round := rfl
@[simp] theorem State.advance_idle (s : State) : (s.advance).idle = s.idle := rfl
@[simp] theorem State.advance_mem (s : State) : (s.advance).mem = s.mem := rfl
@[simp] theorem State.advance_sram (s : State) : (s.advance).sram = s.sram := rfl
@[simp] theorem State.advance_bstore (s : State) : (s.advance).bstore = s.bstore := rfl
@[simp] theorem State.advance_cores (s : State) : (s.advance).cores = s.cores := rfl
@[simp] theorem State.advance_clusters (s : State) : (s.advance).clusters = s.clusters := rfl
@[simp] theorem State.advance_ctxs (s : State) : (s.advance).ctxs = s.ctxs := rfl
@[simp] theorem State.advance_grids (s : State) : (s.advance).grids = s.grids := rfl
@[simp] theorem State.advance_gangs (s : State) : (s.advance).gangs = s.gangs := rfl
@[simp] theorem State.advance_dtb (s : State) : (s.advance).dtb = s.dtb := rfl
@[simp] theorem State.advance_quarantine (s : State) : (s.advance).quarantine = s.quarantine := rfl
@[simp] theorem State.advance_versions (s : State) : (s.advance).versions = s.versions := rfl
@[simp] theorem State.advance_votes (s : State) : (s.advance).votes = s.votes := rfl
@[simp] theorem State.advance_nodes (s : State) : (s.advance).nodes = s.nodes := rfl
@[simp] theorem State.advance_credits (s : State) : (s.advance).credits = s.credits := rfl
@[simp] theorem State.advance_records (s : State) : (s.advance).records = s.records := rfl
@[simp] theorem State.advance_nextRecord (s : State) : (s.advance).nextRecord = s.nextRecord := rfl
@[simp] theorem State.advance_nextNode (s : State) : (s.advance).nextNode = s.nextNode := rfl
@[simp] theorem State.advance_endedGrids (s : State) : (s.advance).endedGrids = s.endedGrids := rfl
@[simp] theorem State.advance_msgs (s : State) : (s.advance).msgs = s.msgs := rfl
@[simp] theorem State.advance_lastCluster (s : State) : (s.advance).lastCluster = s.lastCluster := rfl
@[simp] theorem State.advance_reserved (s : State) : (s.advance).reserved = s.reserved := rfl
@[simp] theorem State.advance_readyCount (s : State) : (s.advance).readyCount = s.readyCount := rfl
@[simp] theorem State.advance_lastRing (s : State) : (s.advance).lastRing = s.lastRing := rfl
@[simp] theorem State.advance_images (s : State) : (s.advance).images = s.images := rfl
@[simp] theorem State.advance_nextImage (s : State) : (s.advance).nextImage = s.nextImage := rfl
@[simp] theorem State.advance_timed (s : State) : (s.advance).timed = s.timed := rfl
@[simp] theorem State.advance_toks (s : State) : (s.advance).toks = s.toks := rfl
@[simp] theorem State.advance_retention (s : State) : (s.advance).retention = s.retention := rfl
@[simp] theorem State.advance_memCopy (s : State) : (s.advance).memCopy = s.memCopy := rfl
@[simp] theorem State.advance_ingress (s : State) : (s.advance).ingress = s.ingress := rfl
@[simp] theorem State.advance_cohMsgs (s : State) : (s.advance).cohMsgs = s.cohMsgs := rfl
@[simp] theorem State.advance_cohReqs (s : State) : (s.advance).cohReqs = s.cohReqs := rfl
@[simp] theorem State.advance_preqs (s : State) : (s.advance).preqs = s.preqs := rfl
@[simp] theorem State.advance_arbiters (s : State) : (s.advance).arbiters = s.arbiters := rfl
@[simp] theorem State.advance_recoveries (s : State) : (s.advance).recoveries = s.recoveries := rfl
@[simp] theorem State.advance_peers (s : State) : (s.advance).peers = s.peers := rfl
@[simp] theorem State.advance_errors (s : State) : (s.advance).errors = s.errors := rfl
@[simp] theorem State.advance_retiredUnits (s : State) : (s.advance).retiredUnits = s.retiredUnits := rfl
@[simp] theorem State.advance_l2pmc (s : State) : (s.advance).l2pmc = s.l2pmc := rfl
@[simp] theorem State.advance_l2pmcsel (s : State) : (s.advance).l2pmcsel = s.l2pmcsel := rfl
@[simp] theorem State.advance_dev (s : State) : (s.advance).dev = s.dev := rfl
@[simp] theorem State.advance_nextEntry (s : State) : (s.advance).nextEntry = s.nextEntry := rfl
@[simp] theorem State.advance_nextPresent (s : State) : (s.advance).nextPresent = s.nextPresent := rfl
@[simp] theorem State.advance_nextUid (s : State) : (s.advance).nextUid = s.nextUid := rfl
@[simp] theorem State.advance_nextGrid (s : State) : (s.advance).nextGrid = s.nextGrid := rfl
@[simp] theorem State.advance_nextGang (s : State) : (s.advance).nextGang = s.nextGang := rfl

/-! ## goto -/

@[simp] theorem State.goto_warp (s : State) (p : BitVec 30) : (s.goto p).warp = { s.warp with pc := { packet := p, slot := 0 } } := rfl
@[simp] theorem State.goto_others (s : State) (p : BitVec 30) : (s.goto p).others = s.others := rfl
@[simp] theorem State.goto_snap (s : State) (p : BitVec 30) : (s.goto p).snap = s.snap := rfl
@[simp] theorem State.goto_grp (s : State) (p : BitVec 30) : (s.goto p).grp = s.grp := rfl
@[simp] theorem State.goto_agenda (s : State) (p : BitVec 30) : (s.goto p).agenda = s.agenda := rfl
@[simp] theorem State.goto_ev (s : State) (p : BitVec 30) : (s.goto p).ev = s.ev := rfl
@[simp] theorem State.goto_fresh (s : State) (p : BitVec 30) : (s.goto p).fresh = s.fresh := rfl
@[simp] theorem State.goto_round (s : State) (p : BitVec 30) : (s.goto p).round = s.round := rfl
@[simp] theorem State.goto_idle (s : State) (p : BitVec 30) : (s.goto p).idle = s.idle := rfl
@[simp] theorem State.goto_mem (s : State) (p : BitVec 30) : (s.goto p).mem = s.mem := rfl
@[simp] theorem State.goto_sram (s : State) (p : BitVec 30) : (s.goto p).sram = s.sram := rfl
@[simp] theorem State.goto_bstore (s : State) (p : BitVec 30) : (s.goto p).bstore = s.bstore := rfl
@[simp] theorem State.goto_cores (s : State) (p : BitVec 30) : (s.goto p).cores = s.cores := rfl
@[simp] theorem State.goto_clusters (s : State) (p : BitVec 30) : (s.goto p).clusters = s.clusters := rfl
@[simp] theorem State.goto_ctxs (s : State) (p : BitVec 30) : (s.goto p).ctxs = s.ctxs := rfl
@[simp] theorem State.goto_grids (s : State) (p : BitVec 30) : (s.goto p).grids = s.grids := rfl
@[simp] theorem State.goto_gangs (s : State) (p : BitVec 30) : (s.goto p).gangs = s.gangs := rfl
@[simp] theorem State.goto_dtb (s : State) (p : BitVec 30) : (s.goto p).dtb = s.dtb := rfl
@[simp] theorem State.goto_quarantine (s : State) (p : BitVec 30) : (s.goto p).quarantine = s.quarantine := rfl
@[simp] theorem State.goto_versions (s : State) (p : BitVec 30) : (s.goto p).versions = s.versions := rfl
@[simp] theorem State.goto_votes (s : State) (p : BitVec 30) : (s.goto p).votes = s.votes := rfl
@[simp] theorem State.goto_nodes (s : State) (p : BitVec 30) : (s.goto p).nodes = s.nodes := rfl
@[simp] theorem State.goto_credits (s : State) (p : BitVec 30) : (s.goto p).credits = s.credits := rfl
@[simp] theorem State.goto_records (s : State) (p : BitVec 30) : (s.goto p).records = s.records := rfl
@[simp] theorem State.goto_nextRecord (s : State) (p : BitVec 30) : (s.goto p).nextRecord = s.nextRecord := rfl
@[simp] theorem State.goto_nextNode (s : State) (p : BitVec 30) : (s.goto p).nextNode = s.nextNode := rfl
@[simp] theorem State.goto_endedGrids (s : State) (p : BitVec 30) : (s.goto p).endedGrids = s.endedGrids := rfl
@[simp] theorem State.goto_msgs (s : State) (p : BitVec 30) : (s.goto p).msgs = s.msgs := rfl
@[simp] theorem State.goto_lastCluster (s : State) (p : BitVec 30) : (s.goto p).lastCluster = s.lastCluster := rfl
@[simp] theorem State.goto_reserved (s : State) (p : BitVec 30) : (s.goto p).reserved = s.reserved := rfl
@[simp] theorem State.goto_readyCount (s : State) (p : BitVec 30) : (s.goto p).readyCount = s.readyCount := rfl
@[simp] theorem State.goto_lastRing (s : State) (p : BitVec 30) : (s.goto p).lastRing = s.lastRing := rfl
@[simp] theorem State.goto_images (s : State) (p : BitVec 30) : (s.goto p).images = s.images := rfl
@[simp] theorem State.goto_nextImage (s : State) (p : BitVec 30) : (s.goto p).nextImage = s.nextImage := rfl
@[simp] theorem State.goto_timed (s : State) (p : BitVec 30) : (s.goto p).timed = s.timed := rfl
@[simp] theorem State.goto_toks (s : State) (p : BitVec 30) : (s.goto p).toks = s.toks := rfl
@[simp] theorem State.goto_retention (s : State) (p : BitVec 30) : (s.goto p).retention = s.retention := rfl
@[simp] theorem State.goto_memCopy (s : State) (p : BitVec 30) : (s.goto p).memCopy = s.memCopy := rfl
@[simp] theorem State.goto_ingress (s : State) (p : BitVec 30) : (s.goto p).ingress = s.ingress := rfl
@[simp] theorem State.goto_cohMsgs (s : State) (p : BitVec 30) : (s.goto p).cohMsgs = s.cohMsgs := rfl
@[simp] theorem State.goto_cohReqs (s : State) (p : BitVec 30) : (s.goto p).cohReqs = s.cohReqs := rfl
@[simp] theorem State.goto_preqs (s : State) (p : BitVec 30) : (s.goto p).preqs = s.preqs := rfl
@[simp] theorem State.goto_arbiters (s : State) (p : BitVec 30) : (s.goto p).arbiters = s.arbiters := rfl
@[simp] theorem State.goto_recoveries (s : State) (p : BitVec 30) : (s.goto p).recoveries = s.recoveries := rfl
@[simp] theorem State.goto_peers (s : State) (p : BitVec 30) : (s.goto p).peers = s.peers := rfl
@[simp] theorem State.goto_errors (s : State) (p : BitVec 30) : (s.goto p).errors = s.errors := rfl
@[simp] theorem State.goto_retiredUnits (s : State) (p : BitVec 30) : (s.goto p).retiredUnits = s.retiredUnits := rfl
@[simp] theorem State.goto_l2pmc (s : State) (p : BitVec 30) : (s.goto p).l2pmc = s.l2pmc := rfl
@[simp] theorem State.goto_l2pmcsel (s : State) (p : BitVec 30) : (s.goto p).l2pmcsel = s.l2pmcsel := rfl
@[simp] theorem State.goto_dev (s : State) (p : BitVec 30) : (s.goto p).dev = s.dev := rfl
@[simp] theorem State.goto_nextEntry (s : State) (p : BitVec 30) : (s.goto p).nextEntry = s.nextEntry := rfl
@[simp] theorem State.goto_nextPresent (s : State) (p : BitVec 30) : (s.goto p).nextPresent = s.nextPresent := rfl
@[simp] theorem State.goto_nextUid (s : State) (p : BitVec 30) : (s.goto p).nextUid = s.nextUid := rfl
@[simp] theorem State.goto_nextGrid (s : State) (p : BitVec 30) : (s.goto p).nextGrid = s.nextGrid := rfl
@[simp] theorem State.goto_nextGang (s : State) (p : BitVec 30) : (s.goto p).nextGang = s.nextGang := rfl

/-! ## Numbered data -/

theorem SMap.find_put {β : Type} (m : SMap β) (k j : Nat) (v : β) :
    SMap.find (SMap.put m k v) j = if j = k then some v else SMap.find m j := by
  induction m with
  | nil => by_cases h : k = j <;> simp [SMap.put, SMap.find, h, eq_comm]
  | cons p m ih =>
    obtain ⟨i, w⟩ := p
    simp only [SMap.put]
    split
    · by_cases e : k = j <;> simp [SMap.find, e, eq_comm]
    · split
      · by_cases e : j = k
        · subst_vars; simp [SMap.find]
        · subst_vars; simp [SMap.find, e, Ne.symm e]
      · by_cases e : j = k <;> by_cases e' : i = j <;> simp_all [SMap.find]

@[simp] theorem SMap.find_put_self {β : Type} (m : SMap β) (k : Nat) (v : β) : SMap.find (SMap.put m k v) k = some v := by
  simp [SMap.find_put]
theorem SMap.get_put {β : Type} (m : SMap β) (k j : Nat) (v d : β) :
    SMap.get (SMap.put m k v) j d = if j = k then v else SMap.get m j d := by
  simp only [SMap.get, SMap.find_put]; split <;> rfl
theorem SMap.get_upd {β : Type} (m : SMap β) (k j : Nat) (d : β) (f : β → β) :
    SMap.get (SMap.upd m k d f) j d = if j = k then f (SMap.get m k d) else SMap.get m j d :=
  SMap.get_put ..
@[simp] theorem SMap.get_upd_self {β : Type} (m : SMap β) (k : Nat) (d : β) (f : β → β) :
    SMap.get (SMap.upd m k d f) k d = f (SMap.get m k d) := by simp [SMap.get_upd]

theorem SMap.find_del_of_ne {β : Type} (m : SMap β) {k j : Nat} (h : j ≠ k) : SMap.find (SMap.del m k) j = SMap.find m j := by
  induction m with
  | nil => rfl
  | cons p m ih =>
    obtain ⟨i, w⟩ := p
    simp only [SMap.del]
    split
    · subst_vars; simp [SMap.find, Ne.symm h]
    · simp only [SMap.find, ih]
theorem SMap.find_eq_none {β : Type} (m : SMap β) {k : Nat} (h : k ∉ m.map fun q => q.1) : SMap.find m k = none := by
  induction m with
  | nil => rfl
  | cons p m ih =>
    simp only [List.map_cons, List.mem_cons, not_or] at h
    simp [SMap.find, Ne.symm h.1, ih h.2]
theorem SMap.find_del_self {β : Type} (m : SMap β) (k : Nat) (h : (m.map fun q => q.1).Nodup) : SMap.find (SMap.del m k) k = none := by
  induction m with
  | nil => rfl
  | cons p m ih =>
    obtain ⟨i, w⟩ := p
    simp only [List.map_cons, List.nodup_cons] at h
    simp only [SMap.del]
    split
    · subst_vars; exact SMap.find_eq_none _ h.1
    · simp [SMap.find, *]
theorem SMap.find_mapVal {β : Type} (m : SMap β) (f : β → β) (k : Nat) : SMap.find (SMap.mapVal m f) k = (SMap.find m k).map f := by
  induction m with
  | nil => rfl
  | cons p m ih =>
    simp only [SMap.mapVal, List.map_cons, SMap.find] at *
    split <;> simp_all

/-! ## A part after an update of a part -/

theorem State.ctx_onCtx (s : State) (c k : Nat) (f : Ctx → Ctx) : (s.onCtx c f).ctx k = if k = c then f (s.ctx c) else s.ctx k :=
  SMap.get_upd ..
theorem State.grid_onGrid (s : State) (c k : Nat) (f : Grid → Grid) : (s.onGrid c f).grid k = if k = c then f (s.grid c) else s.grid k :=
  SMap.get_upd ..
theorem State.gang_onGang (s : State) (c k : Nat) (f : Gang → Gang) : (s.onGang c f).gang k = if k = c then f (s.gang c) else s.gang k :=
  SMap.get_upd ..
theorem State.core_onCore (s : State) (c k : Nat) (f : Core → Core) : (s.onCore c f).core k = if k = c then f (s.core c) else s.core k :=
  SMap.get_upd ..
theorem State.cluster_onCluster (s : State) (c k : Nat) (f : Cluster → Cluster) :
    (s.onCluster c f).cluster k = if k = c then f (s.cluster c) else s.cluster k :=
  SMap.get_upd ..
theorem State.segment_onSegment (s : State) (c k i j : Nat) (f : Segment → Segment) :
    (s.onSegment c k f).segment i j = if i = c ∧ j = k then f (s.segment c k) else s.segment i j := by
  simp only [State.segment, State.onSegment, State.cluster_onCluster]
  by_cases h : i = c
  · subst h; simp [SMap.get_upd]
  · simp [h]
theorem State.node_onNode (s : State) (n k : Nat) (f : Node → Node) :
    (s.onNode n f).node k = if k = n ∧ (SMap.find s.nodes n).isSome then f (s.node n) else s.node k := by
  simp only [State.node, State.onNode, SMap.get]
  cases h : SMap.find s.nodes n with
  | none => simp
  | some x => by_cases e : k = n <;> simp [SMap.find_put, e]

/-! ## Derived updates, and a warp's registers -/

@[simp] theorem State.onCnt_eq (s : State) (f : Counters → Counters) : s.onCnt f = s.onRegs fun r => { r with cnt := f r.cnt } := rfl
@[simp] theorem State.onSegment_eq (s : State) (c k : Nat) (f : Segment → Segment) :
    s.onSegment c k f = s.onCluster c fun x => { x with segs := SMap.upd x.segs k {} f } := rfl
@[simp] theorem State.setS_eq (s : State) (d : BitVec 5) (v : Word) : s.setS d v = s.onRegs fun r => r.setS d v := rfl
@[simp] theorem State.setP_eq (s : State) (d : BitVec 3) (v : Word) :
    s.setP d v = s.onRegs fun r => { r with p := r.p.set d.toNat v d.isLt } := rfl
@[simp] theorem State.setV_eq (s : State) (d : Nat) (v : Lanes) :
    s.setV d v = s.onRegs fun r => r.setEntry d (blend s.snap.exec v (r.entry d)) := rfl
@[simp] theorem State.setVAll_eq (s : State) (d : Nat) (v : Lanes) : s.setVAll d v = s.onRegs fun r => r.setEntry d v := rfl
@[simp] theorem State.ok_eq (s : State) : s.ok = .next { s with warp := { s.warp with pc := s.warp.pc.next } } := rfl
@[simp] theorem State.stall_eq (s : State) : s.stall = .next { s with grp := { s.grp with ended := .stalled } } := rfl
@[simp] theorem State.sendMsix_eq (s : State) (v : Nat) : s.sendMsix v = s.onDev fun d => { d with msix := d.msix ++ [v] } := rfl

theorem Regs.setS_get (r : Regs) (d : BitVec 5) (v : Word) (n : Fin 32) :
    (r.setS d v).s[n] = if n.val = d.toNat then v else r.s[n] := by
  by_cases h : n.val = d.toNat
  · simp [Regs.setS, h]
  · simp [Regs.setS, h, Ne.symm h]
theorem Regs.entry_setEntry (r : Regs) (n m : Nat) (v : Lanes) : (r.setEntry n v).entry m = if m = n then v else r.entry m := by
  simp only [Regs.entry, Regs.setEntry, SMap.get_put]
@[simp] theorem blend_get (mask : Word) (new old : Lanes) (l : Fin 32) :
    (blend mask new old)[l] = if mask.getLsbD l.val then new[l] else old[l] := by simp [blend]
@[simp] theorem map1_get (f : Word → Word) (a : Lanes) (l : Fin 32) : (Vector.ofFn fun k : Fin 32 => f a[k])[l] = f a[l] := by simp

end Sys2Proof.Machine
end

