-- ==== Sys2Proof/Laws/Ops.lean ====
section
/-! SUPPORT. What each shared operation can do, said once: traps, names, transfers, floating-point guards, spans,
accesses as they are issued and nodes as they finish. -/

namespace Sys2Proof.Machine

/-! ## Traps (R389 to R396) -/

/-- A trap always answers a next state whose group is marked. -/
theorem takeTrap_next (cause : Nat) (i0 i1 : Word) (s : State) :
    ∃ t, takeTrap cause i0 i1 s = .next t ∧ t.grp.ended = .trapped cause i0 i1 := ⟨_, rfl, rfl⟩
theorem takeTrap_traps (cause : Nat) (i0 i1 : Word) (s : State) : Traps (takeTrap cause i0 i1 s) s cause i0 i1 :=
  ⟨_, rfl, rfl, rfl⟩
/-- Trap entry of an unchecked warp outside handler mode whose context handles the cause (R393). -/
theorem enterTrap_handled (pc : Pc) (cause : Nat) (i0 i1 : Word) (s : State) (hr : s.warp.regs.chkrole = 0)
    (hh : s.warp.handler = false) (hb : (s.ctx s.warp.ctx).hbase ≠ 0) (he : (s.ctx s.warp.ctx).trapEnable.getLsbD cause = true) :
    enterTrap pc cause i0 i1 s = { s with warp := { s.warp with
      regs := { s.warp.regs.setTrap pc cause i0 i1 with exec := 0xFFFFFFFF }
      handler := true
      hbase := (s.ctx s.warp.ctx).hbase
      pc := { packet := (s.ctx s.warp.ctx).hentry, slot := 0 } } } := by
  have : (s.warp.handler || (decide ((s.ctx s.warp.ctx).hbase = 0) || !(s.ctx s.warp.ctx).trapEnable.getLsbD cause)) = false := by
    rw [hh, he, decide_eq_false hb]; rfl
  simp only [enterTrap, this]
  simp [hr, State.onRegs, State.onWarp, State.writeExec, State.goto, Regs.setTrap]
/-- Trap entry of an unchecked warp whose trap is double or unhandled loses the grid (R394, R399). -/
theorem enterTrap_loses (pc : Pc) (cause : Nat) (i0 i1 : Word) (s : State) (hr : s.warp.regs.chkrole = 0)
    (hh : s.warp.handler = true ∨ (s.ctx s.warp.ctx).hbase = 0 ∨ (s.ctx s.warp.ctx).trapEnable.getLsbD cause = false) :
    enterTrap pc cause i0 i1 s = loseGrid s.warp.grid (if s.warp.handler then 2 else 1)
      (s.warp.regs.setTrap pc cause i0 i1).trapWords (s.onRegs fun r => r.setTrap pc cause i0 i1) := by
  have : (s.warp.handler || (decide ((s.ctx s.warp.ctx).hbase = 0) || !(s.ctx s.warp.ctx).trapEnable.getLsbD cause)) = true := by
    rcases hh with h | h | h
    · rw [h]; rfl
    · rw [decide_eq_true h]; simp
    · rw [h]; simp
  simp only [enterTrap, hr, this]
  rfl

/-! ## Names below the bound (R72) -/

theorem lowestBad_of_below (b : Nat) (names : List (Nat × Nat)) (h : ∀ r ∈ names, r.1 + r.2 ≤ b) : lowestBad b names = none := by
  induction names with
  | nil => rfl
  | cons r rest ih =>
    obtain ⟨n, k⟩ := r
    have h0 : n + k ≤ b := h (n, k) (by simp)
    rw [lowestBad, if_pos h0, ih fun r hr => h r (by simp [hr])]
/-- A word all of whose vector names lie below the bound has its effect. -/
theorem vnames_of_below (s : State) (names : List (Nat × Nat)) (o : Out) (h : NamesBelow s names) : s.vnames names o = o := by
  simp [State.vnames, lowestBad_of_below _ _ h]

/-! ## Transfers and predicates of flow (R62, R63) -/

theorem inCode_iff (t : Int) : inCode t = true ↔ 0 ≤ t ∧ t < 2 ^ 30 := by simp [inCode]
theorem transfer_in (s : State) (off : Int) (f : State → State) (h0 : 0 ≤ (s.warp.pc.packet.toNat : Int) + off)
    (h1 : (s.warp.pc.packet.toNat : Int) + off < 2 ^ 30) :
    s.transfer off f = .next ((f s).goto (BitVec.ofInt 30 ((s.warp.pc.packet.toNat : Int) + off))) := by
  have : inCode (s.target off) = true := (inCode_iff _).2 ⟨h0, h1⟩
  show (if inCode (s.target off) then _ else _) = _
  rw [if_pos this]; rfl
theorem transfer_out (s : State) (off : Int) (f : State → State)
    (h : ¬ (0 ≤ (s.warp.pc.packet.toNat : Int) + off ∧ (s.warp.pc.packet.toNat : Int) + off < 2 ^ 30)) :
    s.transfer off f = takeTrap causeBranchRange (BitVec.ofInt 32 ((s.warp.pc.packet.toNat : Int) + off)) 0 s := by
  have : ¬ inCode (s.target off) = true := fun e => h ((inCode_iff _).1 e)
  show (if inCode (s.target off) then _ else _) = _
  rw [if_neg this]; rfl

/-! ## Scalars, predicates and vectors written -/

/-- A scalar result: one register written and the program counter moved on. -/
theorem givesScalar_setS (s : State) (d : BitVec 5) (v : Word) : GivesScalar (s.setS d v).ok s d.toNat v :=
  ⟨_, rfl, fun n => Regs.setS_get s.warp.regs d v n, rfl, rfl⟩
theorem salu2_gives (f : Word → Word → Word) (d a b : BitVec 5) (s : State) :
    GivesScalar (salu2 f d a b s) s d.toNat (f (s.srcS a) (s.srcS b)) := givesScalar_setS ..
theorem salu1_gives (f : Word → Word) (d a : BitVec 5) (s : State) :
    GivesScalar (salu1 f d a s) s d.toNat (f (s.srcS a)) := givesScalar_setS ..
/-- A predicate written whole. -/
theorem givesPredicate_setP (s : State) (d : BitVec 3) (v : Word) : GivesPredicate (s.setP d v).ok s d.toNat v := by
  refine ⟨_, rfl, fun n => ?_, ?_, rfl, ?_, ?_⟩
  · by_cases h : n.val = d.toNat
    · simp [State.onRegs, h]
    · simp [State.onRegs, h, Ne.symm h]
  · exact (BitVec.or_zero).symm
  · rfl
  · rfl

/-! ## Floating-point words (R52, R54) -/

/-- A floating-point word that does not trap has its effect and raises its flags. -/
theorem fpGuard_quiet (s : State) (markers : List Lanes) (raised : BitVec 5) (k : State → State) (h : FpQuiet s markers raised) :
    s.fpGuard markers raised k = ((k s).raiseFp raised).ok := by
  obtain ⟨h1, h2⟩ := h
  cases hu : s.snap.uninit with
  | true => simp [State.fpGuard, hu, h1 hu, h2]
  | false => simp [State.fpGuard, hu, h2]

/-! ## Spans of unchecked runs (R320, R336, R337) -/

theorem closeSpan_unchecked (s : State) (c : Closing) (a : Option Access) (h : s.warp.regs.chkrole = 0) : s.closeSpan c a = s := by
  simp [State.closeSpan, State.onWarp, h]
theorem escape_unchecked (s : State) (h : s.warp.regs.chkrole = 0) : s.escape = s := by simp [State.escape, State.onWarp, h]
theorem scratchMark_unchecked (s : State) (h : s.warp.regs.chkrole = 0) : s.scratchMark = s := by
  simp [State.scratchMark, State.onWarp, h]
theorem foldStore_unchecked (s : State) (x y : Word) (h : s.warp.regs.chkrole = 0) : s.foldStore x y = s := by
  simp [State.foldStore, State.onWarp, h]
theorem opensSpan_unchecked (s : State) (k : Out) (h : s.snap.chkrole = 0) : s.opensSpan k = k := by simp [State.opensSpan, h]
theorem issueLogged_unchecked (s : State) (kind n : Nat) (lanes : List Nat) (a : Access) (k : State → Out) (h : s.snap.chkrole = 0) :
    s.issueLogged kind n lanes a k = k (s.addAccess a) := by simp [State.issueLogged, h]

/-! ## Accesses as they are issued -/

/-- An access joins the outstanding ones last; of a warp with no matrix entry in flight nothing else changes but
the count by which accesses are ordered. -/
theorem addAccess_noFlights (s : State) (a : Access) (h : s.warp.flights = []) :
    s.addAccess a = { s with
      nextEntry := s.nextEntry + 1
      warp := { s.warp with out := s.warp.out ++ [{ a with stamp := s.nextEntry, pc := s.grp.pc }] } } := by
  simp [State.addAccess, State.onWarp, h]

/-! ## Updates of every warp -/

theorem onUid_focus (s : State) (f : Warp → Warp) (h : s.warp.park ≠ .vacant) : (s.onUid s.warp.uid f).warp = f s.warp := by
  simp [State.onUid, h]
theorem onUid_mem (s : State) (uid : Nat) (f : Warp → Warp) : (s.onUid uid f).mem = s.mem := rfl

/-! ## Nodes -/

/-- A node of which nothing has been decided ends with the status given. -/
theorem finishNode_node (s : State) (h st : Nat) (n : Node) (hf : SMap.find s.nodes h = some n) (hn : n.finish = none) :
    (s.finishNode h st).node h = { n with finish := some st } := by
  have : s.node h = n := by simp [State.node, SMap.get, hf]
  simp [State.finishNode, State.node_onNode, hf, this, hn]

end Sys2Proof.Machine
end

