-- ==== Sys2Proof/Laws/Access.lean ====
section
/-! SUPPORT. Accesses to translated global memory: their checks pass and each lane has one piece (R202, R280). -/

namespace Sys2Proof.Machine

theorem windowOf_global {va : Nat} (h : va < 0x000F000000000000) : windowOf va = .glob := if_pos h
theorem inOneWindow_global {va n : Nat} (hn : 0 < n) (h : va + n ≤ 0x000F000000000000) : inOneWindow va n = true := by
  have h1 : windowOf va = .glob := windowOf_global (by omega)
  have h2 : windowOf (va + n - 1) = .glob := windowOf_global (by omega)
  simp [inOneWindow, h1, h2, Win.kind]
  omega

/-- No check of R280 before translation fails on aligned lanes of the global window. -/
theorem accessChecks_global (s : State) (f : AccessForm) (ls : List (Nat × Nat)) (hn : 0 < f.bytes)
    (h : ∀ l ∈ ls, l.2 + f.bytes ≤ 0x000F000000000000 ∧ l.2 % f.align = 0) : accessChecks s f ls = none := by
  have none_of (g : Nat × Nat → Option Bad) (hg : ∀ l ∈ ls, g l = none) : ls.findSome? g = none := by
    rw [List.findSome?_eq_none_iff]; exact hg
  have hw : ∀ l ∈ ls, windowOf l.2 = .glob := fun l hl => windowOf_global (by have := (h l hl).1; omega)
  rw [accessChecks, none_of _ fun l hl => by simp [chkWindow, inOneWindow_global hn (h l hl).1],
    none_of _ fun l hl => by simp [chkScratch, hw l hl], none_of _ fun l hl => by simp [chkPrivate, hw l hl],
    none_of _ fun l hl => by simp [chkAlign, hw l hl, (h l hl).2], none_of _ fun l hl => by simp [chkFifo, hw l hl]]
  rfl

/-- Each lane has the one piece that its translation gives. -/
theorem resolveLanes_global (s : State) (f : AccessForm) (wait : Bool) (ls : List (Nat × Nat)) (pa : Nat → Nat)
    (h : ∀ l ∈ ls, l.2 < 0x000F000000000000 ∧ s.translate s.warp.ctx l.2 (if f.write then .write else .read) = .phys (pa l.1)) :
    resolveLanes s f wait ls = .inl (ls.map fun l => (l.1, [⟨.phys (pa l.1), l.2, f.bytes⟩])) := by
  induction ls with
  | nil => rfl
  | cons l ls ih =>
    have hl := h l (by simp)
    have hr : resolveLane s f wait l = .ok [⟨.phys (pa l.1), l.2, f.bytes⟩] := by
      simp [resolveLane, windowOf_global hl.1, globalPieces, translatePieces, hl.2]
    simp [resolveLanes, hr, ih fun x hx => h x (by simp [hx])]

/-- With no stable range declared, no byte of memory lies in one. -/
theorem stablePhys_none (s : State) (a n : Nat) (h : ∀ g ∈ s.grids, ∀ q ∈ g.2.stable, q.2 = 0) : s.stablePhys a n = none := by
  simp only [State.stablePhys, List.findSome?_eq_none_iff]
  intro g hg
  split
  · rfl
  · rw [List.findIdx?_eq_none_iff.2]
    · rfl
    · intro q hq; simp [h g hg q hq]
theorem stableOf_none (s : State) (ctx grid va n : Nat) (pa : Option Nat) (h : ∀ g ∈ s.grids, ∀ q ∈ g.2.stable, q.2 = 0)
    (hw : ∀ q ∈ (s.grid grid).stable, q.2 = 0) : s.stableOf ctx grid va n pa = none := by
  have hp : (pa.bind fun a => (s.stablePhys a n).map (·.2)) = none := by
    cases pa with
    | none => rfl
    | some a => simp [stablePhys_none s a n h]
  simp only [State.stableOf, hp, Option.or_none, List.findSome?_eq_none_iff, List.findIdx?_eq_none_iff]
  intro rs hrs q hq
  have : q.2 = 0 := by
    rcases List.mem_cons.1 hrs with rfl | hrs
    · exact hw q hq
    · obtain ⟨g, hg, rfl⟩ := List.mem_map.1 hrs
      exact h g (List.mem_filter.1 hg).1 q hq
  simp [this]
/-- With no stable range declared, no write meets one. -/
theorem stableHit_none (s : State) (rs : List (Nat × List Piece)) (h : ∀ g ∈ s.grids, ∀ q ∈ g.2.stable, q.2 = 0)
    (hw : ∀ q ∈ (s.grid s.warp.grid).stable, q.2 = 0) : stableHit s rs = none := by
  simp only [stableHit, List.findSome?_eq_none_iff]
  intro r hr p hp
  split
  · simp [stableOf_none s _ _ _ _ _ h hw]
  · rfl

/-- No lane of translated global memory waits for a gang. -/
theorem gangsAway_global (s : State) (f : AccessForm) (wait : Bool) (ls : List (Nat × Nat)) (pa : Nat → Nat)
    (h : ∀ l ∈ ls, l.2 < 0x000F000000000000 ∧ s.translate s.warp.ctx l.2 (if f.write then .write else .read) = .phys (pa l.1)) :
    gangsAway s f wait ls = [] := by
  unfold gangsAway
  rw [List.filterMap_eq_nil_iff.2]
  · rfl
  · intro l hl
    have hr : resolveLane s f wait l = .ok [⟨.phys (pa l.1), l.2, f.bytes⟩] := by
      simp [resolveLane, windowOf_global (h l hl).1, globalPieces, translatePieces, (h l hl).2]
    simp [hr]

/-- The checks pass and the access goes on with its pieces. -/
theorem withLanes_global (s : State) (f : AccessForm) (wait : Bool) (ls : List (Nat × Nat)) (pa : Nat → Nat)
    (k : List (Nat × List Piece) → Out) (hn : 0 < f.bytes) (ha : f.align = f.bytes)
    (hp : PlainGlobal s (if f.write then .write else .read) ls f.bytes pa)
    (hs : ∀ g ∈ s.grids, ∀ q ∈ g.2.stable, q.2 = 0) (hw : ∀ q ∈ (s.grid s.warp.grid).stable, q.2 = 0) :
    withLanes f wait ls s k = k (ls.map fun l => (l.1, [⟨.phys (pa l.1), l.2, f.bytes⟩])) := by
  rw [withLanes, accessChecks_global s f ls hn fun l hl => ⟨(hp l hl).1, ha ▸ (hp l hl).2.1⟩]
  simp only
  have hg : ∀ l ∈ ls, l.2 < 0x000F000000000000 ∧ s.translate s.warp.ctx l.2 (if f.write then .write else .read) = .phys (pa l.1) :=
    fun l hl => ⟨by have := (hp l hl).1; omega, (hp l hl).2.2⟩
  rw [resolveLanes_global s f wait ls pa hg]
  simp only [stableHit_none s _ hs hw, ite_self, gangsAway_global s f wait ls pa hg]

/-! ## Places that have no part left open -/

/-- The walk ends at one 4 KiB entry, or nowhere, and no run it passes disagrees: nothing of it is undefined (R415). -/
def plainWalk (m : Memory) (va : Nat) : Nat → Nat → Bool
  | level, table =>
    let e := pte m table (fld va (12 + 10 * level) 10)
    (clashes m level table (fld va (12 + 10 * level) 10)).isEmpty &&
      if e.testBit 4 then level == 0 && fld e 10 2 == 0
      else match level with
        | 0 => true
        | n + 1 => plainWalk m va n (fld e 12 40 * 4096)
theorem leafAt_one (q : SMap Bool) (e va f g : Nat) (want : Want) (h : fld e 10 2 = 0) :
    leafAt q 0 e va f want = leafAt q 0 e va g want := by
  simp [leafAt, runOf, entryBytes, h]
theorem walk_plain {m : Memory} {q : SMap Bool} {va : Nat} {want : Want} (f g : Nat) : ∀ level table, plainWalk m va level table = true →
    walk m q va f want level table = walk m q va g want level table := by
  intro level
  induction level with
  | zero =>
    intro table h
    unfold plainWalk at h
    unfold walk
    simp only [Bool.and_eq_true, List.isEmpty_iff] at h
    by_cases e : (pte m table (fld va (12 + 10 * 0) 10)).testBit 4
    · simp only [e, if_true, Bool.and_eq_true, beq_iff_eq] at h
      simp only [e, h.1, leafAt_one q _ va f g want h.2.2]
    · simp [e, h.1]
  | succ n ih =>
    intro table h
    unfold plainWalk at h
    unfold walk
    simp only [Bool.and_eq_true, List.isEmpty_iff] at h
    by_cases e : (pte m table (fld va (12 + 10 * (n + 1)) 10)).testBit 4
    · simp [e] at h
    · simp only [e, if_false, Bool.false_eq_true] at h ⊢
      simp only [h.1, ih _ h.2]
/-- The translation of an address has no part left open. -/
def State.plainAt (s : State) (ctx va : Nat) : Bool :=
  (s.ctx ctx).tlb.isEmpty && (s.ctx ctx).ptroot.getLsbD 0 && plainWalk s.mem va 3 (fld (s.ctx ctx).ptroot.toNat 12 40 * 4096)
theorem translate_plain {s : State} {ctx va : Nat} (want : Want) (f : Nat) (h : s.plainAt ctx va = true) :
    ({ s with fresh := f } : State).translate ctx va want = s.translate ctx va want := by
  simp only [State.plainAt, Bool.and_eq_true, List.isEmpty_iff] at h
  have e : ∀ t : State, t.ctx ctx = s.ctx ctx → t.mem = s.mem → t.quarantine = s.quarantine →
      t.walkCtx (s.ctx ctx) va want = s.walkCtx (s.ctx ctx) va want := by
    intro t _ hm hq
    simp only [State.walkCtx, h.1.2, if_true, hm, hq]
    exact walk_plain _ _ _ _ h.2
  have e := e { s with fresh := f } rfl rfl rfl
  have hc : ({ s with fresh := f } : State).ctx ctx = s.ctx ctx := rfl
  simp only [State.translate, hc, e, Ctx.tlbFor, h.1.1, List.filterMap_nil, List.filter_nil, List.getElem?_nil]
  rfl
theorem unitAt_plain {s : State} {j : EngineJob} {c : Copy} {q va n : Nat} {write : Bool}
    (h : (windowOf va != .glob || s.plainAt j.ctx va) = true) (hs : (s.grids.all fun g => g.2.stable.all fun q => q.2 == 0) = true)
    (hg : ((s.grid j.grid).stable.all fun q => q.2 == 0) = true)
    (f : Nat) : ({ s with fresh := f } : State).unitAt j c q va n write = s.unitAt j c q va n write := by
  have h1 : ∀ g ∈ s.grids, ∀ q ∈ g.2.stable, q.2 = 0 := by simpa using hs
  have h2 : ∀ q ∈ (s.grid j.grid).stable, q.2 = 0 := by simpa using hg
  have e : ∀ pa, ({ s with fresh := f } : State).stableOf j.ctx j.grid va n pa = s.stableOf j.ctx j.grid va n pa := fun pa => by
    rw [stableOf_none s _ _ _ _ _ h1 h2, stableOf_none { s with fresh := f } _ _ _ _ _ h1 h2]
  unfold State.unitAt
  cases hw : windowOf va with
  | glob =>
    have hp : s.plainAt j.ctx va = true := by simpa [hw] using h
    simp only [translate_plain _ f hp, e]
    rfl
  | _ => rfl

end Sys2Proof.Machine
end

