-- ==== Sys2Proof/Laws/Encode.lean ====
section
/-! SUPPORT. The word of each instruction and the check of its fields, one lemma each. -/

namespace Sys2Proof

@[simp] theorem encode_trap (i : BitVec 16) : encode (.trap i) = some (wordOf 0x00300000 [(i.toNat, 0)]) := rfl
@[simp] theorem encode_pushr (o : BitVec 17) : encode (.pushr o) = some (wordOf 0x00700000 [(o.toNat, 0)]) := rfl
@[simp] theorem encode_gsync (g : BitVec 8) : encode (.gsync g) = some (wordOf 0x00A00000 [(g.toNat, 0)]) := rfl
@[simp] theorem encode_bra (o : BitVec 17) : encode (.bra o) = some (wordOf 0x02000000 [(o.toNat, 0)]) := rfl
@[simp] theorem encode_bz (s : BitVec 5) (o : BitVec 17) : encode (.bz s o) = some (wordOf 0x02400000 [(s.toNat, 17), (o.toNat, 0)]) := rfl
@[simp] theorem encode_bnz (s : BitVec 5) (o : BitVec 17) : encode (.bnz s o) = some (wordOf 0x02800000 [(s.toNat, 17), (o.toNat, 0)]) := rfl
@[simp] theorem encode_bany (p : BitVec 3) (o : BitVec 17) : encode (.bany p o) = some (wordOf 0x02C00000 [(p.toNat, 17), (o.toNat, 0)]) := rfl
@[simp] theorem encode_ball (p : BitVec 3) (o : BitVec 17) : encode (.ball p o) = some (wordOf 0x03000000 [(p.toNat, 17), (o.toNat, 0)]) := rfl
@[simp] theorem encode_bnone (p : BitVec 3) (o : BitVec 17) : encode (.bnone p o) = some (wordOf 0x03400000 [(p.toNat, 17), (o.toNat, 0)]) := rfl
@[simp] theorem encode_bdiv (p : BitVec 3) (o : BitVec 17) : encode (.bdiv p o) = some (wordOf 0x03800000 [(p.toNat, 17), (o.toNat, 0)]) := rfl
@[simp] theorem encode_call (o : BitVec 25) : encode (.call o) = some (wordOf 0x04000000 [(o.toNat, 0)]) := rfl
@[simp] theorem encode_sadd (d : BitVec 5) (a : BitVec 5) (b : BitVec 5) : encode (.sadd d a b) = some (wordOf 0x06000000 [(d.toNat, 12), (a.toNat, 6), (b.toNat, 0)]) := rfl
@[simp] theorem encode_ssub (d : BitVec 5) (a : BitVec 5) (b : BitVec 5) : encode (.ssub d a b) = some (wordOf 0x06100000 [(d.toNat, 12), (a.toNat, 6), (b.toNat, 0)]) := rfl
@[simp] theorem encode_smul (d : BitVec 5) (a : BitVec 5) (b : BitVec 5) : encode (.smul d a b) = some (wordOf 0x06200000 [(d.toNat, 12), (a.toNat, 6), (b.toNat, 0)]) := rfl
@[simp] theorem encode_smulhiI32 (d : BitVec 5) (a : BitVec 5) (b : BitVec 5) : encode (.smulhiI32 d a b) = some (wordOf 0x06300000 [(d.toNat, 12), (a.toNat, 6), (b.toNat, 0)]) := rfl
@[simp] theorem encode_smulhiN32 (d : BitVec 5) (a : BitVec 5) (b : BitVec 5) : encode (.smulhiN32 d a b) = some (wordOf 0x06400000 [(d.toNat, 12), (a.toNat, 6), (b.toNat, 0)]) := rfl
@[simp] theorem encode_sand (d : BitVec 5) (a : BitVec 5) (b : BitVec 5) : encode (.sand d a b) = some (wordOf 0x06500000 [(d.toNat, 12), (a.toNat, 6), (b.toNat, 0)]) := rfl
@[simp] theorem encode_sor (d : BitVec 5) (a : BitVec 5) (b : BitVec 5) : encode (.sor d a b) = some (wordOf 0x06600000 [(d.toNat, 12), (a.toNat, 6), (b.toNat, 0)]) := rfl
@[simp] theorem encode_sxor (d : BitVec 5) (a : BitVec 5) (b : BitVec 5) : encode (.sxor d a b) = some (wordOf 0x06700000 [(d.toNat, 12), (a.toNat, 6), (b.toNat, 0)]) := rfl
@[simp] theorem encode_sshl (d : BitVec 5) (a : BitVec 5) (b : BitVec 5) : encode (.sshl d a b) = some (wordOf 0x06800000 [(d.toNat, 12), (a.toNat, 6), (b.toNat, 0)]) := rfl
@[simp] theorem encode_sshrN32 (d : BitVec 5) (a : BitVec 5) (b : BitVec 5) : encode (.sshrN32 d a b) = some (wordOf 0x06900000 [(d.toNat, 12), (a.toNat, 6), (b.toNat, 0)]) := rfl
@[simp] theorem encode_sshrI32 (d : BitVec 5) (a : BitVec 5) (b : BitVec 5) : encode (.sshrI32 d a b) = some (wordOf 0x06A00000 [(d.toNat, 12), (a.toNat, 6), (b.toNat, 0)]) := rfl
@[simp] theorem encode_sminI32 (d : BitVec 5) (a : BitVec 5) (b : BitVec 5) : encode (.sminI32 d a b) = some (wordOf 0x06B00000 [(d.toNat, 12), (a.toNat, 6), (b.toNat, 0)]) := rfl
@[simp] theorem encode_smaxI32 (d : BitVec 5) (a : BitVec 5) (b : BitVec 5) : encode (.smaxI32 d a b) = some (wordOf 0x06C00000 [(d.toNat, 12), (a.toNat, 6), (b.toNat, 0)]) := rfl
@[simp] theorem encode_sminN32 (d : BitVec 5) (a : BitVec 5) (b : BitVec 5) : encode (.sminN32 d a b) = some (wordOf 0x06D00000 [(d.toNat, 12), (a.toNat, 6), (b.toNat, 0)]) := rfl
@[simp] theorem encode_smaxN32 (d : BitVec 5) (a : BitVec 5) (b : BitVec 5) : encode (.smaxN32 d a b) = some (wordOf 0x06E00000 [(d.toNat, 12), (a.toNat, 6), (b.toNat, 0)]) := rfl
@[simp] theorem encode_sclz (d : BitVec 5) (a : BitVec 5) : encode (.sclz d a) = some (wordOf 0x06F00000 [(d.toNat, 12), (a.toNat, 6)]) := rfl
@[simp] theorem encode_spopc (d : BitVec 5) (a : BitVec 5) : encode (.spopc d a) = some (wordOf 0x07000000 [(d.toNat, 12), (a.toNat, 6)]) := rfl
@[simp] theorem encode_smov (d : BitVec 5) (a : BitVec 5) : encode (.smov d a) = some (wordOf 0x07100000 [(d.toNat, 12), (a.toNat, 6)]) := rfl
@[simp] theorem encode_ssltI32 (d : BitVec 5) (a : BitVec 5) (b : BitVec 5) : encode (.ssltI32 d a b) = some (wordOf 0x07200000 [(d.toNat, 12), (a.toNat, 6), (b.toNat, 0)]) := rfl
@[simp] theorem encode_ssltN32 (d : BitVec 5) (a : BitVec 5) (b : BitVec 5) : encode (.ssltN32 d a b) = some (wordOf 0x07300000 [(d.toNat, 12), (a.toNat, 6), (b.toNat, 0)]) := rfl
@[simp] theorem encode_sseq (d : BitVec 5) (a : BitVec 5) (b : BitVec 5) : encode (.sseq d a b) = some (wordOf 0x07400000 [(d.toNat, 12), (a.toNat, 6), (b.toNat, 0)]) := rfl
@[simp] theorem encode_sadd64 (d : BitVec 4) (a : BitVec 4) (b : BitVec 4) : encode (.sadd64 d a b) = some (wordOf 0x07500000 [(d.toNat, 13), (a.toNat, 7), (b.toNat, 1)]) := rfl
@[simp] theorem encode_ssub64 (d : BitVec 4) (a : BitVec 4) (b : BitVec 4) : encode (.ssub64 d a b) = some (wordOf 0x07600000 [(d.toNat, 13), (a.toNat, 7), (b.toNat, 1)]) := rfl
@[simp] theorem encode_saddi (d : BitVec 5) (a : BitVec 5) (i : BitVec 15) : encode (.saddi d a i) = some (wordOf 0x08000000 [(d.toNat, 20), (a.toNat, 15), (i.toNat, 0)]) := rfl
@[simp] theorem encode_sandi (d : BitVec 5) (a : BitVec 5) (i : BitVec 15) : encode (.sandi d a i) = some (wordOf 0x0A000000 [(d.toNat, 20), (a.toNat, 15), (i.toNat, 0)]) := rfl
@[simp] theorem encode_sori (d : BitVec 5) (a : BitVec 5) (i : BitVec 15) : encode (.sori d a i) = some (wordOf 0x0C000000 [(d.toNat, 20), (a.toNat, 15), (i.toNat, 0)]) := rfl
@[simp] theorem encode_sxori (d : BitVec 5) (a : BitVec 5) (i : BitVec 15) : encode (.sxori d a i) = some (wordOf 0x0E000000 [(d.toNat, 20), (a.toNat, 15), (i.toNat, 0)]) := rfl
@[simp] theorem encode_sshiShl (d : BitVec 5) (a : BitVec 5) (n : BitVec 5) : encode (.sshiShl d a n) = some (wordOf 0x10000000 [(d.toNat, 20), (a.toNat, 15), (n.toNat, 0)]) := rfl
@[simp] theorem encode_sshiShrN32 (d : BitVec 5) (a : BitVec 5) (n : BitVec 5) : encode (.sshiShrN32 d a n) = some (wordOf 0x10002000 [(d.toNat, 20), (a.toNat, 15), (n.toNat, 0)]) := rfl
@[simp] theorem encode_sshiShrI32 (d : BitVec 5) (a : BitVec 5) (n : BitVec 5) : encode (.sshiShrI32 d a n) = some (wordOf 0x10004000 [(d.toNat, 20), (a.toNat, 15), (n.toNat, 0)]) := rfl
@[simp] theorem encode_sshiRotl (d : BitVec 5) (a : BitVec 5) (n : BitVec 5) : encode (.sshiRotl d a n) = some (wordOf 0x10006000 [(d.toNat, 20), (a.toNat, 15), (n.toNat, 0)]) := rfl
@[simp] theorem encode_slui (d : BitVec 5) (i : BitVec 20) : encode (.slui d i) = some (wordOf 0x12000000 [(d.toNat, 20), (i.toNat, 0)]) := rfl
@[simp] theorem encode_scmpi (d : BitVec 5) (a : BitVec 5) (k : BitVec 3) (i : BitVec 12) : encode (.scmpi d a k i) = some (wordOf 0x14000000 [(d.toNat, 20), (a.toNat, 15), (k.toNat, 12), (i.toNat, 0)]) := rfl
@[simp] theorem encode_sld (d : BitVec 5) (a : BitVec 4) (i : BitVec 15) : encode (.sld d a i) = some (wordOf 0x16000000 [(d.toNat, 20), (a.toNat, 16), (i.toNat, 0)]) := rfl
@[simp] theorem encode_sst (d : BitVec 5) (a : BitVec 4) (i : BitVec 15) : encode (.sst d a i) = some (wordOf 0x18000000 [(d.toNat, 20), (a.toNat, 16), (i.toNat, 0)]) := rfl
@[simp] theorem encode_lstart (a : BitVec 4) : encode (.lstart a) = some (wordOf 0x1A000000 [(a.toNat, 16)]) := rfl
@[simp] theorem encode_nextit (d : BitVec 3) : encode (.nextit d) = some (wordOf 0x1A100000 [(d.toNat, 17)]) := rfl
@[simp] theorem encode_brit (o : BitVec 17) : encode (.brit o) = some (wordOf 0x1A200000 [(o.toNat, 0)]) := rfl
@[simp] theorem encode_getsr (s : BitVec 5) (i : BitVec 10) : encode (.getsr s i) = some (wordOf 0x1C000000 [(s.toNat, 15), (i.toNat, 0)]) := rfl
@[simp] theorem encode_setsr (s : BitVec 5) (i : BitVec 10) : encode (.setsr s i) = some (wordOf 0x1C100000 [(s.toNat, 15), (i.toNat, 0)]) := rfl
@[simp] theorem encode_waitc (l : BitVec 5) (s : BitVec 5) (y : BitVec 5) (m : BitVec 5) (a : BitVec 5) : encode (.waitc l s y m a) = some (wordOf 0x1E000000 [(l.toNat, 20), (s.toNat, 15), (y.toNat, 10), (m.toNat, 5), (a.toNat, 0)]) := rfl
@[simp] theorem encode_vadd (d : BitVec 6) (a : BitVec 6) (b : BitVec 6) : encode (.vadd d a b) = some (wordOf 0x20000000 [(d.toNat, 12), (a.toNat, 6), (b.toNat, 0)]) := rfl
@[simp] theorem encode_vsub (d : BitVec 6) (a : BitVec 6) (b : BitVec 6) : encode (.vsub d a b) = some (wordOf 0x20100000 [(d.toNat, 12), (a.toNat, 6), (b.toNat, 0)]) := rfl
@[simp] theorem encode_vmul (d : BitVec 6) (a : BitVec 6) (b : BitVec 6) : encode (.vmul d a b) = some (wordOf 0x20200000 [(d.toNat, 12), (a.toNat, 6), (b.toNat, 0)]) := rfl
@[simp] theorem encode_vmulhiI32 (d : BitVec 6) (a : BitVec 6) (b : BitVec 6) : encode (.vmulhiI32 d a b) = some (wordOf 0x20300000 [(d.toNat, 12), (a.toNat, 6), (b.toNat, 0)]) := rfl
@[simp] theorem encode_vmulhiN32 (d : BitVec 6) (a : BitVec 6) (b : BitVec 6) : encode (.vmulhiN32 d a b) = some (wordOf 0x20400000 [(d.toNat, 12), (a.toNat, 6), (b.toNat, 0)]) := rfl
@[simp] theorem encode_vminI32 (d : BitVec 6) (a : BitVec 6) (b : BitVec 6) : encode (.vminI32 d a b) = some (wordOf 0x20500000 [(d.toNat, 12), (a.toNat, 6), (b.toNat, 0)]) := rfl
@[simp] theorem encode_vmaxI32 (d : BitVec 6) (a : BitVec 6) (b : BitVec 6) : encode (.vmaxI32 d a b) = some (wordOf 0x20600000 [(d.toNat, 12), (a.toNat, 6), (b.toNat, 0)]) := rfl
@[simp] theorem encode_vminN32 (d : BitVec 6) (a : BitVec 6) (b : BitVec 6) : encode (.vminN32 d a b) = some (wordOf 0x20700000 [(d.toNat, 12), (a.toNat, 6), (b.toNat, 0)]) := rfl
@[simp] theorem encode_vmaxN32 (d : BitVec 6) (a : BitVec 6) (b : BitVec 6) : encode (.vmaxN32 d a b) = some (wordOf 0x20800000 [(d.toNat, 12), (a.toNat, 6), (b.toNat, 0)]) := rfl
@[simp] theorem encode_vand (d : BitVec 6) (a : BitVec 6) (b : BitVec 6) : encode (.vand d a b) = some (wordOf 0x20900000 [(d.toNat, 12), (a.toNat, 6), (b.toNat, 0)]) := rfl
@[simp] theorem encode_vor (d : BitVec 6) (a : BitVec 6) (b : BitVec 6) : encode (.vor d a b) = some (wordOf 0x20A00000 [(d.toNat, 12), (a.toNat, 6), (b.toNat, 0)]) := rfl
@[simp] theorem encode_vxor (d : BitVec 6) (a : BitVec 6) (b : BitVec 6) : encode (.vxor d a b) = some (wordOf 0x20B00000 [(d.toNat, 12), (a.toNat, 6), (b.toNat, 0)]) := rfl
@[simp] theorem encode_vandn (d : BitVec 6) (a : BitVec 6) (b : BitVec 6) : encode (.vandn d a b) = some (wordOf 0x20C00000 [(d.toNat, 12), (a.toNat, 6), (b.toNat, 0)]) := rfl
@[simp] theorem encode_vshl (d : BitVec 6) (a : BitVec 6) (b : BitVec 6) : encode (.vshl d a b) = some (wordOf 0x20D00000 [(d.toNat, 12), (a.toNat, 6), (b.toNat, 0)]) := rfl
@[simp] theorem encode_vshrN32 (d : BitVec 6) (a : BitVec 6) (b : BitVec 6) : encode (.vshrN32 d a b) = some (wordOf 0x20E00000 [(d.toNat, 12), (a.toNat, 6), (b.toNat, 0)]) := rfl
@[simp] theorem encode_vshrI32 (d : BitVec 6) (a : BitVec 6) (b : BitVec 6) : encode (.vshrI32 d a b) = some (wordOf 0x20F00000 [(d.toNat, 12), (a.toNat, 6), (b.toNat, 0)]) := rfl
@[simp] theorem encode_vrotl (d : BitVec 6) (a : BitVec 6) (b : BitVec 6) : encode (.vrotl d a b) = some (wordOf 0x21000000 [(d.toNat, 12), (a.toNat, 6), (b.toNat, 0)]) := rfl
@[simp] theorem encode_vpopc (d : BitVec 6) (a : BitVec 6) : encode (.vpopc d a) = some (wordOf 0x21100000 [(d.toNat, 12), (a.toNat, 6)]) := rfl
@[simp] theorem encode_vclz (d : BitVec 6) (a : BitVec 6) : encode (.vclz d a) = some (wordOf 0x21200000 [(d.toNat, 12), (a.toNat, 6)]) := rfl
@[simp] theorem encode_vbrev (d : BitVec 6) (a : BitVec 6) : encode (.vbrev d a) = some (wordOf 0x21300000 [(d.toNat, 12), (a.toNat, 6)]) := rfl
@[simp] theorem encode_vabsdI32 (d : BitVec 6) (a : BitVec 6) (b : BitVec 6) : encode (.vabsdI32 d a b) = some (wordOf 0x21400000 [(d.toNat, 12), (a.toNat, 6), (b.toNat, 0)]) := rfl
@[simp] theorem encode_vaddsI32 (d : BitVec 6) (a : BitVec 6) (b : BitVec 6) : encode (.vaddsI32 d a b) = some (wordOf 0x21500000 [(d.toNat, 12), (a.toNat, 6), (b.toNat, 0)]) := rfl
@[simp] theorem encode_vsubsI32 (d : BitVec 6) (a : BitVec 6) (b : BitVec 6) : encode (.vsubsI32 d a b) = some (wordOf 0x21600000 [(d.toNat, 12), (a.toNat, 6), (b.toNat, 0)]) := rfl
@[simp] theorem encode_vadd64 (d : BitVec 5) (a : BitVec 5) (b : BitVec 5) : encode (.vadd64 d a b) = some (wordOf 0x21740000 [(d.toNat, 13), (a.toNat, 7), (b.toNat, 1)]) := rfl
@[simp] theorem encode_vsub64 (d : BitVec 5) (a : BitVec 5) (b : BitVec 5) : encode (.vsub64 d a b) = some (wordOf 0x21840000 [(d.toNat, 13), (a.toNat, 7), (b.toNat, 1)]) := rfl
@[simp] theorem encode_vdot4I8 (d : BitVec 6) (a : BitVec 6) (b : BitVec 6) : encode (.vdot4I8 d a b) = some (wordOf 0x21900000 [(d.toNat, 12), (a.toNat, 6), (b.toNat, 0)]) := rfl
@[simp] theorem encode_vdot2I16 (d : BitVec 6) (a : BitVec 6) (b : BitVec 6) : encode (.vdot2I16 d a b) = some (wordOf 0x21A00000 [(d.toNat, 12), (a.toNat, 6), (b.toNat, 0)]) := rfl
@[simp] theorem encode_vinti (f : BitVec 5) (d : BitVec 6) (a : BitVec 6) (i : BitVec 8) : encode (.vinti f d a i) = some (wordOf 0x22000000 [(f.toNat, 20), (d.toNat, 14), (a.toNat, 8), (i.toNat, 0)]) := rfl
@[simp] theorem encode_vfaddF32 (d : BitVec 6) (a : BitVec 6) (b : BitVec 6) : encode (.vfaddF32 d a b) = some (wordOf 0x24000000 [(d.toNat, 12), (a.toNat, 6), (b.toNat, 0)]) := rfl
@[simp] theorem encode_vfsubF32 (d : BitVec 6) (a : BitVec 6) (b : BitVec 6) : encode (.vfsubF32 d a b) = some (wordOf 0x24100000 [(d.toNat, 12), (a.toNat, 6), (b.toNat, 0)]) := rfl
@[simp] theorem encode_vfmulF32 (d : BitVec 6) (a : BitVec 6) (b : BitVec 6) : encode (.vfmulF32 d a b) = some (wordOf 0x24200000 [(d.toNat, 12), (a.toNat, 6), (b.toNat, 0)]) := rfl
@[simp] theorem encode_vfminF32 (d : BitVec 6) (a : BitVec 6) (b : BitVec 6) : encode (.vfminF32 d a b) = some (wordOf 0x24300000 [(d.toNat, 12), (a.toNat, 6), (b.toNat, 0)]) := rfl
@[simp] theorem encode_vfmaxF32 (d : BitVec 6) (a : BitVec 6) (b : BitVec 6) : encode (.vfmaxF32 d a b) = some (wordOf 0x24400000 [(d.toNat, 12), (a.toNat, 6), (b.toNat, 0)]) := rfl
@[simp] theorem encode_vfabsF32 (d : BitVec 6) (a : BitVec 6) : encode (.vfabsF32 d a) = some (wordOf 0x24500000 [(d.toNat, 12), (a.toNat, 6)]) := rfl
@[simp] theorem encode_vfnegF32 (d : BitVec 6) (a : BitVec 6) : encode (.vfnegF32 d a) = some (wordOf 0x24600000 [(d.toNat, 12), (a.toNat, 6)]) := rfl
@[simp] theorem encode_vfcpsgnF32 (d : BitVec 6) (a : BitVec 6) (b : BitVec 6) : encode (.vfcpsgnF32 d a b) = some (wordOf 0x24700000 [(d.toNat, 12), (a.toNat, 6), (b.toNat, 0)]) := rfl
@[simp] theorem encode_vfaddF16x2 (d : BitVec 6) (a : BitVec 6) (b : BitVec 6) : encode (.vfaddF16x2 d a b) = some (wordOf 0x24800000 [(d.toNat, 12), (a.toNat, 6), (b.toNat, 0)]) := rfl
@[simp] theorem encode_vfsubF16x2 (d : BitVec 6) (a : BitVec 6) (b : BitVec 6) : encode (.vfsubF16x2 d a b) = some (wordOf 0x24900000 [(d.toNat, 12), (a.toNat, 6), (b.toNat, 0)]) := rfl
@[simp] theorem encode_vfmulF16x2 (d : BitVec 6) (a : BitVec 6) (b : BitVec 6) : encode (.vfmulF16x2 d a b) = some (wordOf 0x24A00000 [(d.toNat, 12), (a.toNat, 6), (b.toNat, 0)]) := rfl
@[simp] theorem encode_vfminF16x2 (d : BitVec 6) (a : BitVec 6) (b : BitVec 6) : encode (.vfminF16x2 d a b) = some (wordOf 0x24B00000 [(d.toNat, 12), (a.toNat, 6), (b.toNat, 0)]) := rfl
@[simp] theorem encode_vfmaxF16x2 (d : BitVec 6) (a : BitVec 6) (b : BitVec 6) : encode (.vfmaxF16x2 d a b) = some (wordOf 0x24C00000 [(d.toNat, 12), (a.toNat, 6), (b.toNat, 0)]) := rfl
@[simp] theorem encode_vfaddB16x2 (d : BitVec 6) (a : BitVec 6) (b : BitVec 6) : encode (.vfaddB16x2 d a b) = some (wordOf 0x24D00000 [(d.toNat, 12), (a.toNat, 6), (b.toNat, 0)]) := rfl
@[simp] theorem encode_vfsubB16x2 (d : BitVec 6) (a : BitVec 6) (b : BitVec 6) : encode (.vfsubB16x2 d a b) = some (wordOf 0x24E00000 [(d.toNat, 12), (a.toNat, 6), (b.toNat, 0)]) := rfl
@[simp] theorem encode_vfmulB16x2 (d : BitVec 6) (a : BitVec 6) (b : BitVec 6) : encode (.vfmulB16x2 d a b) = some (wordOf 0x24F00000 [(d.toNat, 12), (a.toNat, 6), (b.toNat, 0)]) := rfl
@[simp] theorem encode_vfminB16x2 (d : BitVec 6) (a : BitVec 6) (b : BitVec 6) : encode (.vfminB16x2 d a b) = some (wordOf 0x25000000 [(d.toNat, 12), (a.toNat, 6), (b.toNat, 0)]) := rfl
@[simp] theorem encode_vfmaxB16x2 (d : BitVec 6) (a : BitVec 6) (b : BitVec 6) : encode (.vfmaxB16x2 d a b) = some (wordOf 0x25100000 [(d.toNat, 12), (a.toNat, 6), (b.toNat, 0)]) := rfl
@[simp] theorem encode_vfaddF64 (d : BitVec 5) (a : BitVec 5) (b : BitVec 5) : encode (.vfaddF64 d a b) = some (wordOf 0x25240000 [(d.toNat, 13), (a.toNat, 7), (b.toNat, 1)]) := rfl
@[simp] theorem encode_vfsubF64 (d : BitVec 5) (a : BitVec 5) (b : BitVec 5) : encode (.vfsubF64 d a b) = some (wordOf 0x25340000 [(d.toNat, 13), (a.toNat, 7), (b.toNat, 1)]) := rfl
@[simp] theorem encode_vfmulF64 (d : BitVec 5) (a : BitVec 5) (b : BitVec 5) : encode (.vfmulF64 d a b) = some (wordOf 0x25440000 [(d.toNat, 13), (a.toNat, 7), (b.toNat, 1)]) := rfl
@[simp] theorem encode_vfminF64 (d : BitVec 5) (a : BitVec 5) (b : BitVec 5) : encode (.vfminF64 d a b) = some (wordOf 0x25540000 [(d.toNat, 13), (a.toNat, 7), (b.toNat, 1)]) := rfl
@[simp] theorem encode_vfmaxF64 (d : BitVec 5) (a : BitVec 5) (b : BitVec 5) : encode (.vfmaxF64 d a b) = some (wordOf 0x25640000 [(d.toNat, 13), (a.toNat, 7), (b.toNat, 1)]) := rfl
@[simp] theorem encode_vcmulB16 (d : BitVec 6) (a : BitVec 6) (b : BitVec 6) : encode (.vcmulB16 d a b) = some (wordOf 0x25700000 [(d.toNat, 12), (a.toNat, 6), (b.toNat, 0)]) := rfl
@[simp] theorem encode_vfmaF32 (d : BitVec 6) (a : BitVec 6) (b : BitVec 6) (e : BitVec 5) : encode (.vfmaF32 d a b e) = some (wordOf 0x26000000 [(d.toNat, 17), (a.toNat, 11), (b.toNat, 5), (e.toNat, 0)]) := rfl
@[simp] theorem encode_vfmaF16x2 (d : BitVec 6) (a : BitVec 6) (b : BitVec 6) (e : BitVec 5) : encode (.vfmaF16x2 d a b e) = some (wordOf 0x26800000 [(d.toNat, 17), (a.toNat, 11), (b.toNat, 5), (e.toNat, 0)]) := rfl
@[simp] theorem encode_vfmaB16x2 (d : BitVec 6) (a : BitVec 6) (b : BitVec 6) (e : BitVec 5) : encode (.vfmaB16x2 d a b e) = some (wordOf 0x27000000 [(d.toNat, 17), (a.toNat, 11), (b.toNat, 5), (e.toNat, 0)]) := rfl
@[simp] theorem encode_vfmaF64 (d : BitVec 5) (a : BitVec 5) (b : BitVec 5) (e : BitVec 4) : encode (.vfmaF64 d a b e) = some (wordOf 0x27800000 [(d.toNat, 18), (a.toNat, 12), (b.toNat, 6), (e.toNat, 1)]) := rfl
@[simp] theorem encode_vcmpI32 (k : BitVec 3) (p : BitVec 3) (a : BitVec 6) (b : BitVec 6) : encode (.vcmpI32 k p a b) = some (wordOf 0x28000000 [(k.toNat, 20), (p.toNat, 12), (a.toNat, 6), (b.toNat, 0)]) := rfl
@[simp] theorem encode_vcmpN32 (k : BitVec 3) (p : BitVec 3) (a : BitVec 6) (b : BitVec 6) : encode (.vcmpN32 k p a b) = some (wordOf 0x28800000 [(k.toNat, 20), (p.toNat, 12), (a.toNat, 6), (b.toNat, 0)]) := rfl
@[simp] theorem encode_vcmpF32 (k : BitVec 3) (p : BitVec 3) (a : BitVec 6) (b : BitVec 6) : encode (.vcmpF32 k p a b) = some (wordOf 0x29000000 [(k.toNat, 20), (p.toNat, 12), (a.toNat, 6), (b.toNat, 0)]) := rfl
@[simp] theorem encode_vcmpF16x2 (k : BitVec 3) (p : BitVec 3) (a : BitVec 6) (b : BitVec 6) : encode (.vcmpF16x2 k p a b) = some (wordOf 0x29800000 [(k.toNat, 20), (p.toNat, 12), (a.toNat, 6), (b.toNat, 0)]) := rfl
@[simp] theorem encode_vcvtF32I32 (d : BitVec 6) (a : BitVec 6) : encode (.vcvtF32I32 d a) = some (wordOf 0x2A000000 [(d.toNat, 12), (a.toNat, 6)]) := rfl
@[simp] theorem encode_vcvtF32N32 (d : BitVec 6) (a : BitVec 6) : encode (.vcvtF32N32 d a) = some (wordOf 0x2A100000 [(d.toNat, 12), (a.toNat, 6)]) := rfl
@[simp] theorem encode_vcvtI32F32 (d : BitVec 6) (a : BitVec 6) : encode (.vcvtI32F32 d a) = some (wordOf 0x2A200000 [(d.toNat, 12), (a.toNat, 6)]) := rfl
@[simp] theorem encode_vcvtI32F32Rz (d : BitVec 6) (a : BitVec 6) : encode (.vcvtI32F32Rz d a) = some (wordOf 0x2A300000 [(d.toNat, 12), (a.toNat, 6)]) := rfl
@[simp] theorem encode_vcvtN32F32 (d : BitVec 6) (a : BitVec 6) : encode (.vcvtN32F32 d a) = some (wordOf 0x2A400000 [(d.toNat, 12), (a.toNat, 6)]) := rfl
@[simp] theorem encode_vcvtF16x2F32 (d : BitVec 6) (a : BitVec 5) : encode (.vcvtF16x2F32 d a) = some (wordOf 0x2A540000 [(d.toNat, 12), (a.toNat, 7)]) := rfl
@[simp] theorem encode_vcvtB16x2F32 (d : BitVec 6) (a : BitVec 5) : encode (.vcvtB16x2F32 d a) = some (wordOf 0x2A640000 [(d.toNat, 12), (a.toNat, 7)]) := rfl
@[simp] theorem encode_vcvtF32F16 (d : BitVec 6) (a : BitVec 6) : encode (.vcvtF32F16 d a) = some (wordOf 0x2A700000 [(d.toNat, 12), (a.toNat, 6)]) := rfl
@[simp] theorem encode_vcvtF32F16h (d : BitVec 6) (a : BitVec 6) : encode (.vcvtF32F16h d a) = some (wordOf 0x2A800000 [(d.toNat, 12), (a.toNat, 6)]) := rfl
@[simp] theorem encode_vcvtF32B16 (d : BitVec 6) (a : BitVec 6) : encode (.vcvtF32B16 d a) = some (wordOf 0x2A900000 [(d.toNat, 12), (a.toNat, 6)]) := rfl
@[simp] theorem encode_vcvtF32B16h (d : BitVec 6) (a : BitVec 6) : encode (.vcvtF32B16h d a) = some (wordOf 0x2AA00000 [(d.toNat, 12), (a.toNat, 6)]) := rfl
@[simp] theorem encode_vcvtF64F32 (d : BitVec 5) (a : BitVec 6) : encode (.vcvtF64F32 d a) = some (wordOf 0x2AB40000 [(d.toNat, 13), (a.toNat, 6)]) := rfl
@[simp] theorem encode_vcvtF32F64 (d : BitVec 6) (a : BitVec 5) : encode (.vcvtF32F64 d a) = some (wordOf 0x2AC40000 [(d.toNat, 12), (a.toNat, 7)]) := rfl
@[simp] theorem encode_vcvtE4x4F32 (d : BitVec 6) (a : BitVec 4) : encode (.vcvtE4x4F32 d a) = some (wordOf 0x2AD80000 [(d.toNat, 12), (a.toNat, 8)]) := rfl
@[simp] theorem encode_vcvtE5x4F32 (d : BitVec 6) (a : BitVec 4) : encode (.vcvtE5x4F32 d a) = some (wordOf 0x2AE80000 [(d.toNat, 12), (a.toNat, 8)]) := rfl
@[simp] theorem encode_vcvtE2x8F32 (d : BitVec 6) (a : BitVec 3) : encode (.vcvtE2x8F32 d a) = some (wordOf 0x2AFC0000 [(d.toNat, 12), (a.toNat, 9)]) := rfl
@[simp] theorem encode_vcvtL6F32 (d : BitVec 6) (a : BitVec 6) : encode (.vcvtL6F32 d a) = some (wordOf 0x2B000000 [(d.toNat, 12), (a.toNat, 6)]) := rfl
@[simp] theorem encode_vcvtF32L6 (d : BitVec 6) (a : BitVec 6) : encode (.vcvtF32L6 d a) = some (wordOf 0x2B100000 [(d.toNat, 12), (a.toNat, 6)]) := rfl
@[simp] theorem encode_vcvtF32E4 (d : BitVec 6) (a : BitVec 6) : encode (.vcvtF32E4 d a) = some (wordOf 0x2B200000 [(d.toNat, 12), (a.toNat, 6)]) := rfl
@[simp] theorem encode_vcvtF32E5 (d : BitVec 6) (a : BitVec 6) : encode (.vcvtF32E5 d a) = some (wordOf 0x2B300000 [(d.toNat, 12), (a.toNat, 6)]) := rfl
@[simp] theorem encode_vcvtF32E2 (d : BitVec 6) (a : BitVec 6) : encode (.vcvtF32E2 d a) = some (wordOf 0x2B400000 [(d.toNat, 12), (a.toNat, 6)]) := rfl
@[simp] theorem encode_vrcp (d : BitVec 6) (a : BitVec 6) : encode (.vrcp d a) = some (wordOf 0x2C000000 [(d.toNat, 12), (a.toNat, 6)]) := rfl
@[simp] theorem encode_vrsq (d : BitVec 6) (a : BitVec 6) : encode (.vrsq d a) = some (wordOf 0x2C100000 [(d.toNat, 12), (a.toNat, 6)]) := rfl
@[simp] theorem encode_vsqrt (d : BitVec 6) (a : BitVec 6) : encode (.vsqrt d a) = some (wordOf 0x2C200000 [(d.toNat, 12), (a.toNat, 6)]) := rfl
@[simp] theorem encode_vexp2 (d : BitVec 6) (a : BitVec 6) : encode (.vexp2 d a) = some (wordOf 0x2C300000 [(d.toNat, 12), (a.toNat, 6)]) := rfl
@[simp] theorem encode_vlog2 (d : BitVec 6) (a : BitVec 6) : encode (.vlog2 d a) = some (wordOf 0x2C400000 [(d.toNat, 12), (a.toNat, 6)]) := rfl
@[simp] theorem encode_vsint (d : BitVec 6) (a : BitVec 6) : encode (.vsint d a) = some (wordOf 0x2C500000 [(d.toNat, 12), (a.toNat, 6)]) := rfl
@[simp] theorem encode_vcost (d : BitVec 6) (a : BitVec 6) : encode (.vcost d a) = some (wordOf 0x2C600000 [(d.toNat, 12), (a.toNat, 6)]) := rfl
@[simp] theorem encode_vtanh (d : BitVec 6) (a : BitVec 6) : encode (.vtanh d a) = some (wordOf 0x2C700000 [(d.toNat, 12), (a.toNat, 6)]) := rfl
@[simp] theorem encode_vtab (t : BitVec 3) (d : BitVec 6) (a : BitVec 6) : encode (.vtab t d a) = some (wordOf 0x36000000 [(t.toNat, 20), (d.toNat, 12), (a.toNat, 6)]) := rfl
@[simp] theorem encode_vmov (w : BitVec 2) (d : BitVec 6) (a : BitVec 6) : encode (.vmov w d a) = some (wordOf 0x2E000000 [(w.toNat, 18), (d.toNat, 12), (a.toNat, 6)]) := rfl
@[simp] theorem encode_vmovs (d : BitVec 6) (a : BitVec 5) : encode (.vmovs d a) = some (wordOf 0x2E100000 [(d.toNat, 12), (a.toNat, 6)]) := rfl
@[simp] theorem encode_vlaneid (d : BitVec 6) : encode (.vlaneid d) = some (wordOf 0x2E200000 [(d.toNat, 12)]) := rfl
@[simp] theorem encode_vreadl (d : BitVec 5) (a : BitVec 6) (l : BitVec 5) : encode (.vreadl d a l) = some (wordOf 0x2E300000 [(d.toNat, 12), (a.toNat, 6), (l.toNat, 0)]) := rfl
@[simp] theorem encode_vwritel (d : BitVec 6) (a : BitVec 5) (l : BitVec 5) : encode (.vwritel d a l) = some (wordOf 0x2E400000 [(d.toNat, 12), (a.toNat, 6), (l.toNat, 0)]) := rfl
@[simp] theorem encode_vfirst (d : BitVec 6) (a : BitVec 6) : encode (.vfirst d a) = some (wordOf 0x2E500000 [(d.toNat, 12), (a.toNat, 6)]) := rfl
@[simp] theorem encode_vshflIdx (d : BitVec 6) (a : BitVec 6) (b : BitVec 6) : encode (.vshflIdx d a b) = some (wordOf 0x30000000 [(d.toNat, 12), (a.toNat, 6), (b.toNat, 0)]) := rfl
@[simp] theorem encode_vshflUp (d : BitVec 6) (a : BitVec 6) (n : BitVec 5) : encode (.vshflUp d a n) = some (wordOf 0x30100000 [(d.toNat, 14), (a.toNat, 8), (n.toNat, 0)]) := rfl
@[simp] theorem encode_vshflDown (d : BitVec 6) (a : BitVec 6) (n : BitVec 5) : encode (.vshflDown d a n) = some (wordOf 0x30200000 [(d.toNat, 14), (a.toNat, 8), (n.toNat, 0)]) := rfl
@[simp] theorem encode_vshflXor (d : BitVec 6) (a : BitVec 6) (n : BitVec 5) : encode (.vshflXor d a n) = some (wordOf 0x30300000 [(d.toNat, 14), (a.toNat, 8), (n.toNat, 0)]) := rfl
@[simp] theorem encode_vshflBcast (d : BitVec 6) (a : BitVec 6) (n : BitVec 5) : encode (.vshflBcast d a n) = some (wordOf 0x30400000 [(d.toNat, 14), (a.toNat, 8), (n.toNat, 0)]) := rfl
@[simp] theorem encode_raddI32 (d : BitVec 6) (a : BitVec 6) : encode (.raddI32 d a) = some (wordOf 0x32000000 [(d.toNat, 12), (a.toNat, 6)]) := rfl
@[simp] theorem encode_raddF32 (d : BitVec 6) (a : BitVec 6) : encode (.raddF32 d a) = some (wordOf 0x32100000 [(d.toNat, 12), (a.toNat, 6)]) := rfl
@[simp] theorem encode_rminI32 (d : BitVec 6) (a : BitVec 6) : encode (.rminI32 d a) = some (wordOf 0x32200000 [(d.toNat, 12), (a.toNat, 6)]) := rfl
@[simp] theorem encode_rmaxI32 (d : BitVec 6) (a : BitVec 6) : encode (.rmaxI32 d a) = some (wordOf 0x32300000 [(d.toNat, 12), (a.toNat, 6)]) := rfl
@[simp] theorem encode_rminN32 (d : BitVec 6) (a : BitVec 6) : encode (.rminN32 d a) = some (wordOf 0x32400000 [(d.toNat, 12), (a.toNat, 6)]) := rfl
@[simp] theorem encode_rmaxN32 (d : BitVec 6) (a : BitVec 6) : encode (.rmaxN32 d a) = some (wordOf 0x32500000 [(d.toNat, 12), (a.toNat, 6)]) := rfl
@[simp] theorem encode_rminF32 (d : BitVec 6) (a : BitVec 6) : encode (.rminF32 d a) = some (wordOf 0x32600000 [(d.toNat, 12), (a.toNat, 6)]) := rfl
@[simp] theorem encode_rmaxF32 (d : BitVec 6) (a : BitVec 6) : encode (.rmaxF32 d a) = some (wordOf 0x32700000 [(d.toNat, 12), (a.toNat, 6)]) := rfl
@[simp] theorem encode_rand (d : BitVec 6) (a : BitVec 6) : encode (.rand d a) = some (wordOf 0x32800000 [(d.toNat, 12), (a.toNat, 6)]) := rfl
@[simp] theorem encode_ror (d : BitVec 6) (a : BitVec 6) : encode (.ror d a) = some (wordOf 0x32900000 [(d.toNat, 12), (a.toNat, 6)]) := rfl
@[simp] theorem encode_rxor (d : BitVec 6) (a : BitVec 6) : encode (.rxor d a) = some (wordOf 0x32A00000 [(d.toNat, 12), (a.toNat, 6)]) := rfl
@[simp] theorem encode_scanaddI32 (d : BitVec 6) (a : BitVec 6) : encode (.scanaddI32 d a) = some (wordOf 0x33000000 [(d.toNat, 12), (a.toNat, 6)]) := rfl
@[simp] theorem encode_scanaddI32Ex (d : BitVec 6) (a : BitVec 6) : encode (.scanaddI32Ex d a) = some (wordOf 0x33100000 [(d.toNat, 12), (a.toNat, 6)]) := rfl
@[simp] theorem encode_scanaddF32 (d : BitVec 6) (a : BitVec 6) : encode (.scanaddF32 d a) = some (wordOf 0x33200000 [(d.toNat, 12), (a.toNat, 6)]) := rfl
@[simp] theorem encode_vvoteAny (d : BitVec 3) (a : BitVec 3) : encode (.vvoteAny d a) = some (wordOf 0x34000000 [(d.toNat, 12), (a.toNat, 6)]) := rfl
@[simp] theorem encode_vvoteAll (d : BitVec 3) (a : BitVec 3) : encode (.vvoteAll d a) = some (wordOf 0x34100000 [(d.toNat, 12), (a.toNat, 6)]) := rfl
@[simp] theorem encode_vvoteBallot (d : BitVec 5) (a : BitVec 3) : encode (.vvoteBallot d a) = some (wordOf 0x34200000 [(d.toNat, 12), (a.toNat, 6)]) := rfl
@[simp] theorem encode_vvoteCount (d : BitVec 6) (a : BitVec 3) : encode (.vvoteCount d a) = some (wordOf 0x34300000 [(d.toNat, 12), (a.toNat, 6)]) := rfl
@[simp] theorem encode_pand (d : BitVec 3) (a : BitVec 3) (b : BitVec 3) : encode (.pand d a b) = some (wordOf 0x38000000 [(d.toNat, 12), (a.toNat, 6), (b.toNat, 0)]) := rfl
@[simp] theorem encode_por (d : BitVec 3) (a : BitVec 3) (b : BitVec 3) : encode (.por d a b) = some (wordOf 0x38100000 [(d.toNat, 12), (a.toNat, 6), (b.toNat, 0)]) := rfl
@[simp] theorem encode_pxor (d : BitVec 3) (a : BitVec 3) (b : BitVec 3) : encode (.pxor d a b) = some (wordOf 0x38200000 [(d.toNat, 12), (a.toNat, 6), (b.toNat, 0)]) := rfl
@[simp] theorem encode_pandn (d : BitVec 3) (a : BitVec 3) (b : BitVec 3) : encode (.pandn d a b) = some (wordOf 0x38300000 [(d.toNat, 12), (a.toNat, 6), (b.toNat, 0)]) := rfl
@[simp] theorem encode_pnot (d : BitVec 3) (a : BitVec 3) : encode (.pnot d a) = some (wordOf 0x38400000 [(d.toNat, 12), (a.toNat, 6)]) := rfl
@[simp] theorem encode_pmov (d : BitVec 3) (a : BitVec 3) : encode (.pmov d a) = some (wordOf 0x38500000 [(d.toNat, 12), (a.toNat, 6)]) := rfl
@[simp] theorem encode_setexec (a : BitVec 3) : encode (.setexec a) = some (wordOf 0x38600000 [(a.toNat, 6)]) := rfl
@[simp] theorem encode_getexec (d : BitVec 3) : encode (.getexec d) = some (wordOf 0x38700000 [(d.toNat, 12)]) := rfl
@[simp] theorem encode_pfroms (d : BitVec 3) (a : BitVec 5) : encode (.pfroms d a) = some (wordOf 0x38800000 [(d.toNat, 12), (a.toNat, 6)]) := rfl
@[simp] theorem encode_ptos (d : BitVec 5) (a : BitVec 3) : encode (.ptos d a) = some (wordOf 0x38900000 [(d.toNat, 12), (a.toNat, 6)]) := rfl
@[simp] theorem encode_execand (a : BitVec 3) : encode (.execand a) = some (wordOf 0x38A00000 [(a.toNat, 6)]) := rfl
@[simp] theorem encode_ppopc (d : BitVec 3) (a : BitVec 3) : encode (.ppopc d a) = some (wordOf 0x38B00000 [(d.toNat, 12), (a.toNat, 6)]) := rfl
@[simp] theorem encode_vld (z : BitVec 3) (q : BitVec 1) (w : BitVec 2) (d : BitVec 6) (a : BitVec 6) (b : BitVec 4) (h : BitVec 2) : encode (.vld z q w d a b h) = some (wordOf 0x40000000 [(z.toNat, 22), (q.toNat, 21), (w.toNat, 19), (d.toNat, 13), (a.toNat, 7), (b.toNat, 3), (h.toNat, 0)]) := rfl
@[simp] theorem encode_vst (z : BitVec 3) (q : BitVec 1) (w : BitVec 2) (d : BitVec 6) (a : BitVec 6) (b : BitVec 4) (h : BitVec 2) : encode (.vst z q w d a b h) = some (wordOf 0x42000000 [(z.toNat, 22), (q.toNat, 21), (w.toNat, 19), (d.toNat, 13), (a.toNat, 7), (b.toNat, 3), (h.toNat, 0)]) := rfl
@[simp] theorem encode_vatomAddI32 (d : BitVec 6) (a : BitVec 6) (b : BitVec 4) (h : BitVec 2) : encode (.vatomAddI32 d a b h) = some (wordOf 0x44000000 [(d.toNat, 13), (a.toNat, 7), (b.toNat, 3), (h.toNat, 0)]) := rfl
@[simp] theorem encode_vatomAddF32 (d : BitVec 6) (a : BitVec 6) (b : BitVec 4) (h : BitVec 2) : encode (.vatomAddF32 d a b h) = some (wordOf 0x44200000 [(d.toNat, 13), (a.toNat, 7), (b.toNat, 3), (h.toNat, 0)]) := rfl
@[simp] theorem encode_vatomAddB16x2 (d : BitVec 6) (a : BitVec 6) (b : BitVec 4) (h : BitVec 2) : encode (.vatomAddB16x2 d a b h) = some (wordOf 0x44400000 [(d.toNat, 13), (a.toNat, 7), (b.toNat, 3), (h.toNat, 0)]) := rfl
@[simp] theorem encode_vatomMinI32 (d : BitVec 6) (a : BitVec 6) (b : BitVec 4) (h : BitVec 2) : encode (.vatomMinI32 d a b h) = some (wordOf 0x44600000 [(d.toNat, 13), (a.toNat, 7), (b.toNat, 3), (h.toNat, 0)]) := rfl
@[simp] theorem encode_vatomMaxI32 (d : BitVec 6) (a : BitVec 6) (b : BitVec 4) (h : BitVec 2) : encode (.vatomMaxI32 d a b h) = some (wordOf 0x44800000 [(d.toNat, 13), (a.toNat, 7), (b.toNat, 3), (h.toNat, 0)]) := rfl
@[simp] theorem encode_vatomMinN32 (d : BitVec 6) (a : BitVec 6) (b : BitVec 4) (h : BitVec 2) : encode (.vatomMinN32 d a b h) = some (wordOf 0x44A00000 [(d.toNat, 13), (a.toNat, 7), (b.toNat, 3), (h.toNat, 0)]) := rfl
@[simp] theorem encode_vatomMaxN32 (d : BitVec 6) (a : BitVec 6) (b : BitVec 4) (h : BitVec 2) : encode (.vatomMaxN32 d a b h) = some (wordOf 0x44C00000 [(d.toNat, 13), (a.toNat, 7), (b.toNat, 3), (h.toNat, 0)]) := rfl
@[simp] theorem encode_vatomAnd (d : BitVec 6) (a : BitVec 6) (b : BitVec 4) (h : BitVec 2) : encode (.vatomAnd d a b h) = some (wordOf 0x44E00000 [(d.toNat, 13), (a.toNat, 7), (b.toNat, 3), (h.toNat, 0)]) := rfl
@[simp] theorem encode_vatomOr (d : BitVec 6) (a : BitVec 6) (b : BitVec 4) (h : BitVec 2) : encode (.vatomOr d a b h) = some (wordOf 0x45000000 [(d.toNat, 13), (a.toNat, 7), (b.toNat, 3), (h.toNat, 0)]) := rfl
@[simp] theorem encode_vatomXor (d : BitVec 6) (a : BitVec 6) (b : BitVec 4) (h : BitVec 2) : encode (.vatomXor d a b h) = some (wordOf 0x45200000 [(d.toNat, 13), (a.toNat, 7), (b.toNat, 3), (h.toNat, 0)]) := rfl
@[simp] theorem encode_vatomXchg (d : BitVec 6) (a : BitVec 6) (b : BitVec 4) (h : BitVec 2) : encode (.vatomXchg d a b h) = some (wordOf 0x45400000 [(d.toNat, 13), (a.toNat, 7), (b.toNat, 3), (h.toNat, 0)]) := rfl
@[simp] theorem encode_vatomCas (d : BitVec 5) (a : BitVec 6) (b : BitVec 4) (h : BitVec 2) : encode (.vatomCas d a b h) = some (wordOf 0x45680000 [(d.toNat, 14), (a.toNat, 7), (b.toNat, 3), (h.toNat, 0)]) := rfl
@[simp] theorem encode_vatomIncw (d : BitVec 6) (a : BitVec 6) (b : BitVec 4) (h : BitVec 2) : encode (.vatomIncw d a b h) = some (wordOf 0x45800000 [(d.toNat, 13), (a.toNat, 7), (b.toNat, 3), (h.toNat, 0)]) := rfl
@[simp] theorem encode_vatomDecw (d : BitVec 6) (a : BitVec 6) (b : BitVec 4) (h : BitVec 2) : encode (.vatomDecw d a b h) = some (wordOf 0x45A00000 [(d.toNat, 13), (a.toNat, 7), (b.toNat, 3), (h.toNat, 0)]) := rfl
@[simp] theorem encode_vatomAddI64 (d : BitVec 5) (a : BitVec 6) (b : BitVec 4) (h : BitVec 2) : encode (.vatomAddI64 d a b h) = some (wordOf 0x45C80000 [(d.toNat, 14), (a.toNat, 7), (b.toNat, 3), (h.toNat, 0)]) := rfl
@[simp] theorem encode_mwait (f : BitVec 4) (d : BitVec 5) (a : BitVec 5) (b : BitVec 4) : encode (.mwait f d a b) = some (wordOf 0x46000000 [(f.toNat, 21), (d.toNat, 13), (a.toNat, 7), (b.toNat, 3)]) := rfl
@[simp] theorem encode_binit (a : BitVec 5) (b : BitVec 5) : encode (.binit a b) = some (wordOf 0x48000000 [(a.toNat, 15), (b.toNat, 10)]) := rfl
@[simp] theorem encode_barrive (a : BitVec 5) : encode (.barrive a) = some (wordOf 0x48100000 [(a.toNat, 15)]) := rfl
@[simp] theorem encode_barrivePeer (a : BitVec 5) : encode (.barrivePeer a) = some (wordOf 0x48100010 [(a.toNat, 15)]) := rfl
@[simp] theorem encode_bexpect (a : BitVec 5) (b : BitVec 5) : encode (.bexpect a b) = some (wordOf 0x48200000 [(a.toNat, 15), (b.toNat, 10)]) := rfl
@[simp] theorem encode_bwait (a : BitVec 5) (b : BitVec 5) : encode (.bwait a b) = some (wordOf 0x48300000 [(a.toNat, 15), (b.toNat, 10)]) := rfl
@[simp] theorem encode_btry (a : BitVec 5) (b : BitVec 5) (d : BitVec 5) : encode (.btry a b d) = some (wordOf 0x48400000 [(a.toNat, 15), (b.toNat, 10), (d.toNat, 5)]) := rfl
@[simp] theorem encode_binval (a : BitVec 5) : encode (.binval a) = some (wordOf 0x48500000 [(a.toNat, 15)]) := rfl
@[simp] theorem encode_cpy (a : BitVec 2) (h : BitVec 2) : encode (.cpy a h) = some (wordOf 0x4A000000 [(a.toNat, 18), (h.toNat, 0)]) := rfl
@[simp] theorem encode_cpymc (a : BitVec 2) (i : BitVec 8) (h : BitVec 2) : encode (.cpymc a i h) = some (wordOf 0x4A100000 [(a.toNat, 18), (i.toNat, 5), (h.toNat, 0)]) := rfl
@[simp] theorem encode_cpyb (a : BitVec 2) (h : BitVec 2) : encode (.cpyb a h) = some (wordOf 0x4A200000 [(a.toNat, 18), (h.toNat, 0)]) := rfl
@[simp] theorem encode_cpyout (a : BitVec 2) (h : BitVec 2) : encode (.cpyout a h) = some (wordOf 0x4A300000 [(a.toNat, 18), (h.toNat, 0)]) := rfl
@[simp] theorem encode_cpypar (a : BitVec 2) (l : BitVec 1) (h : BitVec 2) : encode (.cpypar a l h) = some (wordOf 0x4A400000 [(a.toNat, 18), (l.toNat, 4), (h.toNat, 0)]) := rfl
@[simp] theorem encode_cpygf (a : BitVec 2) (i : BitVec 8) (l : BitVec 1) (h : BitVec 2) : encode (.cpygf a i l h) = some (wordOf 0x4A500000 [(a.toNat, 18), (i.toNat, 5), (l.toNat, 4), (h.toNat, 0)]) := rfl
@[simp] theorem encode_cpypeer (a : BitVec 2) (h : BitVec 2) : encode (.cpypeer a h) = some (wordOf 0x4A600000 [(a.toNat, 18), (h.toNat, 0)]) := rfl
@[simp] theorem encode_chn (a : BitVec 4) : encode (.chn a) = some (wordOf 0x4C000000 [(a.toNat, 16)]) := rfl
@[simp] theorem encode_pref (a : BitVec 4) (b : BitVec 5) (h : BitVec 2) : encode (.pref a b h) = some (wordOf 0x4E000000 [(a.toNat, 16), (b.toNat, 10), (h.toNat, 0)]) := rfl
@[simp] theorem encode_wback (a : BitVec 5) (b : BitVec 5) : encode (.wback a b) = some (wordOf 0x4E100000 [(a.toNat, 15), (b.toNat, 10)]) := rfl
@[simp] theorem encode_discard (a : BitVec 5) (b : BitVec 5) : encode (.discard a b) = some (wordOf 0x4E200000 [(a.toNat, 15), (b.toNat, 10)]) := rfl
@[simp] theorem encode_bankcfg (a : BitVec 5) (m : BitVec 2) : encode (.bankcfg a m) = some (wordOf 0x4E300000 [(a.toNat, 15), (m.toNat, 0)]) := rfl
@[simp] theorem encode_bankq (a : BitVec 5) (d : BitVec 5) : encode (.bankq a d) = some (wordOf 0x4E400000 [(a.toNat, 15), (d.toNat, 5)]) := rfl
@[simp] theorem encode_deposit (d : BitVec 4) (a : BitVec 6) : encode (.deposit d a) = some (wordOf 0x50080000 [(d.toNat, 14), (a.toNat, 6)]) := rfl
@[simp] theorem encode_mma (f : BitVec 4) (k : BitVec 2) (t : BitVec 2) (a : BitVec 5) (b : BitVec 5) (z : BitVec 1) (x : BitVec 1) : encode (.mma f k t a b z x) = some (wordOf 0x60000000 [(f.toNat, 21), (k.toNat, 19), (t.toNat, 17), (a.toNat, 10), (b.toNat, 5), (z.toNat, 4), (x.toNat, 3)]) := rfl
@[simp] theorem encode_mscale (t : BitVec 2) (p : BitVec 2) (a : BitVec 5) (b : BitVec 5) : encode (.mscale t p a b) = some (wordOf 0x62000000 [(t.toNat, 17), (p.toNat, 15), (a.toNat, 10), (b.toNat, 5)]) := rfl
@[simp] theorem encode_tzero (t : BitVec 2) : encode (.tzero t) = some (wordOf 0x64000000 [(t.toNat, 17)]) := rfl
@[simp] theorem encode_tload (t : BitVec 2) (a : BitVec 5) (b : BitVec 5) (g : BitVec 1) (v : BitVec 2) : encode (.tload t a b g v) = some (wordOf 0x64200000 [(t.toNat, 17), (a.toNat, 10), (b.toNat, 5), (g.toNat, 4), (v.toNat, 0)]) := rfl
@[simp] theorem encode_tstore (t : BitVec 2) (a : BitVec 5) (b : BitVec 5) (g : BitVec 1) (v : BitVec 2) : encode (.tstore t a b g v) = some (wordOf 0x64400000 [(t.toNat, 17), (a.toNat, 10), (b.toNat, 5), (g.toNat, 4), (v.toNat, 0)]) := rfl
@[simp] theorem encode_taddst (t : BitVec 2) (a : BitVec 5) (b : BitVec 5) (g : BitVec 1) (v : BitVec 2) : encode (.taddst t a b g v) = some (wordOf 0x64600000 [(t.toNat, 17), (a.toNat, 10), (b.toNat, 5), (g.toNat, 4), (v.toNat, 0)]) := rfl
@[simp] theorem encode_tmove (t : BitVec 2) (p : BitVec 2) : encode (.tmove t p) = some (wordOf 0x64800000 [(t.toNat, 17), (p.toNat, 15)]) := rfl
@[simp] theorem encode_mquant (f : BitVec 2) (k : BitVec 2) (t : BitVec 2) (a : BitVec 5) (b : BitVec 5) (h : BitVec 2) : encode (.mquant f k t a b h) = some (wordOf 0x66000000 [(f.toNat, 21), (k.toNat, 19), (t.toNat, 17), (a.toNat, 10), (b.toNat, 5), (h.toNat, 3)]) := rfl
@[simp] theorem encode_mbatch (d : BitVec 5) : encode (.mbatch d) = some (wordOf 0x68200000 [(d.toNat, 5)]) := rfl
@[simp] theorem encode_mwaitb (a : BitVec 5) : encode (.mwaitb a) = some (wordOf 0x68400000 [(a.toNat, 5)]) := rfl
@[simp] theorem encode_sigchk (i : BitVec 20) : encode (.sigchk i) = some (wordOf 0x70000000 [(i.toNat, 0)]) := rfl
@[simp] theorem encode_sigset (i : BitVec 20) : encode (.sigset i) = some (wordOf 0x70100000 [(i.toNat, 0)]) := rfl
@[simp] theorem encode_seal (d : BitVec 6) (n : BitVec 6) (t : BitVec 3) : encode (.seal d n t) = some (wordOf 0x72000000 [(d.toNat, 12), (n.toNat, 6), (t.toNat, 0)]) := rfl
@[simp] theorem encode_sealNovec (t : BitVec 3) : encode (.sealNovec t) = some (wordOf 0x72000008 [(t.toNat, 0)]) := rfl
@[simp] theorem encode_tblload (a : BitVec 4) (t : BitVec 3) : encode (.tblload a t) = some (wordOf 0x74000000 [(a.toNat, 16), (t.toNat, 12)]) := rfl
@[simp] theorem encode_tblloadLog (a : BitVec 4) : encode (.tblloadLog a) = some (wordOf 0x74000800 [(a.toNat, 16)]) := rfl
@[simp] theorem encode_tblswap (l : BitVec 1) (m : BitVec 8) : encode (.tblswap l m) = some (wordOf 0x74100000 [(l.toNat, 8), (m.toNat, 0)]) := rfl
@[simp] theorem encode_grprdCnt (d : BitVec 5) (a : BitVec 5) : encode (.grprdCnt d a) = some (wordOf 0x74200000 [(d.toNat, 15), (a.toNat, 10)]) := rfl
@[simp] theorem encode_grprdMem (d : BitVec 5) (a : BitVec 5) (b : BitVec 5) : encode (.grprdMem d a b) = some (wordOf 0x74200001 [(d.toNat, 15), (a.toNat, 10), (b.toNat, 5)]) := rfl
@[simp] theorem encode_grprdSelf (d : BitVec 5) (a : BitVec 5) : encode (.grprdSelf d a) = some (wordOf 0x74200002 [(d.toNat, 15), (a.toNat, 10)]) := rfl
@[simp] theorem encode_nop : encode .nop = some (wordOf 0x00000000 []) := rfl
@[simp] theorem encode_exit : encode .exit = some (wordOf 0x00100000 []) := rfl
@[simp] theorem encode_ret : encode .ret = some (wordOf 0x00200000 []) := rfl
@[simp] theorem encode_bpt : encode .bpt = some (wordOf 0x00400000 []) := rfl
@[simp] theorem encode_yield : encode .yield = some (wordOf 0x00500000 []) := rfl
@[simp] theorem encode_rtt : encode .rtt = some (wordOf 0x00600000 []) := rfl
@[simp] theorem encode_join : encode .join = some (wordOf 0x00800000 []) := rfl
@[simp] theorem encode_bsync : encode .bsync = some (wordOf 0x00900000 []) := rfl
@[simp] theorem encode_lstop : encode .lstop = some (wordOf 0x1A300000 []) := rfl
@[simp] theorem encode_fence : encode .fence = some (wordOf 0x52000000 []) := rfl
@[simp] theorem encode_fenceRel : encode .fenceRel = some (wordOf 0x52100000 []) := rfl
@[simp] theorem encode_fenceAcq : encode .fenceAcq = some (wordOf 0x52200000 []) := rfl
@[simp] theorem encode_opfence : encode .opfence = some (wordOf 0x68000000 []) := rfl
@[simp] theorem encode_evExitComplete : encode .evExitComplete = none := rfl
@[simp] theorem encode_evWarpBoost : encode .evWarpBoost = none := rfl
@[simp] theorem encode_evLoadReturn : encode .evLoadReturn = none := rfl
@[simp] theorem encode_evStorePerformed : encode .evStorePerformed = none := rfl
@[simp] theorem encode_evAtomicReturn : encode .evAtomicReturn = none := rfl
@[simp] theorem encode_evAlmondEntry : encode .evAlmondEntry = none := rfl
@[simp] theorem encode_evCopyComplete : encode .evCopyComplete = none := rfl
@[simp] theorem encode_evChainStep : encode .evChainStep = none := rfl
@[simp] theorem encode_evMatrixEntry : encode .evMatrixEntry = none := rfl
@[simp] theorem encode_evAdmission : encode .evAdmission = none := rfl
@[simp] theorem encode_evSegmentModeChange : encode .evSegmentModeChange = none := rfl
@[simp] theorem encode_evArrivalLogAppend : encode .evArrivalLogAppend = none := rfl
@[simp] theorem encode_evMonitorPoll : encode .evMonitorPoll = none := rfl
@[simp] theorem encode_evBarrierPoll : encode .evBarrierPoll = none := rfl
@[simp] theorem encode_evSpanEnd : encode .evSpanEnd = none := rfl
@[simp] theorem encode_evForcedSpanEnd : encode .evForcedSpanEnd = none := rfl
@[simp] theorem encode_evSpanRecord : encode .evSpanRecord = none := rfl
@[simp] theorem encode_evRunEnd : encode .evRunEnd = none := rfl
@[simp] theorem encode_evCommit : encode .evCommit = none := rfl
@[simp] theorem encode_evHeldStore : encode .evHeldStore = none := rfl
@[simp] theorem encode_evClusterRead : encode .evClusterRead = none := rfl
@[simp] theorem encode_evTreqr : encode .evTreqr = none := rfl
@[simp] theorem encode_evTreqw : encode .evTreqw = none := rfl
@[simp] theorem encode_evTreqb : encode .evTreqb = none := rfl
@[simp] theorem encode_evTokd : encode .evTokd = none := rfl
@[simp] theorem encode_evTokn : encode .evTokn = none := rfl
@[simp] theorem encode_evDatab : encode .evDatab = none := rfl
@[simp] theorem encode_evPreq : encode .evPreq = none := rfl
@[simp] theorem encode_evPact : encode .evPact = none := rfl
@[simp] theorem encode_evPdone : encode .evPdone = none := rfl
@[simp] theorem encode_evPdeact : encode .evPdeact = none := rfl
@[simp] theorem encode_evPack : encode .evPack = none := rfl
@[simp] theorem encode_evWbd : encode .evWbd = none := rfl
@[simp] theorem encode_evWbn : encode .evWbn = none := rfl
@[simp] theorem encode_evTransientTimeout : encode .evTransientTimeout = none := rfl
@[simp] theorem encode_evBypassTimeout : encode .evBypassTimeout = none := rfl
@[simp] theorem encode_evPersistentDemandRepeat : encode .evPersistentDemandRepeat = none := rfl
@[simp] theorem encode_evPwatch : encode .evPwatch = none := rfl
@[simp] theorem encode_evHeadUrgent : encode .evHeadUrgent = none := rfl
@[simp] theorem encode_evRingRegister : encode .evRingRegister = none := rfl
@[simp] theorem encode_evRingUnregister : encode .evRingUnregister = none := rfl
@[simp] theorem encode_evDoorbell : encode .evDoorbell = none := rfl
@[simp] theorem encode_evRingFreeze : encode .evRingFreeze = none := rfl
@[simp] theorem encode_evRingRemap : encode .evRingRemap = none := rfl
@[simp] theorem encode_evEntryConsume : encode .evEntryConsume = none := rfl
@[simp] theorem encode_evNodeComplete : encode .evNodeComplete = none := rfl
@[simp] theorem encode_evNodeLaunch : encode .evNodeLaunch = none := rfl
@[simp] theorem encode_evRpfTranslate : encode .evRpfTranslate = none := rfl
@[simp] theorem encode_evNodeCopy : encode .evNodeCopy = none := rfl
@[simp] theorem encode_evNodeChain : encode .evNodeChain = none := rfl
@[simp] theorem encode_evNodeBundle : encode .evNodeBundle = none := rfl
@[simp] theorem encode_evNodeSignal : encode .evNodeSignal = none := rfl
@[simp] theorem encode_evNodeEvfence : encode .evNodeEvfence = none := rfl
@[simp] theorem encode_evNodeTimed : encode .evNodeTimed = none := rfl
@[simp] theorem encode_evNodeResync : encode .evNodeResync = none := rfl
@[simp] theorem encode_evTimedPreempt : encode .evTimedPreempt = none := rfl
@[simp] theorem encode_evTimedResume : encode .evTimedResume = none := rfl
@[simp] theorem encode_evTimedLaunch : encode .evTimedLaunch = none := rfl
@[simp] theorem encode_evStraggler : encode .evStraggler = none := rfl
@[simp] theorem encode_evGo : encode .evGo = none := rfl
@[simp] theorem encode_evDepositSort : encode .evDepositSort = none := rfl
@[simp] theorem encode_evGangOffer : encode .evGangOffer = none := rfl
@[simp] theorem encode_evPlace : encode .evPlace = none := rfl
@[simp] theorem encode_evPlaced : encode .evPlaced = none := rfl
@[simp] theorem encode_evRefused : encode .evRefused = none := rfl
@[simp] theorem encode_evRetired : encode .evRetired = none := rfl
@[simp] theorem encode_evSave : encode .evSave = none := rfl
@[simp] theorem encode_evGangSave : encode .evGangSave = none := rfl
@[simp] theorem encode_evSaved : encode .evSaved = none := rfl
@[simp] theorem encode_evRestore : encode .evRestore = none := rfl
@[simp] theorem encode_evFault : encode .evFault = none := rfl
@[simp] theorem encode_evPret : encode .evPret = none := rfl
@[simp] theorem encode_evContextCreate : encode .evContextCreate = none := rfl
@[simp] theorem encode_evContextRelease : encode .evContextRelease = none := rfl
@[simp] theorem encode_evTeardown : encode .evTeardown = none := rfl
@[simp] theorem encode_evDriverPreempt : encode .evDriverPreempt = none := rfl
@[simp] theorem encode_evDriverResume : encode .evDriverResume = none := rfl
@[simp] theorem encode_evGot : encode .evGot = none := rfl
@[simp] theorem encode_evPrdone : encode .evPrdone = none := rfl
@[simp] theorem encode_evPrfail : encode .evPrfail = none := rfl
@[simp] theorem encode_evInvalidate : encode .evInvalidate = none := rfl
@[simp] theorem encode_evInvalidationDone : encode .evInvalidationDone = none := rfl
@[simp] theorem encode_evUnfence : encode .evUnfence = none := rfl
@[simp] theorem encode_evQclear : encode .evQclear = none := rfl
@[simp] theorem encode_evPeerSetUp : encode .evPeerSetUp = none := rfl
@[simp] theorem encode_evRegisterWrite : encode .evRegisterWrite = none := rfl
@[simp] theorem encode_evWarmReset : encode .evWarmReset = none := rfl
@[simp] theorem encode_evColdReset : encode .evColdReset = none := rfl
@[simp] theorem encode_evHreq : encode .evHreq = none := rfl
@[simp] theorem encode_evHealthPeriodic : encode .evHealthPeriodic = none := rfl
@[simp] theorem encode_evHealthRecord : encode .evHealthRecord = none := rfl
@[simp] theorem encode_evLdrgo : encode .evLdrgo = none := rfl
@[simp] theorem encode_evFirmwareVerified : encode .evFirmwareVerified = none := rfl
@[simp] theorem encode_evHeartbeatMissed : encode .evHeartbeatMissed = none := rfl
@[simp] theorem encode_evInboundWrite : encode .evInboundWrite = none := rfl
@[simp] theorem encode_evInboundRead : encode .evInboundRead = none := rfl
@[simp] theorem encode_evLinkRetrain : encode .evLinkRetrain = none := rfl
@[simp] theorem encode_evTransportRead : encode .evTransportRead = none := rfl
@[simp] theorem encode_evTransportWrite : encode .evTransportWrite = none := rfl
@[simp] theorem encode_evTransportAtomic : encode .evTransportAtomic = none := rfl
@[simp] theorem encode_evCpypeerData : encode .evCpypeerData = none := rfl
@[simp] theorem encode_evTransportCompletion : encode .evTransportCompletion = none := rfl
@[simp] theorem encode_evPeerDown : encode .evPeerDown = none := rfl
@[simp] theorem encode_evFlitRetransmit : encode .evFlitRetransmit = none := rfl
@[simp] theorem encode_evParityDiscard : encode .evParityDiscard = none := rfl
@[simp] theorem encode_evGroupReplay : encode .evGroupReplay = none := rfl
@[simp] theorem encode_evUncorrectable : encode .evUncorrectable = none := rfl
@[simp] theorem encode_evScrubStep : encode .evScrubStep = none := rfl
@[simp] theorem encode_evQuarantineClean : encode .evQuarantineClean = none := rfl
@[simp] theorem encode_evDemeritDecay : encode .evDemeritDecay = none := rfl
@[simp] theorem encode_evPtpMessage : encode .evPtpMessage = none := rfl
@[simp] theorem encode_evSyncTimeout : encode .evSyncTimeout = none := rfl
@[simp] theorem encode_evHoldoverTimeout : encode .evHoldoverTimeout = none := rfl
@[simp] theorem encode_evClockStep : encode .evClockStep = none := rfl
@[simp] theorem encode_evPowerTrip : encode .evPowerTrip = none := rfl
@[simp] theorem encode_evJunction95 : encode .evJunction95 = none := rfl
@[simp] theorem encode_evJunction105 : encode .evJunction105 = none := rfl
@[simp] theorem encode_evFlowLow : encode .evFlowLow = none := rfl
@[simp] theorem encode_evAdaptiveUndervolting : encode .evAdaptiveUndervolting = none := rfl
@[simp] theorem encode_evPmcWrap : encode .evPmcWrap = none := rfl
@[simp] theorem wf_trap (x0 : BitVec 16) : Instr.wf (.trap x0) = true := rfl
@[simp] theorem wf_pushr (x0 : BitVec 17) : Instr.wf (.pushr x0) = true := rfl
@[simp] theorem wf_gsync (x0 : BitVec 8) : Instr.wf (.gsync x0) = true := rfl
@[simp] theorem wf_bra (x0 : BitVec 17) : Instr.wf (.bra x0) = true := rfl
@[simp] theorem wf_bz (x0 : BitVec 5) (x1 : BitVec 17) : Instr.wf (.bz x0 x1) = true := rfl
@[simp] theorem wf_bnz (x0 : BitVec 5) (x1 : BitVec 17) : Instr.wf (.bnz x0 x1) = true := rfl
@[simp] theorem wf_bany (x0 : BitVec 3) (x1 : BitVec 17) : Instr.wf (.bany x0 x1) = true := rfl
@[simp] theorem wf_ball (x0 : BitVec 3) (x1 : BitVec 17) : Instr.wf (.ball x0 x1) = true := rfl
@[simp] theorem wf_bnone (x0 : BitVec 3) (x1 : BitVec 17) : Instr.wf (.bnone x0 x1) = true := rfl
@[simp] theorem wf_bdiv (x0 : BitVec 3) (x1 : BitVec 17) : Instr.wf (.bdiv x0 x1) = true := rfl
@[simp] theorem wf_call (x0 : BitVec 25) : Instr.wf (.call x0) = true := rfl
@[simp] theorem wf_sadd (x0 : BitVec 5) (x1 : BitVec 5) (x2 : BitVec 5) : Instr.wf (.sadd x0 x1 x2) = true := rfl
@[simp] theorem wf_ssub (x0 : BitVec 5) (x1 : BitVec 5) (x2 : BitVec 5) : Instr.wf (.ssub x0 x1 x2) = true := rfl
@[simp] theorem wf_smul (x0 : BitVec 5) (x1 : BitVec 5) (x2 : BitVec 5) : Instr.wf (.smul x0 x1 x2) = true := rfl
@[simp] theorem wf_smulhiI32 (x0 : BitVec 5) (x1 : BitVec 5) (x2 : BitVec 5) : Instr.wf (.smulhiI32 x0 x1 x2) = true := rfl
@[simp] theorem wf_smulhiN32 (x0 : BitVec 5) (x1 : BitVec 5) (x2 : BitVec 5) : Instr.wf (.smulhiN32 x0 x1 x2) = true := rfl
@[simp] theorem wf_sand (x0 : BitVec 5) (x1 : BitVec 5) (x2 : BitVec 5) : Instr.wf (.sand x0 x1 x2) = true := rfl
@[simp] theorem wf_sor (x0 : BitVec 5) (x1 : BitVec 5) (x2 : BitVec 5) : Instr.wf (.sor x0 x1 x2) = true := rfl
@[simp] theorem wf_sxor (x0 : BitVec 5) (x1 : BitVec 5) (x2 : BitVec 5) : Instr.wf (.sxor x0 x1 x2) = true := rfl
@[simp] theorem wf_sshl (x0 : BitVec 5) (x1 : BitVec 5) (x2 : BitVec 5) : Instr.wf (.sshl x0 x1 x2) = true := rfl
@[simp] theorem wf_sshrN32 (x0 : BitVec 5) (x1 : BitVec 5) (x2 : BitVec 5) : Instr.wf (.sshrN32 x0 x1 x2) = true := rfl
@[simp] theorem wf_sshrI32 (x0 : BitVec 5) (x1 : BitVec 5) (x2 : BitVec 5) : Instr.wf (.sshrI32 x0 x1 x2) = true := rfl
@[simp] theorem wf_sminI32 (x0 : BitVec 5) (x1 : BitVec 5) (x2 : BitVec 5) : Instr.wf (.sminI32 x0 x1 x2) = true := rfl
@[simp] theorem wf_smaxI32 (x0 : BitVec 5) (x1 : BitVec 5) (x2 : BitVec 5) : Instr.wf (.smaxI32 x0 x1 x2) = true := rfl
@[simp] theorem wf_sminN32 (x0 : BitVec 5) (x1 : BitVec 5) (x2 : BitVec 5) : Instr.wf (.sminN32 x0 x1 x2) = true := rfl
@[simp] theorem wf_smaxN32 (x0 : BitVec 5) (x1 : BitVec 5) (x2 : BitVec 5) : Instr.wf (.smaxN32 x0 x1 x2) = true := rfl
@[simp] theorem wf_sclz (x0 : BitVec 5) (x1 : BitVec 5) : Instr.wf (.sclz x0 x1) = true := rfl
@[simp] theorem wf_spopc (x0 : BitVec 5) (x1 : BitVec 5) : Instr.wf (.spopc x0 x1) = true := rfl
@[simp] theorem wf_smov (x0 : BitVec 5) (x1 : BitVec 5) : Instr.wf (.smov x0 x1) = true := rfl
@[simp] theorem wf_ssltI32 (x0 : BitVec 5) (x1 : BitVec 5) (x2 : BitVec 5) : Instr.wf (.ssltI32 x0 x1 x2) = true := rfl
@[simp] theorem wf_ssltN32 (x0 : BitVec 5) (x1 : BitVec 5) (x2 : BitVec 5) : Instr.wf (.ssltN32 x0 x1 x2) = true := rfl
@[simp] theorem wf_sseq (x0 : BitVec 5) (x1 : BitVec 5) (x2 : BitVec 5) : Instr.wf (.sseq x0 x1 x2) = true := rfl
@[simp] theorem wf_sadd64 (x0 : BitVec 4) (x1 : BitVec 4) (x2 : BitVec 4) : Instr.wf (.sadd64 x0 x1 x2) = true := rfl
@[simp] theorem wf_ssub64 (x0 : BitVec 4) (x1 : BitVec 4) (x2 : BitVec 4) : Instr.wf (.ssub64 x0 x1 x2) = true := rfl
@[simp] theorem wf_saddi (x0 : BitVec 5) (x1 : BitVec 5) (x2 : BitVec 15) : Instr.wf (.saddi x0 x1 x2) = true := rfl
@[simp] theorem wf_sandi (x0 : BitVec 5) (x1 : BitVec 5) (x2 : BitVec 15) : Instr.wf (.sandi x0 x1 x2) = true := rfl
@[simp] theorem wf_sori (x0 : BitVec 5) (x1 : BitVec 5) (x2 : BitVec 15) : Instr.wf (.sori x0 x1 x2) = true := rfl
@[simp] theorem wf_sxori (x0 : BitVec 5) (x1 : BitVec 5) (x2 : BitVec 15) : Instr.wf (.sxori x0 x1 x2) = true := rfl
@[simp] theorem wf_sshiShl (x0 : BitVec 5) (x1 : BitVec 5) (x2 : BitVec 5) : Instr.wf (.sshiShl x0 x1 x2) = true := rfl
@[simp] theorem wf_sshiShrN32 (x0 : BitVec 5) (x1 : BitVec 5) (x2 : BitVec 5) : Instr.wf (.sshiShrN32 x0 x1 x2) = true := rfl
@[simp] theorem wf_sshiShrI32 (x0 : BitVec 5) (x1 : BitVec 5) (x2 : BitVec 5) : Instr.wf (.sshiShrI32 x0 x1 x2) = true := rfl
@[simp] theorem wf_sshiRotl (x0 : BitVec 5) (x1 : BitVec 5) (x2 : BitVec 5) : Instr.wf (.sshiRotl x0 x1 x2) = true := rfl
@[simp] theorem wf_slui (x0 : BitVec 5) (x1 : BitVec 20) : Instr.wf (.slui x0 x1) = true := rfl
@[simp] theorem wf_scmpi (x0 : BitVec 5) (x1 : BitVec 5) (x2 : BitVec 3) (x3 : BitVec 12) : Instr.wf (.scmpi x0 x1 x2 x3) = true := rfl
@[simp] theorem wf_sld (x0 : BitVec 5) (x1 : BitVec 4) (x2 : BitVec 15) : Instr.wf (.sld x0 x1 x2) = true := rfl
@[simp] theorem wf_sst (x0 : BitVec 5) (x1 : BitVec 4) (x2 : BitVec 15) : Instr.wf (.sst x0 x1 x2) = true := rfl
@[simp] theorem wf_lstart (x0 : BitVec 4) : Instr.wf (.lstart x0) = true := rfl
@[simp] theorem wf_nextit (x0 : BitVec 3) : Instr.wf (.nextit x0) = true := rfl
@[simp] theorem wf_brit (x0 : BitVec 17) : Instr.wf (.brit x0) = true := rfl
@[simp] theorem wf_getsr (x0 : BitVec 5) (i : BitVec 10) : Instr.wf (.getsr x0 i) = (sregListed i.toNat) := rfl
@[simp] theorem wf_setsr (x0 : BitVec 5) (i : BitVec 10) : Instr.wf (.setsr x0 i) = (sregWritable i.toNat) := rfl
@[simp] theorem wf_waitc (x0 : BitVec 5) (x1 : BitVec 5) (x2 : BitVec 5) (x3 : BitVec 5) (x4 : BitVec 5) : Instr.wf (.waitc x0 x1 x2 x3 x4) = true := rfl
@[simp] theorem wf_vadd (x0 : BitVec 6) (x1 : BitVec 6) (x2 : BitVec 6) : Instr.wf (.vadd x0 x1 x2) = true := rfl
@[simp] theorem wf_vsub (x0 : BitVec 6) (x1 : BitVec 6) (x2 : BitVec 6) : Instr.wf (.vsub x0 x1 x2) = true := rfl
@[simp] theorem wf_vmul (x0 : BitVec 6) (x1 : BitVec 6) (x2 : BitVec 6) : Instr.wf (.vmul x0 x1 x2) = true := rfl
@[simp] theorem wf_vmulhiI32 (x0 : BitVec 6) (x1 : BitVec 6) (x2 : BitVec 6) : Instr.wf (.vmulhiI32 x0 x1 x2) = true := rfl
@[simp] theorem wf_vmulhiN32 (x0 : BitVec 6) (x1 : BitVec 6) (x2 : BitVec 6) : Instr.wf (.vmulhiN32 x0 x1 x2) = true := rfl
@[simp] theorem wf_vminI32 (x0 : BitVec 6) (x1 : BitVec 6) (x2 : BitVec 6) : Instr.wf (.vminI32 x0 x1 x2) = true := rfl
@[simp] theorem wf_vmaxI32 (x0 : BitVec 6) (x1 : BitVec 6) (x2 : BitVec 6) : Instr.wf (.vmaxI32 x0 x1 x2) = true := rfl
@[simp] theorem wf_vminN32 (x0 : BitVec 6) (x1 : BitVec 6) (x2 : BitVec 6) : Instr.wf (.vminN32 x0 x1 x2) = true := rfl
@[simp] theorem wf_vmaxN32 (x0 : BitVec 6) (x1 : BitVec 6) (x2 : BitVec 6) : Instr.wf (.vmaxN32 x0 x1 x2) = true := rfl
@[simp] theorem wf_vand (x0 : BitVec 6) (x1 : BitVec 6) (x2 : BitVec 6) : Instr.wf (.vand x0 x1 x2) = true := rfl
@[simp] theorem wf_vor (x0 : BitVec 6) (x1 : BitVec 6) (x2 : BitVec 6) : Instr.wf (.vor x0 x1 x2) = true := rfl
@[simp] theorem wf_vxor (x0 : BitVec 6) (x1 : BitVec 6) (x2 : BitVec 6) : Instr.wf (.vxor x0 x1 x2) = true := rfl
@[simp] theorem wf_vandn (x0 : BitVec 6) (x1 : BitVec 6) (x2 : BitVec 6) : Instr.wf (.vandn x0 x1 x2) = true := rfl
@[simp] theorem wf_vshl (x0 : BitVec 6) (x1 : BitVec 6) (x2 : BitVec 6) : Instr.wf (.vshl x0 x1 x2) = true := rfl
@[simp] theorem wf_vshrN32 (x0 : BitVec 6) (x1 : BitVec 6) (x2 : BitVec 6) : Instr.wf (.vshrN32 x0 x1 x2) = true := rfl
@[simp] theorem wf_vshrI32 (x0 : BitVec 6) (x1 : BitVec 6) (x2 : BitVec 6) : Instr.wf (.vshrI32 x0 x1 x2) = true := rfl
@[simp] theorem wf_vrotl (x0 : BitVec 6) (x1 : BitVec 6) (x2 : BitVec 6) : Instr.wf (.vrotl x0 x1 x2) = true := rfl
@[simp] theorem wf_vpopc (x0 : BitVec 6) (x1 : BitVec 6) : Instr.wf (.vpopc x0 x1) = true := rfl
@[simp] theorem wf_vclz (x0 : BitVec 6) (x1 : BitVec 6) : Instr.wf (.vclz x0 x1) = true := rfl
@[simp] theorem wf_vbrev (x0 : BitVec 6) (x1 : BitVec 6) : Instr.wf (.vbrev x0 x1) = true := rfl
@[simp] theorem wf_vabsdI32 (x0 : BitVec 6) (x1 : BitVec 6) (x2 : BitVec 6) : Instr.wf (.vabsdI32 x0 x1 x2) = true := rfl
@[simp] theorem wf_vaddsI32 (x0 : BitVec 6) (x1 : BitVec 6) (x2 : BitVec 6) : Instr.wf (.vaddsI32 x0 x1 x2) = true := rfl
@[simp] theorem wf_vsubsI32 (x0 : BitVec 6) (x1 : BitVec 6) (x2 : BitVec 6) : Instr.wf (.vsubsI32 x0 x1 x2) = true := rfl
@[simp] theorem wf_vadd64 (x0 : BitVec 5) (x1 : BitVec 5) (x2 : BitVec 5) : Instr.wf (.vadd64 x0 x1 x2) = true := rfl
@[simp] theorem wf_vsub64 (x0 : BitVec 5) (x1 : BitVec 5) (x2 : BitVec 5) : Instr.wf (.vsub64 x0 x1 x2) = true := rfl
@[simp] theorem wf_vdot4I8 (x0 : BitVec 6) (x1 : BitVec 6) (x2 : BitVec 6) : Instr.wf (.vdot4I8 x0 x1 x2) = true := rfl
@[simp] theorem wf_vdot2I16 (x0 : BitVec 6) (x1 : BitVec 6) (x2 : BitVec 6) : Instr.wf (.vdot2I16 x0 x1 x2) = true := rfl
@[simp] theorem wf_vinti (f : BitVec 5) (x1 : BitVec 6) (x2 : BitVec 6) (i : BitVec 8) : Instr.wf (.vinti f x1 x2 i) = (decide (f.toNat ≤ 16) && (decide (f.toNat < 13) || decide (i.toNat < 32))) := rfl
@[simp] theorem wf_vfaddF32 (x0 : BitVec 6) (x1 : BitVec 6) (x2 : BitVec 6) : Instr.wf (.vfaddF32 x0 x1 x2) = true := rfl
@[simp] theorem wf_vfsubF32 (x0 : BitVec 6) (x1 : BitVec 6) (x2 : BitVec 6) : Instr.wf (.vfsubF32 x0 x1 x2) = true := rfl
@[simp] theorem wf_vfmulF32 (x0 : BitVec 6) (x1 : BitVec 6) (x2 : BitVec 6) : Instr.wf (.vfmulF32 x0 x1 x2) = true := rfl
@[simp] theorem wf_vfminF32 (x0 : BitVec 6) (x1 : BitVec 6) (x2 : BitVec 6) : Instr.wf (.vfminF32 x0 x1 x2) = true := rfl
@[simp] theorem wf_vfmaxF32 (x0 : BitVec 6) (x1 : BitVec 6) (x2 : BitVec 6) : Instr.wf (.vfmaxF32 x0 x1 x2) = true := rfl
@[simp] theorem wf_vfabsF32 (x0 : BitVec 6) (x1 : BitVec 6) : Instr.wf (.vfabsF32 x0 x1) = true := rfl
@[simp] theorem wf_vfnegF32 (x0 : BitVec 6) (x1 : BitVec 6) : Instr.wf (.vfnegF32 x0 x1) = true := rfl
@[simp] theorem wf_vfcpsgnF32 (x0 : BitVec 6) (x1 : BitVec 6) (x2 : BitVec 6) : Instr.wf (.vfcpsgnF32 x0 x1 x2) = true := rfl
@[simp] theorem wf_vfaddF16x2 (x0 : BitVec 6) (x1 : BitVec 6) (x2 : BitVec 6) : Instr.wf (.vfaddF16x2 x0 x1 x2) = true := rfl
@[simp] theorem wf_vfsubF16x2 (x0 : BitVec 6) (x1 : BitVec 6) (x2 : BitVec 6) : Instr.wf (.vfsubF16x2 x0 x1 x2) = true := rfl
@[simp] theorem wf_vfmulF16x2 (x0 : BitVec 6) (x1 : BitVec 6) (x2 : BitVec 6) : Instr.wf (.vfmulF16x2 x0 x1 x2) = true := rfl
@[simp] theorem wf_vfminF16x2 (x0 : BitVec 6) (x1 : BitVec 6) (x2 : BitVec 6) : Instr.wf (.vfminF16x2 x0 x1 x2) = true := rfl
@[simp] theorem wf_vfmaxF16x2 (x0 : BitVec 6) (x1 : BitVec 6) (x2 : BitVec 6) : Instr.wf (.vfmaxF16x2 x0 x1 x2) = true := rfl
@[simp] theorem wf_vfaddB16x2 (x0 : BitVec 6) (x1 : BitVec 6) (x2 : BitVec 6) : Instr.wf (.vfaddB16x2 x0 x1 x2) = true := rfl
@[simp] theorem wf_vfsubB16x2 (x0 : BitVec 6) (x1 : BitVec 6) (x2 : BitVec 6) : Instr.wf (.vfsubB16x2 x0 x1 x2) = true := rfl
@[simp] theorem wf_vfmulB16x2 (x0 : BitVec 6) (x1 : BitVec 6) (x2 : BitVec 6) : Instr.wf (.vfmulB16x2 x0 x1 x2) = true := rfl
@[simp] theorem wf_vfminB16x2 (x0 : BitVec 6) (x1 : BitVec 6) (x2 : BitVec 6) : Instr.wf (.vfminB16x2 x0 x1 x2) = true := rfl
@[simp] theorem wf_vfmaxB16x2 (x0 : BitVec 6) (x1 : BitVec 6) (x2 : BitVec 6) : Instr.wf (.vfmaxB16x2 x0 x1 x2) = true := rfl
@[simp] theorem wf_vfaddF64 (x0 : BitVec 5) (x1 : BitVec 5) (x2 : BitVec 5) : Instr.wf (.vfaddF64 x0 x1 x2) = true := rfl
@[simp] theorem wf_vfsubF64 (x0 : BitVec 5) (x1 : BitVec 5) (x2 : BitVec 5) : Instr.wf (.vfsubF64 x0 x1 x2) = true := rfl
@[simp] theorem wf_vfmulF64 (x0 : BitVec 5) (x1 : BitVec 5) (x2 : BitVec 5) : Instr.wf (.vfmulF64 x0 x1 x2) = true := rfl
@[simp] theorem wf_vfminF64 (x0 : BitVec 5) (x1 : BitVec 5) (x2 : BitVec 5) : Instr.wf (.vfminF64 x0 x1 x2) = true := rfl
@[simp] theorem wf_vfmaxF64 (x0 : BitVec 5) (x1 : BitVec 5) (x2 : BitVec 5) : Instr.wf (.vfmaxF64 x0 x1 x2) = true := rfl
@[simp] theorem wf_vcmulB16 (x0 : BitVec 6) (x1 : BitVec 6) (x2 : BitVec 6) : Instr.wf (.vcmulB16 x0 x1 x2) = true := rfl
@[simp] theorem wf_vfmaF32 (x0 : BitVec 6) (x1 : BitVec 6) (x2 : BitVec 6) (x3 : BitVec 5) : Instr.wf (.vfmaF32 x0 x1 x2 x3) = true := rfl
@[simp] theorem wf_vfmaF16x2 (x0 : BitVec 6) (x1 : BitVec 6) (x2 : BitVec 6) (x3 : BitVec 5) : Instr.wf (.vfmaF16x2 x0 x1 x2 x3) = true := rfl
@[simp] theorem wf_vfmaB16x2 (x0 : BitVec 6) (x1 : BitVec 6) (x2 : BitVec 6) (x3 : BitVec 5) : Instr.wf (.vfmaB16x2 x0 x1 x2 x3) = true := rfl
@[simp] theorem wf_vfmaF64 (x0 : BitVec 5) (x1 : BitVec 5) (x2 : BitVec 5) (x3 : BitVec 4) : Instr.wf (.vfmaF64 x0 x1 x2 x3) = true := rfl
@[simp] theorem wf_vcmpI32 (k : BitVec 3) (x1 : BitVec 3) (x2 : BitVec 6) (x3 : BitVec 6) : Instr.wf (.vcmpI32 k x1 x2 x3) = (decide (k.toNat ≤ 5)) := rfl
@[simp] theorem wf_vcmpN32 (k : BitVec 3) (x1 : BitVec 3) (x2 : BitVec 6) (x3 : BitVec 6) : Instr.wf (.vcmpN32 k x1 x2 x3) = (decide (k.toNat ≤ 5)) := rfl
@[simp] theorem wf_vcmpF32 (x0 : BitVec 3) (x1 : BitVec 3) (x2 : BitVec 6) (x3 : BitVec 6) : Instr.wf (.vcmpF32 x0 x1 x2 x3) = true := rfl
@[simp] theorem wf_vcmpF16x2 (x0 : BitVec 3) (x1 : BitVec 3) (x2 : BitVec 6) (x3 : BitVec 6) : Instr.wf (.vcmpF16x2 x0 x1 x2 x3) = true := rfl
@[simp] theorem wf_vcvtF32I32 (x0 : BitVec 6) (x1 : BitVec 6) : Instr.wf (.vcvtF32I32 x0 x1) = true := rfl
@[simp] theorem wf_vcvtF32N32 (x0 : BitVec 6) (x1 : BitVec 6) : Instr.wf (.vcvtF32N32 x0 x1) = true := rfl
@[simp] theorem wf_vcvtI32F32 (x0 : BitVec 6) (x1 : BitVec 6) : Instr.wf (.vcvtI32F32 x0 x1) = true := rfl
@[simp] theorem wf_vcvtI32F32Rz (x0 : BitVec 6) (x1 : BitVec 6) : Instr.wf (.vcvtI32F32Rz x0 x1) = true := rfl
@[simp] theorem wf_vcvtN32F32 (x0 : BitVec 6) (x1 : BitVec 6) : Instr.wf (.vcvtN32F32 x0 x1) = true := rfl
@[simp] theorem wf_vcvtF16x2F32 (x0 : BitVec 6) (x1 : BitVec 5) : Instr.wf (.vcvtF16x2F32 x0 x1) = true := rfl
@[simp] theorem wf_vcvtB16x2F32 (x0 : BitVec 6) (x1 : BitVec 5) : Instr.wf (.vcvtB16x2F32 x0 x1) = true := rfl
@[simp] theorem wf_vcvtF32F16 (x0 : BitVec 6) (x1 : BitVec 6) : Instr.wf (.vcvtF32F16 x0 x1) = true := rfl
@[simp] theorem wf_vcvtF32F16h (x0 : BitVec 6) (x1 : BitVec 6) : Instr.wf (.vcvtF32F16h x0 x1) = true := rfl
@[simp] theorem wf_vcvtF32B16 (x0 : BitVec 6) (x1 : BitVec 6) : Instr.wf (.vcvtF32B16 x0 x1) = true := rfl
@[simp] theorem wf_vcvtF32B16h (x0 : BitVec 6) (x1 : BitVec 6) : Instr.wf (.vcvtF32B16h x0 x1) = true := rfl
@[simp] theorem wf_vcvtF64F32 (x0 : BitVec 5) (x1 : BitVec 6) : Instr.wf (.vcvtF64F32 x0 x1) = true := rfl
@[simp] theorem wf_vcvtF32F64 (x0 : BitVec 6) (x1 : BitVec 5) : Instr.wf (.vcvtF32F64 x0 x1) = true := rfl
@[simp] theorem wf_vcvtE4x4F32 (x0 : BitVec 6) (x1 : BitVec 4) : Instr.wf (.vcvtE4x4F32 x0 x1) = true := rfl
@[simp] theorem wf_vcvtE5x4F32 (x0 : BitVec 6) (x1 : BitVec 4) : Instr.wf (.vcvtE5x4F32 x0 x1) = true := rfl
@[simp] theorem wf_vcvtE2x8F32 (x0 : BitVec 6) (x1 : BitVec 3) : Instr.wf (.vcvtE2x8F32 x0 x1) = true := rfl
@[simp] theorem wf_vcvtL6F32 (x0 : BitVec 6) (x1 : BitVec 6) : Instr.wf (.vcvtL6F32 x0 x1) = true := rfl
@[simp] theorem wf_vcvtF32L6 (x0 : BitVec 6) (x1 : BitVec 6) : Instr.wf (.vcvtF32L6 x0 x1) = true := rfl
@[simp] theorem wf_vcvtF32E4 (x0 : BitVec 6) (x1 : BitVec 6) : Instr.wf (.vcvtF32E4 x0 x1) = true := rfl
@[simp] theorem wf_vcvtF32E5 (x0 : BitVec 6) (x1 : BitVec 6) : Instr.wf (.vcvtF32E5 x0 x1) = true := rfl
@[simp] theorem wf_vcvtF32E2 (x0 : BitVec 6) (x1 : BitVec 6) : Instr.wf (.vcvtF32E2 x0 x1) = true := rfl
@[simp] theorem wf_vrcp (x0 : BitVec 6) (x1 : BitVec 6) : Instr.wf (.vrcp x0 x1) = true := rfl
@[simp] theorem wf_vrsq (x0 : BitVec 6) (x1 : BitVec 6) : Instr.wf (.vrsq x0 x1) = true := rfl
@[simp] theorem wf_vsqrt (x0 : BitVec 6) (x1 : BitVec 6) : Instr.wf (.vsqrt x0 x1) = true := rfl
@[simp] theorem wf_vexp2 (x0 : BitVec 6) (x1 : BitVec 6) : Instr.wf (.vexp2 x0 x1) = true := rfl
@[simp] theorem wf_vlog2 (x0 : BitVec 6) (x1 : BitVec 6) : Instr.wf (.vlog2 x0 x1) = true := rfl
@[simp] theorem wf_vsint (x0 : BitVec 6) (x1 : BitVec 6) : Instr.wf (.vsint x0 x1) = true := rfl
@[simp] theorem wf_vcost (x0 : BitVec 6) (x1 : BitVec 6) : Instr.wf (.vcost x0 x1) = true := rfl
@[simp] theorem wf_vtanh (x0 : BitVec 6) (x1 : BitVec 6) : Instr.wf (.vtanh x0 x1) = true := rfl
@[simp] theorem wf_vtab (x0 : BitVec 3) (x1 : BitVec 6) (x2 : BitVec 6) : Instr.wf (.vtab x0 x1 x2) = true := rfl
@[simp] theorem wf_vmov (w : BitVec 2) (d : BitVec 6) (a : BitVec 6) : Instr.wf (.vmov w d a) = (widthOk w.toNat d.toNat && widthOk w.toNat a.toNat) := rfl
@[simp] theorem wf_vmovs (x0 : BitVec 6) (x1 : BitVec 5) : Instr.wf (.vmovs x0 x1) = true := rfl
@[simp] theorem wf_vlaneid (x0 : BitVec 6) : Instr.wf (.vlaneid x0) = true := rfl
@[simp] theorem wf_vreadl (x0 : BitVec 5) (x1 : BitVec 6) (x2 : BitVec 5) : Instr.wf (.vreadl x0 x1 x2) = true := rfl
@[simp] theorem wf_vwritel (x0 : BitVec 6) (x1 : BitVec 5) (x2 : BitVec 5) : Instr.wf (.vwritel x0 x1 x2) = true := rfl
@[simp] theorem wf_vfirst (x0 : BitVec 6) (x1 : BitVec 6) : Instr.wf (.vfirst x0 x1) = true := rfl
@[simp] theorem wf_vshflIdx (x0 : BitVec 6) (x1 : BitVec 6) (x2 : BitVec 6) : Instr.wf (.vshflIdx x0 x1 x2) = true := rfl
@[simp] theorem wf_vshflUp (x0 : BitVec 6) (x1 : BitVec 6) (x2 : BitVec 5) : Instr.wf (.vshflUp x0 x1 x2) = true := rfl
@[simp] theorem wf_vshflDown (x0 : BitVec 6) (x1 : BitVec 6) (x2 : BitVec 5) : Instr.wf (.vshflDown x0 x1 x2) = true := rfl
@[simp] theorem wf_vshflXor (x0 : BitVec 6) (x1 : BitVec 6) (x2 : BitVec 5) : Instr.wf (.vshflXor x0 x1 x2) = true := rfl
@[simp] theorem wf_vshflBcast (x0 : BitVec 6) (x1 : BitVec 6) (x2 : BitVec 5) : Instr.wf (.vshflBcast x0 x1 x2) = true := rfl
@[simp] theorem wf_raddI32 (x0 : BitVec 6) (x1 : BitVec 6) : Instr.wf (.raddI32 x0 x1) = true := rfl
@[simp] theorem wf_raddF32 (x0 : BitVec 6) (x1 : BitVec 6) : Instr.wf (.raddF32 x0 x1) = true := rfl
@[simp] theorem wf_rminI32 (x0 : BitVec 6) (x1 : BitVec 6) : Instr.wf (.rminI32 x0 x1) = true := rfl
@[simp] theorem wf_rmaxI32 (x0 : BitVec 6) (x1 : BitVec 6) : Instr.wf (.rmaxI32 x0 x1) = true := rfl
@[simp] theorem wf_rminN32 (x0 : BitVec 6) (x1 : BitVec 6) : Instr.wf (.rminN32 x0 x1) = true := rfl
@[simp] theorem wf_rmaxN32 (x0 : BitVec 6) (x1 : BitVec 6) : Instr.wf (.rmaxN32 x0 x1) = true := rfl
@[simp] theorem wf_rminF32 (x0 : BitVec 6) (x1 : BitVec 6) : Instr.wf (.rminF32 x0 x1) = true := rfl
@[simp] theorem wf_rmaxF32 (x0 : BitVec 6) (x1 : BitVec 6) : Instr.wf (.rmaxF32 x0 x1) = true := rfl
@[simp] theorem wf_rand (x0 : BitVec 6) (x1 : BitVec 6) : Instr.wf (.rand x0 x1) = true := rfl
@[simp] theorem wf_ror (x0 : BitVec 6) (x1 : BitVec 6) : Instr.wf (.ror x0 x1) = true := rfl
@[simp] theorem wf_rxor (x0 : BitVec 6) (x1 : BitVec 6) : Instr.wf (.rxor x0 x1) = true := rfl
@[simp] theorem wf_scanaddI32 (x0 : BitVec 6) (x1 : BitVec 6) : Instr.wf (.scanaddI32 x0 x1) = true := rfl
@[simp] theorem wf_scanaddI32Ex (x0 : BitVec 6) (x1 : BitVec 6) : Instr.wf (.scanaddI32Ex x0 x1) = true := rfl
@[simp] theorem wf_scanaddF32 (x0 : BitVec 6) (x1 : BitVec 6) : Instr.wf (.scanaddF32 x0 x1) = true := rfl
@[simp] theorem wf_vvoteAny (x0 : BitVec 3) (x1 : BitVec 3) : Instr.wf (.vvoteAny x0 x1) = true := rfl
@[simp] theorem wf_vvoteAll (x0 : BitVec 3) (x1 : BitVec 3) : Instr.wf (.vvoteAll x0 x1) = true := rfl
@[simp] theorem wf_vvoteBallot (x0 : BitVec 5) (x1 : BitVec 3) : Instr.wf (.vvoteBallot x0 x1) = true := rfl
@[simp] theorem wf_vvoteCount (x0 : BitVec 6) (x1 : BitVec 3) : Instr.wf (.vvoteCount x0 x1) = true := rfl
@[simp] theorem wf_pand (x0 : BitVec 3) (x1 : BitVec 3) (x2 : BitVec 3) : Instr.wf (.pand x0 x1 x2) = true := rfl
@[simp] theorem wf_por (x0 : BitVec 3) (x1 : BitVec 3) (x2 : BitVec 3) : Instr.wf (.por x0 x1 x2) = true := rfl
@[simp] theorem wf_pxor (x0 : BitVec 3) (x1 : BitVec 3) (x2 : BitVec 3) : Instr.wf (.pxor x0 x1 x2) = true := rfl
@[simp] theorem wf_pandn (x0 : BitVec 3) (x1 : BitVec 3) (x2 : BitVec 3) : Instr.wf (.pandn x0 x1 x2) = true := rfl
@[simp] theorem wf_pnot (x0 : BitVec 3) (x1 : BitVec 3) : Instr.wf (.pnot x0 x1) = true := rfl
@[simp] theorem wf_pmov (x0 : BitVec 3) (x1 : BitVec 3) : Instr.wf (.pmov x0 x1) = true := rfl
@[simp] theorem wf_setexec (x0 : BitVec 3) : Instr.wf (.setexec x0) = true := rfl
@[simp] theorem wf_getexec (x0 : BitVec 3) : Instr.wf (.getexec x0) = true := rfl
@[simp] theorem wf_pfroms (x0 : BitVec 3) (x1 : BitVec 5) : Instr.wf (.pfroms x0 x1) = true := rfl
@[simp] theorem wf_ptos (x0 : BitVec 5) (x1 : BitVec 3) : Instr.wf (.ptos x0 x1) = true := rfl
@[simp] theorem wf_execand (x0 : BitVec 3) : Instr.wf (.execand x0) = true := rfl
@[simp] theorem wf_ppopc (x0 : BitVec 3) (x1 : BitVec 3) : Instr.wf (.ppopc x0 x1) = true := rfl
@[simp] theorem wf_vld (z : BitVec 3) (x1 : BitVec 1) (w : BitVec 2) (d : BitVec 6) (x4 : BitVec 6) (x5 : BitVec 4) (x6 : BitVec 2) : Instr.wf (.vld z x1 w d x4 x5 x6) = (z.toNat != 7 && w.toNat == sizeW z.toNat && widthOk w.toNat d.toNat) := rfl
@[simp] theorem wf_vst (z : BitVec 3) (x1 : BitVec 1) (w : BitVec 2) (d : BitVec 6) (x4 : BitVec 6) (x5 : BitVec 4) (x6 : BitVec 2) : Instr.wf (.vst z x1 w d x4 x5 x6) = (decide (z.toNat ≤ 4) && w.toNat == sizeW z.toNat && widthOk w.toNat d.toNat) := rfl
@[simp] theorem wf_vatomAddI32 (d : BitVec 6) (x1 : BitVec 6) (x2 : BitVec 4) (h : BitVec 2) : Instr.wf (.vatomAddI32 d x1 x2 h) = (atomWf 1 d.toNat h.toNat) := rfl
@[simp] theorem wf_vatomAddF32 (d : BitVec 6) (x1 : BitVec 6) (x2 : BitVec 4) (h : BitVec 2) : Instr.wf (.vatomAddF32 d x1 x2 h) = (atomWf 1 d.toNat h.toNat) := rfl
@[simp] theorem wf_vatomAddB16x2 (d : BitVec 6) (x1 : BitVec 6) (x2 : BitVec 4) (h : BitVec 2) : Instr.wf (.vatomAddB16x2 d x1 x2 h) = (atomWf 1 d.toNat h.toNat) := rfl
@[simp] theorem wf_vatomMinI32 (d : BitVec 6) (x1 : BitVec 6) (x2 : BitVec 4) (h : BitVec 2) : Instr.wf (.vatomMinI32 d x1 x2 h) = (atomWf 1 d.toNat h.toNat) := rfl
@[simp] theorem wf_vatomMaxI32 (d : BitVec 6) (x1 : BitVec 6) (x2 : BitVec 4) (h : BitVec 2) : Instr.wf (.vatomMaxI32 d x1 x2 h) = (atomWf 1 d.toNat h.toNat) := rfl
@[simp] theorem wf_vatomMinN32 (d : BitVec 6) (x1 : BitVec 6) (x2 : BitVec 4) (h : BitVec 2) : Instr.wf (.vatomMinN32 d x1 x2 h) = (atomWf 1 d.toNat h.toNat) := rfl
@[simp] theorem wf_vatomMaxN32 (d : BitVec 6) (x1 : BitVec 6) (x2 : BitVec 4) (h : BitVec 2) : Instr.wf (.vatomMaxN32 d x1 x2 h) = (atomWf 1 d.toNat h.toNat) := rfl
@[simp] theorem wf_vatomAnd (d : BitVec 6) (x1 : BitVec 6) (x2 : BitVec 4) (h : BitVec 2) : Instr.wf (.vatomAnd d x1 x2 h) = (atomWf 1 d.toNat h.toNat) := rfl
@[simp] theorem wf_vatomOr (d : BitVec 6) (x1 : BitVec 6) (x2 : BitVec 4) (h : BitVec 2) : Instr.wf (.vatomOr d x1 x2 h) = (atomWf 1 d.toNat h.toNat) := rfl
@[simp] theorem wf_vatomXor (d : BitVec 6) (x1 : BitVec 6) (x2 : BitVec 4) (h : BitVec 2) : Instr.wf (.vatomXor d x1 x2 h) = (atomWf 1 d.toNat h.toNat) := rfl
@[simp] theorem wf_vatomXchg (d : BitVec 6) (x1 : BitVec 6) (x2 : BitVec 4) (h : BitVec 2) : Instr.wf (.vatomXchg d x1 x2 h) = (atomWf 1 d.toNat h.toNat) := rfl
@[simp] theorem wf_vatomCas (d : BitVec 5) (x1 : BitVec 6) (x2 : BitVec 4) (h : BitVec 2) : Instr.wf (.vatomCas d x1 x2 h) = (atomWf 2 (2 * d.toNat) h.toNat) := rfl
@[simp] theorem wf_vatomIncw (d : BitVec 6) (x1 : BitVec 6) (x2 : BitVec 4) (h : BitVec 2) : Instr.wf (.vatomIncw d x1 x2 h) = (atomWf 1 d.toNat h.toNat) := rfl
@[simp] theorem wf_vatomDecw (d : BitVec 6) (x1 : BitVec 6) (x2 : BitVec 4) (h : BitVec 2) : Instr.wf (.vatomDecw d x1 x2 h) = (atomWf 1 d.toNat h.toNat) := rfl
@[simp] theorem wf_vatomAddI64 (d : BitVec 5) (x1 : BitVec 6) (x2 : BitVec 4) (h : BitVec 2) : Instr.wf (.vatomAddI64 d x1 x2 h) = (atomWf 2 (2 * d.toNat) h.toNat) := rfl
@[simp] theorem wf_mwait (f : BitVec 4) (x1 : BitVec 5) (x2 : BitVec 5) (x3 : BitVec 4) : Instr.wf (.mwait f x1 x2 x3) = (decide (f.toNat ≤ 5)) := rfl
@[simp] theorem wf_binit (x0 : BitVec 5) (x1 : BitVec 5) : Instr.wf (.binit x0 x1) = true := rfl
@[simp] theorem wf_barrive (x0 : BitVec 5) : Instr.wf (.barrive x0) = true := rfl
@[simp] theorem wf_barrivePeer (x0 : BitVec 5) : Instr.wf (.barrivePeer x0) = true := rfl
@[simp] theorem wf_bexpect (x0 : BitVec 5) (x1 : BitVec 5) : Instr.wf (.bexpect x0 x1) = true := rfl
@[simp] theorem wf_bwait (x0 : BitVec 5) (x1 : BitVec 5) : Instr.wf (.bwait x0 x1) = true := rfl
@[simp] theorem wf_btry (x0 : BitVec 5) (x1 : BitVec 5) (x2 : BitVec 5) : Instr.wf (.btry x0 x1 x2) = true := rfl
@[simp] theorem wf_binval (x0 : BitVec 5) : Instr.wf (.binval x0) = true := rfl
@[simp] theorem wf_cpy (x0 : BitVec 2) (x1 : BitVec 2) : Instr.wf (.cpy x0 x1) = true := rfl
@[simp] theorem wf_cpymc (x0 : BitVec 2) (x1 : BitVec 8) (x2 : BitVec 2) : Instr.wf (.cpymc x0 x1 x2) = true := rfl
@[simp] theorem wf_cpyb (x0 : BitVec 2) (x1 : BitVec 2) : Instr.wf (.cpyb x0 x1) = true := rfl
@[simp] theorem wf_cpyout (x0 : BitVec 2) (x1 : BitVec 2) : Instr.wf (.cpyout x0 x1) = true := rfl
@[simp] theorem wf_cpypar (x0 : BitVec 2) (x1 : BitVec 1) (x2 : BitVec 2) : Instr.wf (.cpypar x0 x1 x2) = true := rfl
@[simp] theorem wf_cpygf (x0 : BitVec 2) (x1 : BitVec 8) (x2 : BitVec 1) (x3 : BitVec 2) : Instr.wf (.cpygf x0 x1 x2 x3) = true := rfl
@[simp] theorem wf_cpypeer (x0 : BitVec 2) (x1 : BitVec 2) : Instr.wf (.cpypeer x0 x1) = true := rfl
@[simp] theorem wf_chn (x0 : BitVec 4) : Instr.wf (.chn x0) = true := rfl
@[simp] theorem wf_pref (x0 : BitVec 4) (x1 : BitVec 5) (x2 : BitVec 2) : Instr.wf (.pref x0 x1 x2) = true := rfl
@[simp] theorem wf_wback (a : BitVec 5) (x1 : BitVec 5) : Instr.wf (.wback a x1) = (a.toNat % 2 == 0) := rfl
@[simp] theorem wf_discard (a : BitVec 5) (x1 : BitVec 5) : Instr.wf (.discard a x1) = (a.toNat % 2 == 0) := rfl
@[simp] theorem wf_bankcfg (x0 : BitVec 5) (m : BitVec 2) : Instr.wf (.bankcfg x0 m) = (m.toNat != 3) := rfl
@[simp] theorem wf_bankq (x0 : BitVec 5) (x1 : BitVec 5) : Instr.wf (.bankq x0 x1) = true := rfl
@[simp] theorem wf_deposit (x0 : BitVec 4) (x1 : BitVec 6) : Instr.wf (.deposit x0 x1) = true := rfl
@[simp] theorem wf_mma (f : BitVec 4) (x1 : BitVec 2) (x2 : BitVec 2) (x3 : BitVec 5) (x4 : BitVec 5) (x5 : BitVec 1) (x6 : BitVec 1) : Instr.wf (.mma f x1 x2 x3 x4 x5 x6) = (decide (f.toNat ≤ 9)) := rfl
@[simp] theorem wf_mscale (x0 : BitVec 2) (x1 : BitVec 2) (x2 : BitVec 5) (x3 : BitVec 5) : Instr.wf (.mscale x0 x1 x2 x3) = true := rfl
@[simp] theorem wf_tzero (x0 : BitVec 2) : Instr.wf (.tzero x0) = true := rfl
@[simp] theorem wf_tload (x0 : BitVec 2) (a : BitVec 5) (x2 : BitVec 5) (g : BitVec 1) (v : BitVec 2) : Instr.wf (.tload x0 a x2 g v) = (tileWf a.toNat g.toNat v.toNat) := rfl
@[simp] theorem wf_tstore (x0 : BitVec 2) (a : BitVec 5) (x2 : BitVec 5) (g : BitVec 1) (v : BitVec 2) : Instr.wf (.tstore x0 a x2 g v) = (tileWf a.toNat g.toNat v.toNat) := rfl
@[simp] theorem wf_taddst (x0 : BitVec 2) (a : BitVec 5) (x2 : BitVec 5) (g : BitVec 1) (v : BitVec 2) : Instr.wf (.taddst x0 a x2 g v) = (tileWf a.toNat g.toNat v.toNat) := rfl
@[simp] theorem wf_tmove (x0 : BitVec 2) (x1 : BitVec 2) : Instr.wf (.tmove x0 x1) = true := rfl
@[simp] theorem wf_mquant (x0 : BitVec 2) (k : BitVec 2) (x2 : BitVec 2) (x3 : BitVec 5) (x4 : BitVec 5) (x5 : BitVec 2) : Instr.wf (.mquant x0 k x2 x3 x4 x5) = (k.toNat != 3) := rfl
@[simp] theorem wf_mbatch (x0 : BitVec 5) : Instr.wf (.mbatch x0) = true := rfl
@[simp] theorem wf_mwaitb (x0 : BitVec 5) : Instr.wf (.mwaitb x0) = true := rfl
@[simp] theorem wf_sigchk (x0 : BitVec 20) : Instr.wf (.sigchk x0) = true := rfl
@[simp] theorem wf_sigset (x0 : BitVec 20) : Instr.wf (.sigset x0) = true := rfl
@[simp] theorem wf_seal (d : BitVec 6) (n : BitVec 6) (x2 : BitVec 3) : Instr.wf (.seal d n x2) = (decide (d.toNat + (if n.toNat = 0 then 64 else n.toNat) ≤ 64)) := rfl
@[simp] theorem wf_sealNovec (x0 : BitVec 3) : Instr.wf (.sealNovec x0) = true := rfl
@[simp] theorem wf_tblload (x0 : BitVec 4) (x1 : BitVec 3) : Instr.wf (.tblload x0 x1) = true := rfl
@[simp] theorem wf_tblloadLog (x0 : BitVec 4) : Instr.wf (.tblloadLog x0) = true := rfl
@[simp] theorem wf_tblswap (x0 : BitVec 1) (x1 : BitVec 8) : Instr.wf (.tblswap x0 x1) = true := rfl
@[simp] theorem wf_grprdCnt (x0 : BitVec 5) (x1 : BitVec 5) : Instr.wf (.grprdCnt x0 x1) = true := rfl
@[simp] theorem wf_grprdMem (x0 : BitVec 5) (x1 : BitVec 5) (x2 : BitVec 5) : Instr.wf (.grprdMem x0 x1 x2) = true := rfl
@[simp] theorem wf_grprdSelf (x0 : BitVec 5) (x1 : BitVec 5) : Instr.wf (.grprdSelf x0 x1) = true := rfl
@[simp] theorem wf_nop : Instr.wf .nop = true := rfl
@[simp] theorem wf_exit : Instr.wf .exit = true := rfl
@[simp] theorem wf_ret : Instr.wf .ret = true := rfl
@[simp] theorem wf_bpt : Instr.wf .bpt = true := rfl
@[simp] theorem wf_yield : Instr.wf .yield = true := rfl
@[simp] theorem wf_rtt : Instr.wf .rtt = true := rfl
@[simp] theorem wf_join : Instr.wf .join = true := rfl
@[simp] theorem wf_bsync : Instr.wf .bsync = true := rfl
@[simp] theorem wf_lstop : Instr.wf .lstop = true := rfl
@[simp] theorem wf_fence : Instr.wf .fence = true := rfl
@[simp] theorem wf_fenceRel : Instr.wf .fenceRel = true := rfl
@[simp] theorem wf_fenceAcq : Instr.wf .fenceAcq = true := rfl
@[simp] theorem wf_opfence : Instr.wf .opfence = true := rfl
@[simp] theorem wf_evExitComplete : Instr.wf .evExitComplete = true := rfl
@[simp] theorem wf_evWarpBoost : Instr.wf .evWarpBoost = true := rfl
@[simp] theorem wf_evLoadReturn : Instr.wf .evLoadReturn = true := rfl
@[simp] theorem wf_evStorePerformed : Instr.wf .evStorePerformed = true := rfl
@[simp] theorem wf_evAtomicReturn : Instr.wf .evAtomicReturn = true := rfl
@[simp] theorem wf_evAlmondEntry : Instr.wf .evAlmondEntry = true := rfl
@[simp] theorem wf_evCopyComplete : Instr.wf .evCopyComplete = true := rfl
@[simp] theorem wf_evChainStep : Instr.wf .evChainStep = true := rfl
@[simp] theorem wf_evMatrixEntry : Instr.wf .evMatrixEntry = true := rfl
@[simp] theorem wf_evAdmission : Instr.wf .evAdmission = true := rfl
@[simp] theorem wf_evSegmentModeChange : Instr.wf .evSegmentModeChange = true := rfl
@[simp] theorem wf_evArrivalLogAppend : Instr.wf .evArrivalLogAppend = true := rfl
@[simp] theorem wf_evMonitorPoll : Instr.wf .evMonitorPoll = true := rfl
@[simp] theorem wf_evBarrierPoll : Instr.wf .evBarrierPoll = true := rfl
@[simp] theorem wf_evSpanEnd : Instr.wf .evSpanEnd = true := rfl
@[simp] theorem wf_evForcedSpanEnd : Instr.wf .evForcedSpanEnd = true := rfl
@[simp] theorem wf_evSpanRecord : Instr.wf .evSpanRecord = true := rfl
@[simp] theorem wf_evRunEnd : Instr.wf .evRunEnd = true := rfl
@[simp] theorem wf_evCommit : Instr.wf .evCommit = true := rfl
@[simp] theorem wf_evHeldStore : Instr.wf .evHeldStore = true := rfl
@[simp] theorem wf_evClusterRead : Instr.wf .evClusterRead = true := rfl
@[simp] theorem wf_evTreqr : Instr.wf .evTreqr = true := rfl
@[simp] theorem wf_evTreqw : Instr.wf .evTreqw = true := rfl
@[simp] theorem wf_evTreqb : Instr.wf .evTreqb = true := rfl
@[simp] theorem wf_evTokd : Instr.wf .evTokd = true := rfl
@[simp] theorem wf_evTokn : Instr.wf .evTokn = true := rfl
@[simp] theorem wf_evDatab : Instr.wf .evDatab = true := rfl
@[simp] theorem wf_evPreq : Instr.wf .evPreq = true := rfl
@[simp] theorem wf_evPact : Instr.wf .evPact = true := rfl
@[simp] theorem wf_evPdone : Instr.wf .evPdone = true := rfl
@[simp] theorem wf_evPdeact : Instr.wf .evPdeact = true := rfl
@[simp] theorem wf_evPack : Instr.wf .evPack = true := rfl
@[simp] theorem wf_evWbd : Instr.wf .evWbd = true := rfl
@[simp] theorem wf_evWbn : Instr.wf .evWbn = true := rfl
@[simp] theorem wf_evTransientTimeout : Instr.wf .evTransientTimeout = true := rfl
@[simp] theorem wf_evBypassTimeout : Instr.wf .evBypassTimeout = true := rfl
@[simp] theorem wf_evPersistentDemandRepeat : Instr.wf .evPersistentDemandRepeat = true := rfl
@[simp] theorem wf_evPwatch : Instr.wf .evPwatch = true := rfl
@[simp] theorem wf_evHeadUrgent : Instr.wf .evHeadUrgent = true := rfl
@[simp] theorem wf_evRingRegister : Instr.wf .evRingRegister = true := rfl
@[simp] theorem wf_evRingUnregister : Instr.wf .evRingUnregister = true := rfl
@[simp] theorem wf_evDoorbell : Instr.wf .evDoorbell = true := rfl
@[simp] theorem wf_evRingFreeze : Instr.wf .evRingFreeze = true := rfl
@[simp] theorem wf_evRingRemap : Instr.wf .evRingRemap = true := rfl
@[simp] theorem wf_evEntryConsume : Instr.wf .evEntryConsume = true := rfl
@[simp] theorem wf_evNodeComplete : Instr.wf .evNodeComplete = true := rfl
@[simp] theorem wf_evNodeLaunch : Instr.wf .evNodeLaunch = true := rfl
@[simp] theorem wf_evRpfTranslate : Instr.wf .evRpfTranslate = true := rfl
@[simp] theorem wf_evNodeCopy : Instr.wf .evNodeCopy = true := rfl
@[simp] theorem wf_evNodeChain : Instr.wf .evNodeChain = true := rfl
@[simp] theorem wf_evNodeBundle : Instr.wf .evNodeBundle = true := rfl
@[simp] theorem wf_evNodeSignal : Instr.wf .evNodeSignal = true := rfl
@[simp] theorem wf_evNodeEvfence : Instr.wf .evNodeEvfence = true := rfl
@[simp] theorem wf_evNodeTimed : Instr.wf .evNodeTimed = true := rfl
@[simp] theorem wf_evNodeResync : Instr.wf .evNodeResync = true := rfl
@[simp] theorem wf_evTimedPreempt : Instr.wf .evTimedPreempt = true := rfl
@[simp] theorem wf_evTimedResume : Instr.wf .evTimedResume = true := rfl
@[simp] theorem wf_evTimedLaunch : Instr.wf .evTimedLaunch = true := rfl
@[simp] theorem wf_evStraggler : Instr.wf .evStraggler = true := rfl
@[simp] theorem wf_evGo : Instr.wf .evGo = true := rfl
@[simp] theorem wf_evDepositSort : Instr.wf .evDepositSort = true := rfl
@[simp] theorem wf_evGangOffer : Instr.wf .evGangOffer = true := rfl
@[simp] theorem wf_evPlace : Instr.wf .evPlace = true := rfl
@[simp] theorem wf_evPlaced : Instr.wf .evPlaced = true := rfl
@[simp] theorem wf_evRefused : Instr.wf .evRefused = true := rfl
@[simp] theorem wf_evRetired : Instr.wf .evRetired = true := rfl
@[simp] theorem wf_evSave : Instr.wf .evSave = true := rfl
@[simp] theorem wf_evGangSave : Instr.wf .evGangSave = true := rfl
@[simp] theorem wf_evSaved : Instr.wf .evSaved = true := rfl
@[simp] theorem wf_evRestore : Instr.wf .evRestore = true := rfl
@[simp] theorem wf_evFault : Instr.wf .evFault = true := rfl
@[simp] theorem wf_evPret : Instr.wf .evPret = true := rfl
@[simp] theorem wf_evContextCreate : Instr.wf .evContextCreate = true := rfl
@[simp] theorem wf_evContextRelease : Instr.wf .evContextRelease = true := rfl
@[simp] theorem wf_evTeardown : Instr.wf .evTeardown = true := rfl
@[simp] theorem wf_evDriverPreempt : Instr.wf .evDriverPreempt = true := rfl
@[simp] theorem wf_evDriverResume : Instr.wf .evDriverResume = true := rfl
@[simp] theorem wf_evGot : Instr.wf .evGot = true := rfl
@[simp] theorem wf_evPrdone : Instr.wf .evPrdone = true := rfl
@[simp] theorem wf_evPrfail : Instr.wf .evPrfail = true := rfl
@[simp] theorem wf_evInvalidate : Instr.wf .evInvalidate = true := rfl
@[simp] theorem wf_evInvalidationDone : Instr.wf .evInvalidationDone = true := rfl
@[simp] theorem wf_evUnfence : Instr.wf .evUnfence = true := rfl
@[simp] theorem wf_evQclear : Instr.wf .evQclear = true := rfl
@[simp] theorem wf_evPeerSetUp : Instr.wf .evPeerSetUp = true := rfl
@[simp] theorem wf_evRegisterWrite : Instr.wf .evRegisterWrite = true := rfl
@[simp] theorem wf_evWarmReset : Instr.wf .evWarmReset = true := rfl
@[simp] theorem wf_evColdReset : Instr.wf .evColdReset = true := rfl
@[simp] theorem wf_evHreq : Instr.wf .evHreq = true := rfl
@[simp] theorem wf_evHealthPeriodic : Instr.wf .evHealthPeriodic = true := rfl
@[simp] theorem wf_evHealthRecord : Instr.wf .evHealthRecord = true := rfl
@[simp] theorem wf_evLdrgo : Instr.wf .evLdrgo = true := rfl
@[simp] theorem wf_evFirmwareVerified : Instr.wf .evFirmwareVerified = true := rfl
@[simp] theorem wf_evHeartbeatMissed : Instr.wf .evHeartbeatMissed = true := rfl
@[simp] theorem wf_evInboundWrite : Instr.wf .evInboundWrite = true := rfl
@[simp] theorem wf_evInboundRead : Instr.wf .evInboundRead = true := rfl
@[simp] theorem wf_evLinkRetrain : Instr.wf .evLinkRetrain = true := rfl
@[simp] theorem wf_evTransportRead : Instr.wf .evTransportRead = true := rfl
@[simp] theorem wf_evTransportWrite : Instr.wf .evTransportWrite = true := rfl
@[simp] theorem wf_evTransportAtomic : Instr.wf .evTransportAtomic = true := rfl
@[simp] theorem wf_evCpypeerData : Instr.wf .evCpypeerData = true := rfl
@[simp] theorem wf_evTransportCompletion : Instr.wf .evTransportCompletion = true := rfl
@[simp] theorem wf_evPeerDown : Instr.wf .evPeerDown = true := rfl
@[simp] theorem wf_evFlitRetransmit : Instr.wf .evFlitRetransmit = true := rfl
@[simp] theorem wf_evParityDiscard : Instr.wf .evParityDiscard = true := rfl
@[simp] theorem wf_evGroupReplay : Instr.wf .evGroupReplay = true := rfl
@[simp] theorem wf_evUncorrectable : Instr.wf .evUncorrectable = true := rfl
@[simp] theorem wf_evScrubStep : Instr.wf .evScrubStep = true := rfl
@[simp] theorem wf_evQuarantineClean : Instr.wf .evQuarantineClean = true := rfl
@[simp] theorem wf_evDemeritDecay : Instr.wf .evDemeritDecay = true := rfl
@[simp] theorem wf_evPtpMessage : Instr.wf .evPtpMessage = true := rfl
@[simp] theorem wf_evSyncTimeout : Instr.wf .evSyncTimeout = true := rfl
@[simp] theorem wf_evHoldoverTimeout : Instr.wf .evHoldoverTimeout = true := rfl
@[simp] theorem wf_evClockStep : Instr.wf .evClockStep = true := rfl
@[simp] theorem wf_evPowerTrip : Instr.wf .evPowerTrip = true := rfl
@[simp] theorem wf_evJunction95 : Instr.wf .evJunction95 = true := rfl
@[simp] theorem wf_evJunction105 : Instr.wf .evJunction105 = true := rfl
@[simp] theorem wf_evFlowLow : Instr.wf .evFlowLow = true := rfl
@[simp] theorem wf_evAdaptiveUndervolting : Instr.wf .evAdaptiveUndervolting = true := rfl
@[simp] theorem wf_evPmcWrap : Instr.wf .evPmcWrap = true := rfl

end Sys2Proof
end

