-- ==== Sys2Proof/Laws/Memory.lean ====
section
/-! SUPPORT. Memory: what a read finds after a write, and that every operation keeps the canonical form. -/

namespace Sys2Proof.Machine

/-! ## Reads after writes -/

theorem Memory.clear_eq_filter (m : Memory) (a : Nat) : Memory.clear m a = m.filter fun c => c.1 != a := by
  induction m with
  | nil => rfl
  | cons p m ih => obtain ⟨i, v⟩ := p; by_cases h : i = a <;> simp [Memory.clear, h, ih]

theorem Memory.clear_ne (m : Memory) (a : Nat) : ∀ c ∈ Memory.clear m a, c.1 ≠ a := by
  intro c hc
  have := (List.mem_filter.1 (Memory.clear_eq_filter m a ▸ hc)).2
  exact bne_iff_ne.1 this

theorem Memory.read_clear (m : Memory) (a b : Nat) : Memory.read (Memory.clear m a) b = if b = a then 0 else Memory.read m b := by
  induction m with
  | nil => simp [Memory.clear, Memory.read]
  | cons p m ih =>
    obtain ⟨i, v⟩ := p
    by_cases h : i = a
    · subst h
      by_cases e : b = i
      · simp_all [Memory.clear]
      · simp_all [Memory.clear, Memory.read, Ne.symm e]
    · by_cases e : i = b
      · subst e; simp [Memory.clear, Memory.read, h]
      · simp [Memory.clear, Memory.read, h, e, ih]

theorem Memory.read_add (m : Memory) (a b : Nat) (v : Byte) (h : ∀ c ∈ m, c.1 ≠ a) :
    Memory.read (Memory.add m a v) b = if b = a then v else Memory.read m b := by
  induction m with
  | nil =>
    by_cases e : b = a
    · simp [Memory.add, Memory.read, e]
    · simp [Memory.add, Memory.read, e, Ne.symm e]
  | cons p m ih =>
    obtain ⟨i, w⟩ := p
    have hi : i ≠ a := h (i, w) (by simp)
    have ih := ih fun c hc => h c (by simp [hc])
    simp only [Memory.add]
    split
    · by_cases e : b = a
      · simp [Memory.read, e]
      · simp [Memory.read, e, Ne.symm e]
    · by_cases e : i = b
      · subst e; simp [Memory.read, hi]
      · simp [Memory.read, e, ih]

/-- A byte reads as it was last written; every other byte as before. -/
theorem Memory.read_write (m : Memory) (a b : Nat) (v : Byte) :
    Memory.read (Memory.write m a v) b = if b = a then v else Memory.read m b := by
  unfold Memory.write
  split
  · subst_vars; exact Memory.read_clear m a b
  · rw [Memory.read_add _ _ _ _ (Memory.clear_ne m a), Memory.read_clear]
    split <;> rfl

theorem Memory.read_writeBytes (m : Memory) (a b : Nat) (bs : List Byte) :
    Memory.read (Memory.writeBytes m a bs) b = if a ≤ b ∧ b < a + bs.length then bs.getD (b - a) 0 else Memory.read m b := by
  induction bs generalizing m a with
  | nil => rw [if_neg (by simp only [List.length_nil]; omega)]; rfl
  | cons x bs ih =>
    rw [Memory.writeBytes, ih, Memory.read_write]
    by_cases h : b = a
    · subst h
      rw [if_neg (by omega), if_pos rfl, if_pos (by simp)]; simp
    · by_cases h1 : a + 1 ≤ b ∧ b < a + 1 + bs.length
      · have : b - a = b - (a + 1) + 1 := by omega
        rw [if_pos h1, if_pos (by simp; omega), this]; rfl
      · rw [if_neg h1, if_neg h, if_neg (by simp; omega)]

theorem Memory.read_clearRange (m : Memory) (a n b : Nat) :
    Memory.read (Memory.clearRange m a n) b = if a ≤ b ∧ b < a + n then 0 else Memory.read m b := by
  induction m with
  | nil => simp [Memory.clearRange, Memory.read]
  | cons p m ih =>
    obtain ⟨i, v⟩ := p
    simp only [Memory.clearRange] at ih
    by_cases h : a ≤ i ∧ i < a + n
    · by_cases e : i = b
      · subst e; simp_all [Memory.clearRange]
      · simp_all [Memory.clearRange, Memory.read]
    · by_cases e : i = b
      · subst e
        have : (!(decide (a ≤ i) && decide (i < a + n))) = true := by simp; omega
        simp only [Memory.clearRange, List.filter_cons, this, if_true, Memory.read, if_neg h]
      · have : (!(decide (a ≤ i) && decide (i < a + n))) = true := by simp; omega
        simp only [Memory.clearRange, List.filter_cons, this, if_true, Memory.read, if_neg e, ih]

/-! ## The canonical form -/

theorem Memory.wf_iff (m : Memory) :
    Memory.wf m = true ↔ m.Pairwise (fun x y => x.1 < y.1) ∧ ∀ c ∈ m, c.2 ≠ 0 := by
  match m with
  | [] => simp [Memory.wf]
  | [(a, v)] => simp [Memory.wf]
  | (a, v) :: (b, w) :: m =>
    rw [Memory.wf, Bool.and_eq_true, Bool.and_eq_true, Memory.wf_iff ((b, w) :: m)]
    constructor
    · rintro ⟨⟨hv, hab⟩, hp, hz⟩
      have hab : a < b := by simpa using hab
      refine ⟨List.pairwise_cons.2 ⟨fun c hc => ?_, hp⟩, fun c hc => ?_⟩
      · rcases List.mem_cons.1 hc with rfl | hc
        · exact hab
        · exact Nat.lt_trans hab ((List.pairwise_cons.1 hp).1 c hc)
      · rcases List.mem_cons.1 hc with rfl | hc
        · simpa using hv
        · exact hz c hc
    · rintro ⟨hp, hz⟩
      have hp' := List.pairwise_cons.1 hp
      exact ⟨⟨by simpa using hz (a, v) (by simp), by simpa using hp'.1 (b, w) (by simp)⟩, hp'.2,
        fun c hc => hz c (List.mem_cons_of_mem _ hc)⟩

/-- A memory with some bytes unlisted. -/
theorem Memory.wf_filter (m : Memory) (p : Host.Cell → Bool) (h : Memory.wf m = true) : Memory.wf (m.filter p) = true := by
  rw [Memory.wf_iff] at *
  exact ⟨h.1.filter _, fun c hc => h.2 c (List.mem_filter.1 hc).1⟩
theorem Memory.wf_clear (m : Memory) (a : Nat) (h : Memory.wf m = true) : Memory.wf (Memory.clear m a) = true := by
  rw [Memory.clear_eq_filter]; exact Memory.wf_filter m _ h
theorem Memory.wf_clearRange (m : Memory) (a n : Nat) (h : Memory.wf m = true) : Memory.wf (Memory.clearRange m a n) = true :=
  Memory.wf_filter m _ h

theorem Memory.mem_add (m : Memory) (a : Nat) (b : Byte) (c : Host.Cell) : c ∈ Memory.add m a b ↔ c = (a, b) ∨ c ∈ m := by
  induction m with
  | nil => simp [Memory.add]
  | cons p m ih =>
    obtain ⟨i, w⟩ := p
    simp only [Memory.add]
    split
    · simp
    · simp only [List.mem_cons, ih]; exact or_left_comm
theorem Memory.wf_add (m : Memory) (a : Nat) (b : Byte) (hb : b ≠ 0) (hm : ∀ c ∈ m, c.1 ≠ a) (h : Memory.wf m = true) :
    Memory.wf (Memory.add m a b) = true := by
  rw [Memory.wf_iff] at *
  refine ⟨?_, fun c hc => ?_⟩
  · induction m with
    | nil => simp [Memory.add]
    | cons p m ih =>
      obtain ⟨i, w⟩ := p
      have hp := List.pairwise_cons.1 h.1
      have hi : i ≠ a := hm (i, w) (by simp)
      simp only [Memory.add]
      split
      · refine List.pairwise_cons.2 ⟨fun c hc => ?_, h.1⟩
        rcases List.mem_cons.1 hc with rfl | hc
        · assumption
        · exact Nat.lt_trans (by assumption) (hp.1 c hc)
      · refine List.pairwise_cons.2 ⟨fun c hc => ?_, ih (fun c hc => hm c (by simp [hc])) ⟨hp.2, fun c hc => h.2 c (by simp [hc])⟩⟩
        rcases (Memory.mem_add ..).1 hc with rfl | hc
        · show i < a; omega
        · exact hp.1 c hc
  · rcases (Memory.mem_add ..).1 hc with rfl | hc
    · exact hb
    · exact h.2 c hc
theorem Memory.wf_write (m : Memory) (a : Nat) (b : Byte) (h : Memory.wf m = true) : Memory.wf (Memory.write m a b) = true := by
  unfold Memory.write
  split
  · exact Memory.wf_clear m a h
  · refine Memory.wf_add _ a b (by assumption) (Memory.clear_ne m a) (Memory.wf_clear m a h)
theorem Memory.wf_writeBytes (m : Memory) (a : Nat) (bs : List Byte) (h : Memory.wf m = true) :
    Memory.wf (Memory.writeBytes m a bs) = true := by
  induction bs generalizing m a with
  | nil => exact h
  | cons b bs ih => exact ih _ _ (Memory.wf_write m a b h)
/-- Writes one after another, as a list of them says. -/
theorem Memory.wf_foldl {α : Type} (l : List α) (f : Memory → α → Memory) (m : Memory)
    (hf : ∀ m x, Memory.wf m = true → Memory.wf (f m x) = true) (h : Memory.wf m = true) : Memory.wf (l.foldl f m) = true := by
  induction l generalizing m with
  | nil => exact h
  | cons x l ih => exact ih _ (hf m x h)

theorem Memory.read_of_lt (m : Memory) (a : Nat) (h : ∀ c ∈ m, a < c.1) : Memory.read m a = 0 := by
  induction m with
  | nil => rfl
  | cons p m ih =>
    obtain ⟨i, w⟩ := p
    have : a < i := h (i, w) (by simp)
    rw [Memory.read, if_neg (by omega), ih fun c hc => h c (by simp [hc])]

/-- Canonical memories that read alike are the same data. -/
theorem Memory.ext_of_wf (m n : Memory) (hm : Memory.wf m = true) (hn : Memory.wf n = true)
    (h : ∀ a, Memory.read m a = Memory.read n a) : m = n := by
  rw [Memory.wf_iff] at hm hn
  induction m generalizing n with
  | nil =>
    cases n with
    | nil => rfl
    | cons q n => exact absurd (by simpa [Memory.read] using (h q.1).symm) (hn.2 q (by simp))
  | cons p m ih =>
    cases n with
    | nil => exact absurd (by simpa [Memory.read] using h p.1) (hm.2 p (by simp))
    | cons q n =>
      obtain ⟨i, v⟩ := p
      obtain ⟨j, w⟩ := q
      have hm' := List.pairwise_cons.1 hm.1
      have hn' := List.pairwise_cons.1 hn.1
      have hv : v ≠ 0 := hm.2 (i, v) (by simp)
      have hw : w ≠ 0 := hn.2 (j, w) (by simp)
      rcases Nat.lt_trichotomy i j with e | e | e
      · have := h i
        rw [Memory.read, if_pos rfl, Memory.read_of_lt _ i fun c hc => by
          rcases List.mem_cons.1 hc with rfl | hc
          · exact e
          · exact Nat.lt_trans e (hn'.1 c hc)] at this
        exact absurd this hv
      · subst e
        have hvw : v = w := by simpa [Memory.read] using h i
        subst hvw
        have hr (a : Nat) : Memory.read m a = Memory.read n a := by
          have := h a
          by_cases e : i = a
          · subst e; rw [Memory.read_of_lt m i hm'.1, Memory.read_of_lt n i hn'.1]
          · simpa [Memory.read, e] using this
        rw [ih n ⟨hm'.2, fun c hc => hm.2 c (by simp [hc])⟩ ⟨hn'.2, fun c hc => hn.2 c (by simp [hc])⟩ hr]
      · have := h j
        rw [Memory.read_of_lt _ j fun c hc => by
          rcases List.mem_cons.1 hc with rfl | hc
          · exact e
          · exact Nat.lt_trans e (hm'.1 c hc), Memory.read, if_pos rfl] at this
        exact absurd this.symm hw

/-! ## The state's memories -/

theorem State.memWf_iff (s : State) :
    s.memWf = true ↔ Memory.wf s.mem = true ∧ Memory.wf s.sram = true ∧ Memory.wf s.dev.loader = true := by
  simp [State.memWf, and_assoc]
theorem State.reset_mem_wf : Memory.wf State.reset.mem = true := rfl
/-- An update that leaves the three memories alone keeps their form. -/
theorem State.memWf_of_eq (s t : State) (h : s.memWf = true) (hm : t.mem = s.mem) (hs : t.sram = s.sram)
    (hl : t.dev.loader = s.dev.loader) : t.memWf = true := by
  rw [State.memWf_iff] at *; rwa [hm, hs, hl]
/-- A property that each step of a fold keeps holds of its result. -/
theorem foldl_keeps {α β : Type} (P : α → Prop) (f : α → β → α) (hf : ∀ x y, P x → P (f x y)) (l : List β) :
    ∀ x, P x → P (l.foldl f x) := by
  induction l with
  | nil => exact fun x h => h
  | cons y l ih => exact fun x h => ih _ (hf x y h)
theorem State.memWf_noteCode (s : State) (c pa n : Nat) (h : s.memWf = true) : (s.noteCode c pa n).memWf = true := by
  simp only [State.noteCode]
  split
  · exact h
  · exact State.memWf_of_eq _ _ h rfl rfl rfl
theorem State.memWf_slicePmc (s : State) (m k n : Nat) (h : s.memWf = true) : (s.slicePmc m k n).memWf = true := by
  simp only [State.slicePmc]
  split <;> exact State.memWf_of_eq _ _ h rfl rfl rfl
theorem State.memWf_countSlice (s : State) (d x e c n : Nat) (h : s.memWf = true) : (s.countSlice d x e c n).memWf = true :=
  foldl_keeps (fun s : State => s.memWf = true) _ (fun t _ ht => State.memWf_slicePmc t _ _ _ ht) _ s h
/-- The evaluation of monitors changes no memory. -/
theorem State.memWf_evalLines (s : State) (d : Nat) (ls : List Nat) (h : s.memWf = true) : (s.evalLines d ls).memWf = true := by
  refine foldl_keeps (fun s : State => s.memWf = true) _ (fun t q ht => ?_) _ _ (State.memWf_of_eq s _ h rfl rfl rfl)
  split
  · exact State.memWf_countSlice _ _ _ _ _ _ ht
  · exact ht
theorem State.memWf_writePhys (s : State) (c : Nat) (d : Option Nat) (a : Nat) (bs : List Byte) (h : s.memWf = true) :
    (s.writePhys c d a bs).memWf = true := by
  unfold State.writePhys
  split
  · exact h
  · have h' := (State.memWf_iff _).1 (State.memWf_noteCode s c a bs.length h)
    have hw : State.memWf { s.noteCode c a bs.length with mem := (s.noteCode c a bs.length).mem.writeBytes a bs } = true :=
      (State.memWf_iff _).2 ⟨Memory.wf_writeBytes _ a bs h'.1, h'.2.1, h'.2.2⟩
    simp only [State.evalMonitors]
    split
    · exact State.memWf_evalLines _ _ _ hw
    · exact hw
theorem State.memWf_writeSram (s : State) (a : Nat) (bs : List Byte) (h : s.memWf = true) : (s.writeSram a bs).memWf = true := by
  have h' := (State.memWf_iff _).1 h
  exact (State.memWf_iff _).2 ⟨h'.1, Memory.wf_writeBytes _ a bs h'.2.1, h'.2.2⟩
theorem State.memWf_setObj (s : State) (a i : Nat) (v : Word) (h : s.memWf = true) : (s.setObj a i v).memWf = true := by
  have h' := (State.memWf_iff _).1 h
  exact (State.memWf_iff _).2 ⟨h'.1, Memory.wf_writeBytes _ _ _ h'.2.1, h'.2.2⟩

end Sys2Proof.Machine
end

