-- ==== Sys2Proof/Laws/PerInstr.lean ====
section
/-! SUPPORT. Every instruction's word leaves the chain bit, bit 31, clear (R65): one lemma for each constructor. -/

namespace Sys2Proof.Laws

/-- The word of the instruction, if it has one, is below 2^31. -/
def WordBound.Statement (i : Instr) : Prop := ∀ w, encode i = some w → w < 2 ^ 31

theorem WordBound.trap (x0 : BitVec 16) : WordBound.Statement (.trap x0) := fun w h => by cases h; simp only [wordOf]; omega
theorem WordBound.pushr (x0 : BitVec 17) : WordBound.Statement (.pushr x0) := fun w h => by cases h; simp only [wordOf]; omega
theorem WordBound.gsync (x0 : BitVec 8) : WordBound.Statement (.gsync x0) := fun w h => by cases h; simp only [wordOf]; omega
theorem WordBound.bra (x0 : BitVec 17) : WordBound.Statement (.bra x0) := fun w h => by cases h; simp only [wordOf]; omega
theorem WordBound.bz (x0 : BitVec 5) (x1 : BitVec 17) : WordBound.Statement (.bz x0 x1) := fun w h => by cases h; simp only [wordOf]; omega
theorem WordBound.bnz (x0 : BitVec 5) (x1 : BitVec 17) : WordBound.Statement (.bnz x0 x1) := fun w h => by cases h; simp only [wordOf]; omega
theorem WordBound.bany (x0 : BitVec 3) (x1 : BitVec 17) : WordBound.Statement (.bany x0 x1) := fun w h => by cases h; simp only [wordOf]; omega
theorem WordBound.ball (x0 : BitVec 3) (x1 : BitVec 17) : WordBound.Statement (.ball x0 x1) := fun w h => by cases h; simp only [wordOf]; omega
theorem WordBound.bnone (x0 : BitVec 3) (x1 : BitVec 17) : WordBound.Statement (.bnone x0 x1) := fun w h => by cases h; simp only [wordOf]; omega
theorem WordBound.bdiv (x0 : BitVec 3) (x1 : BitVec 17) : WordBound.Statement (.bdiv x0 x1) := fun w h => by cases h; simp only [wordOf]; omega
theorem WordBound.call (x0 : BitVec 25) : WordBound.Statement (.call x0) := fun w h => by cases h; simp only [wordOf]; omega
theorem WordBound.sadd (x0 : BitVec 5) (x1 : BitVec 5) (x2 : BitVec 5) : WordBound.Statement (.sadd x0 x1 x2) := fun w h => by cases h; simp only [wordOf]; omega
theorem WordBound.ssub (x0 : BitVec 5) (x1 : BitVec 5) (x2 : BitVec 5) : WordBound.Statement (.ssub x0 x1 x2) := fun w h => by cases h; simp only [wordOf]; omega
theorem WordBound.smul (x0 : BitVec 5) (x1 : BitVec 5) (x2 : BitVec 5) : WordBound.Statement (.smul x0 x1 x2) := fun w h => by cases h; simp only [wordOf]; omega
theorem WordBound.smulhiI32 (x0 : BitVec 5) (x1 : BitVec 5) (x2 : BitVec 5) : WordBound.Statement (.smulhiI32 x0 x1 x2) := fun w h => by cases h; simp only [wordOf]; omega
theorem WordBound.smulhiN32 (x0 : BitVec 5) (x1 : BitVec 5) (x2 : BitVec 5) : WordBound.Statement (.smulhiN32 x0 x1 x2) := fun w h => by cases h; simp only [wordOf]; omega
theorem WordBound.sand (x0 : BitVec 5) (x1 : BitVec 5) (x2 : BitVec 5) : WordBound.Statement (.sand x0 x1 x2) := fun w h => by cases h; simp only [wordOf]; omega
theorem WordBound.sor (x0 : BitVec 5) (x1 : BitVec 5) (x2 : BitVec 5) : WordBound.Statement (.sor x0 x1 x2) := fun w h => by cases h; simp only [wordOf]; omega
theorem WordBound.sxor (x0 : BitVec 5) (x1 : BitVec 5) (x2 : BitVec 5) : WordBound.Statement (.sxor x0 x1 x2) := fun w h => by cases h; simp only [wordOf]; omega
theorem WordBound.sshl (x0 : BitVec 5) (x1 : BitVec 5) (x2 : BitVec 5) : WordBound.Statement (.sshl x0 x1 x2) := fun w h => by cases h; simp only [wordOf]; omega
theorem WordBound.sshrN32 (x0 : BitVec 5) (x1 : BitVec 5) (x2 : BitVec 5) : WordBound.Statement (.sshrN32 x0 x1 x2) := fun w h => by cases h; simp only [wordOf]; omega
theorem WordBound.sshrI32 (x0 : BitVec 5) (x1 : BitVec 5) (x2 : BitVec 5) : WordBound.Statement (.sshrI32 x0 x1 x2) := fun w h => by cases h; simp only [wordOf]; omega
theorem WordBound.sminI32 (x0 : BitVec 5) (x1 : BitVec 5) (x2 : BitVec 5) : WordBound.Statement (.sminI32 x0 x1 x2) := fun w h => by cases h; simp only [wordOf]; omega
theorem WordBound.smaxI32 (x0 : BitVec 5) (x1 : BitVec 5) (x2 : BitVec 5) : WordBound.Statement (.smaxI32 x0 x1 x2) := fun w h => by cases h; simp only [wordOf]; omega
theorem WordBound.sminN32 (x0 : BitVec 5) (x1 : BitVec 5) (x2 : BitVec 5) : WordBound.Statement (.sminN32 x0 x1 x2) := fun w h => by cases h; simp only [wordOf]; omega
theorem WordBound.smaxN32 (x0 : BitVec 5) (x1 : BitVec 5) (x2 : BitVec 5) : WordBound.Statement (.smaxN32 x0 x1 x2) := fun w h => by cases h; simp only [wordOf]; omega
theorem WordBound.sclz (x0 : BitVec 5) (x1 : BitVec 5) : WordBound.Statement (.sclz x0 x1) := fun w h => by cases h; simp only [wordOf]; omega
theorem WordBound.spopc (x0 : BitVec 5) (x1 : BitVec 5) : WordBound.Statement (.spopc x0 x1) := fun w h => by cases h; simp only [wordOf]; omega
theorem WordBound.smov (x0 : BitVec 5) (x1 : BitVec 5) : WordBound.Statement (.smov x0 x1) := fun w h => by cases h; simp only [wordOf]; omega
theorem WordBound.ssltI32 (x0 : BitVec 5) (x1 : BitVec 5) (x2 : BitVec 5) : WordBound.Statement (.ssltI32 x0 x1 x2) := fun w h => by cases h; simp only [wordOf]; omega
theorem WordBound.ssltN32 (x0 : BitVec 5) (x1 : BitVec 5) (x2 : BitVec 5) : WordBound.Statement (.ssltN32 x0 x1 x2) := fun w h => by cases h; simp only [wordOf]; omega
theorem WordBound.sseq (x0 : BitVec 5) (x1 : BitVec 5) (x2 : BitVec 5) : WordBound.Statement (.sseq x0 x1 x2) := fun w h => by cases h; simp only [wordOf]; omega
theorem WordBound.sadd64 (x0 : BitVec 4) (x1 : BitVec 4) (x2 : BitVec 4) : WordBound.Statement (.sadd64 x0 x1 x2) := fun w h => by cases h; simp only [wordOf]; omega
theorem WordBound.ssub64 (x0 : BitVec 4) (x1 : BitVec 4) (x2 : BitVec 4) : WordBound.Statement (.ssub64 x0 x1 x2) := fun w h => by cases h; simp only [wordOf]; omega
theorem WordBound.saddi (x0 : BitVec 5) (x1 : BitVec 5) (x2 : BitVec 15) : WordBound.Statement (.saddi x0 x1 x2) := fun w h => by cases h; simp only [wordOf]; omega
theorem WordBound.sandi (x0 : BitVec 5) (x1 : BitVec 5) (x2 : BitVec 15) : WordBound.Statement (.sandi x0 x1 x2) := fun w h => by cases h; simp only [wordOf]; omega
theorem WordBound.sori (x0 : BitVec 5) (x1 : BitVec 5) (x2 : BitVec 15) : WordBound.Statement (.sori x0 x1 x2) := fun w h => by cases h; simp only [wordOf]; omega
theorem WordBound.sxori (x0 : BitVec 5) (x1 : BitVec 5) (x2 : BitVec 15) : WordBound.Statement (.sxori x0 x1 x2) := fun w h => by cases h; simp only [wordOf]; omega
theorem WordBound.sshiShl (x0 : BitVec 5) (x1 : BitVec 5) (x2 : BitVec 5) : WordBound.Statement (.sshiShl x0 x1 x2) := fun w h => by cases h; simp only [wordOf]; omega
theorem WordBound.sshiShrN32 (x0 : BitVec 5) (x1 : BitVec 5) (x2 : BitVec 5) : WordBound.Statement (.sshiShrN32 x0 x1 x2) := fun w h => by cases h; simp only [wordOf]; omega
theorem WordBound.sshiShrI32 (x0 : BitVec 5) (x1 : BitVec 5) (x2 : BitVec 5) : WordBound.Statement (.sshiShrI32 x0 x1 x2) := fun w h => by cases h; simp only [wordOf]; omega
theorem WordBound.sshiRotl (x0 : BitVec 5) (x1 : BitVec 5) (x2 : BitVec 5) : WordBound.Statement (.sshiRotl x0 x1 x2) := fun w h => by cases h; simp only [wordOf]; omega
theorem WordBound.slui (x0 : BitVec 5) (x1 : BitVec 20) : WordBound.Statement (.slui x0 x1) := fun w h => by cases h; simp only [wordOf]; omega
theorem WordBound.scmpi (x0 : BitVec 5) (x1 : BitVec 5) (x2 : BitVec 3) (x3 : BitVec 12) : WordBound.Statement (.scmpi x0 x1 x2 x3) := fun w h => by cases h; simp only [wordOf]; omega
theorem WordBound.sld (x0 : BitVec 5) (x1 : BitVec 4) (x2 : BitVec 15) : WordBound.Statement (.sld x0 x1 x2) := fun w h => by cases h; simp only [wordOf]; omega
theorem WordBound.sst (x0 : BitVec 5) (x1 : BitVec 4) (x2 : BitVec 15) : WordBound.Statement (.sst x0 x1 x2) := fun w h => by cases h; simp only [wordOf]; omega
theorem WordBound.lstart (x0 : BitVec 4) : WordBound.Statement (.lstart x0) := fun w h => by cases h; simp only [wordOf]; omega
theorem WordBound.nextit (x0 : BitVec 3) : WordBound.Statement (.nextit x0) := fun w h => by cases h; simp only [wordOf]; omega
theorem WordBound.brit (x0 : BitVec 17) : WordBound.Statement (.brit x0) := fun w h => by cases h; simp only [wordOf]; omega
theorem WordBound.getsr (x0 : BitVec 5) (x1 : BitVec 10) : WordBound.Statement (.getsr x0 x1) := fun w h => by cases h; simp only [wordOf]; omega
theorem WordBound.setsr (x0 : BitVec 5) (x1 : BitVec 10) : WordBound.Statement (.setsr x0 x1) := fun w h => by cases h; simp only [wordOf]; omega
theorem WordBound.waitc (x0 : BitVec 5) (x1 : BitVec 5) (x2 : BitVec 5) (x3 : BitVec 5) (x4 : BitVec 5) : WordBound.Statement (.waitc x0 x1 x2 x3 x4) := fun w h => by cases h; simp only [wordOf]; omega
theorem WordBound.vadd (x0 : BitVec 6) (x1 : BitVec 6) (x2 : BitVec 6) : WordBound.Statement (.vadd x0 x1 x2) := fun w h => by cases h; simp only [wordOf]; omega
theorem WordBound.vsub (x0 : BitVec 6) (x1 : BitVec 6) (x2 : BitVec 6) : WordBound.Statement (.vsub x0 x1 x2) := fun w h => by cases h; simp only [wordOf]; omega
theorem WordBound.vmul (x0 : BitVec 6) (x1 : BitVec 6) (x2 : BitVec 6) : WordBound.Statement (.vmul x0 x1 x2) := fun w h => by cases h; simp only [wordOf]; omega
theorem WordBound.vmulhiI32 (x0 : BitVec 6) (x1 : BitVec 6) (x2 : BitVec 6) : WordBound.Statement (.vmulhiI32 x0 x1 x2) := fun w h => by cases h; simp only [wordOf]; omega
theorem WordBound.vmulhiN32 (x0 : BitVec 6) (x1 : BitVec 6) (x2 : BitVec 6) : WordBound.Statement (.vmulhiN32 x0 x1 x2) := fun w h => by cases h; simp only [wordOf]; omega
theorem WordBound.vminI32 (x0 : BitVec 6) (x1 : BitVec 6) (x2 : BitVec 6) : WordBound.Statement (.vminI32 x0 x1 x2) := fun w h => by cases h; simp only [wordOf]; omega
theorem WordBound.vmaxI32 (x0 : BitVec 6) (x1 : BitVec 6) (x2 : BitVec 6) : WordBound.Statement (.vmaxI32 x0 x1 x2) := fun w h => by cases h; simp only [wordOf]; omega
theorem WordBound.vminN32 (x0 : BitVec 6) (x1 : BitVec 6) (x2 : BitVec 6) : WordBound.Statement (.vminN32 x0 x1 x2) := fun w h => by cases h; simp only [wordOf]; omega
theorem WordBound.vmaxN32 (x0 : BitVec 6) (x1 : BitVec 6) (x2 : BitVec 6) : WordBound.Statement (.vmaxN32 x0 x1 x2) := fun w h => by cases h; simp only [wordOf]; omega
theorem WordBound.vand (x0 : BitVec 6) (x1 : BitVec 6) (x2 : BitVec 6) : WordBound.Statement (.vand x0 x1 x2) := fun w h => by cases h; simp only [wordOf]; omega
theorem WordBound.vor (x0 : BitVec 6) (x1 : BitVec 6) (x2 : BitVec 6) : WordBound.Statement (.vor x0 x1 x2) := fun w h => by cases h; simp only [wordOf]; omega
theorem WordBound.vxor (x0 : BitVec 6) (x1 : BitVec 6) (x2 : BitVec 6) : WordBound.Statement (.vxor x0 x1 x2) := fun w h => by cases h; simp only [wordOf]; omega
theorem WordBound.vandn (x0 : BitVec 6) (x1 : BitVec 6) (x2 : BitVec 6) : WordBound.Statement (.vandn x0 x1 x2) := fun w h => by cases h; simp only [wordOf]; omega
theorem WordBound.vshl (x0 : BitVec 6) (x1 : BitVec 6) (x2 : BitVec 6) : WordBound.Statement (.vshl x0 x1 x2) := fun w h => by cases h; simp only [wordOf]; omega
theorem WordBound.vshrN32 (x0 : BitVec 6) (x1 : BitVec 6) (x2 : BitVec 6) : WordBound.Statement (.vshrN32 x0 x1 x2) := fun w h => by cases h; simp only [wordOf]; omega
theorem WordBound.vshrI32 (x0 : BitVec 6) (x1 : BitVec 6) (x2 : BitVec 6) : WordBound.Statement (.vshrI32 x0 x1 x2) := fun w h => by cases h; simp only [wordOf]; omega
theorem WordBound.vrotl (x0 : BitVec 6) (x1 : BitVec 6) (x2 : BitVec 6) : WordBound.Statement (.vrotl x0 x1 x2) := fun w h => by cases h; simp only [wordOf]; omega
theorem WordBound.vpopc (x0 : BitVec 6) (x1 : BitVec 6) : WordBound.Statement (.vpopc x0 x1) := fun w h => by cases h; simp only [wordOf]; omega
theorem WordBound.vclz (x0 : BitVec 6) (x1 : BitVec 6) : WordBound.Statement (.vclz x0 x1) := fun w h => by cases h; simp only [wordOf]; omega
theorem WordBound.vbrev (x0 : BitVec 6) (x1 : BitVec 6) : WordBound.Statement (.vbrev x0 x1) := fun w h => by cases h; simp only [wordOf]; omega
theorem WordBound.vabsdI32 (x0 : BitVec 6) (x1 : BitVec 6) (x2 : BitVec 6) : WordBound.Statement (.vabsdI32 x0 x1 x2) := fun w h => by cases h; simp only [wordOf]; omega
theorem WordBound.vaddsI32 (x0 : BitVec 6) (x1 : BitVec 6) (x2 : BitVec 6) : WordBound.Statement (.vaddsI32 x0 x1 x2) := fun w h => by cases h; simp only [wordOf]; omega
theorem WordBound.vsubsI32 (x0 : BitVec 6) (x1 : BitVec 6) (x2 : BitVec 6) : WordBound.Statement (.vsubsI32 x0 x1 x2) := fun w h => by cases h; simp only [wordOf]; omega
theorem WordBound.vadd64 (x0 : BitVec 5) (x1 : BitVec 5) (x2 : BitVec 5) : WordBound.Statement (.vadd64 x0 x1 x2) := fun w h => by cases h; simp only [wordOf]; omega
theorem WordBound.vsub64 (x0 : BitVec 5) (x1 : BitVec 5) (x2 : BitVec 5) : WordBound.Statement (.vsub64 x0 x1 x2) := fun w h => by cases h; simp only [wordOf]; omega
theorem WordBound.vdot4I8 (x0 : BitVec 6) (x1 : BitVec 6) (x2 : BitVec 6) : WordBound.Statement (.vdot4I8 x0 x1 x2) := fun w h => by cases h; simp only [wordOf]; omega
theorem WordBound.vdot2I16 (x0 : BitVec 6) (x1 : BitVec 6) (x2 : BitVec 6) : WordBound.Statement (.vdot2I16 x0 x1 x2) := fun w h => by cases h; simp only [wordOf]; omega
theorem WordBound.vinti (x0 : BitVec 5) (x1 : BitVec 6) (x2 : BitVec 6) (x3 : BitVec 8) : WordBound.Statement (.vinti x0 x1 x2 x3) := fun w h => by cases h; simp only [wordOf]; omega
theorem WordBound.vfaddF32 (x0 : BitVec 6) (x1 : BitVec 6) (x2 : BitVec 6) : WordBound.Statement (.vfaddF32 x0 x1 x2) := fun w h => by cases h; simp only [wordOf]; omega
theorem WordBound.vfsubF32 (x0 : BitVec 6) (x1 : BitVec 6) (x2 : BitVec 6) : WordBound.Statement (.vfsubF32 x0 x1 x2) := fun w h => by cases h; simp only [wordOf]; omega
theorem WordBound.vfmulF32 (x0 : BitVec 6) (x1 : BitVec 6) (x2 : BitVec 6) : WordBound.Statement (.vfmulF32 x0 x1 x2) := fun w h => by cases h; simp only [wordOf]; omega
theorem WordBound.vfminF32 (x0 : BitVec 6) (x1 : BitVec 6) (x2 : BitVec 6) : WordBound.Statement (.vfminF32 x0 x1 x2) := fun w h => by cases h; simp only [wordOf]; omega
theorem WordBound.vfmaxF32 (x0 : BitVec 6) (x1 : BitVec 6) (x2 : BitVec 6) : WordBound.Statement (.vfmaxF32 x0 x1 x2) := fun w h => by cases h; simp only [wordOf]; omega
theorem WordBound.vfabsF32 (x0 : BitVec 6) (x1 : BitVec 6) : WordBound.Statement (.vfabsF32 x0 x1) := fun w h => by cases h; simp only [wordOf]; omega
theorem WordBound.vfnegF32 (x0 : BitVec 6) (x1 : BitVec 6) : WordBound.Statement (.vfnegF32 x0 x1) := fun w h => by cases h; simp only [wordOf]; omega
theorem WordBound.vfcpsgnF32 (x0 : BitVec 6) (x1 : BitVec 6) (x2 : BitVec 6) : WordBound.Statement (.vfcpsgnF32 x0 x1 x2) := fun w h => by cases h; simp only [wordOf]; omega
theorem WordBound.vfaddF16x2 (x0 : BitVec 6) (x1 : BitVec 6) (x2 : BitVec 6) : WordBound.Statement (.vfaddF16x2 x0 x1 x2) := fun w h => by cases h; simp only [wordOf]; omega
theorem WordBound.vfsubF16x2 (x0 : BitVec 6) (x1 : BitVec 6) (x2 : BitVec 6) : WordBound.Statement (.vfsubF16x2 x0 x1 x2) := fun w h => by cases h; simp only [wordOf]; omega
theorem WordBound.vfmulF16x2 (x0 : BitVec 6) (x1 : BitVec 6) (x2 : BitVec 6) : WordBound.Statement (.vfmulF16x2 x0 x1 x2) := fun w h => by cases h; simp only [wordOf]; omega
theorem WordBound.vfminF16x2 (x0 : BitVec 6) (x1 : BitVec 6) (x2 : BitVec 6) : WordBound.Statement (.vfminF16x2 x0 x1 x2) := fun w h => by cases h; simp only [wordOf]; omega
theorem WordBound.vfmaxF16x2 (x0 : BitVec 6) (x1 : BitVec 6) (x2 : BitVec 6) : WordBound.Statement (.vfmaxF16x2 x0 x1 x2) := fun w h => by cases h; simp only [wordOf]; omega
theorem WordBound.vfaddB16x2 (x0 : BitVec 6) (x1 : BitVec 6) (x2 : BitVec 6) : WordBound.Statement (.vfaddB16x2 x0 x1 x2) := fun w h => by cases h; simp only [wordOf]; omega
theorem WordBound.vfsubB16x2 (x0 : BitVec 6) (x1 : BitVec 6) (x2 : BitVec 6) : WordBound.Statement (.vfsubB16x2 x0 x1 x2) := fun w h => by cases h; simp only [wordOf]; omega
theorem WordBound.vfmulB16x2 (x0 : BitVec 6) (x1 : BitVec 6) (x2 : BitVec 6) : WordBound.Statement (.vfmulB16x2 x0 x1 x2) := fun w h => by cases h; simp only [wordOf]; omega
theorem WordBound.vfminB16x2 (x0 : BitVec 6) (x1 : BitVec 6) (x2 : BitVec 6) : WordBound.Statement (.vfminB16x2 x0 x1 x2) := fun w h => by cases h; simp only [wordOf]; omega
theorem WordBound.vfmaxB16x2 (x0 : BitVec 6) (x1 : BitVec 6) (x2 : BitVec 6) : WordBound.Statement (.vfmaxB16x2 x0 x1 x2) := fun w h => by cases h; simp only [wordOf]; omega
theorem WordBound.vfaddF64 (x0 : BitVec 5) (x1 : BitVec 5) (x2 : BitVec 5) : WordBound.Statement (.vfaddF64 x0 x1 x2) := fun w h => by cases h; simp only [wordOf]; omega
theorem WordBound.vfsubF64 (x0 : BitVec 5) (x1 : BitVec 5) (x2 : BitVec 5) : WordBound.Statement (.vfsubF64 x0 x1 x2) := fun w h => by cases h; simp only [wordOf]; omega
theorem WordBound.vfmulF64 (x0 : BitVec 5) (x1 : BitVec 5) (x2 : BitVec 5) : WordBound.Statement (.vfmulF64 x0 x1 x2) := fun w h => by cases h; simp only [wordOf]; omega
theorem WordBound.vfminF64 (x0 : BitVec 5) (x1 : BitVec 5) (x2 : BitVec 5) : WordBound.Statement (.vfminF64 x0 x1 x2) := fun w h => by cases h; simp only [wordOf]; omega
theorem WordBound.vfmaxF64 (x0 : BitVec 5) (x1 : BitVec 5) (x2 : BitVec 5) : WordBound.Statement (.vfmaxF64 x0 x1 x2) := fun w h => by cases h; simp only [wordOf]; omega
theorem WordBound.vcmulB16 (x0 : BitVec 6) (x1 : BitVec 6) (x2 : BitVec 6) : WordBound.Statement (.vcmulB16 x0 x1 x2) := fun w h => by cases h; simp only [wordOf]; omega
theorem WordBound.vfmaF32 (x0 : BitVec 6) (x1 : BitVec 6) (x2 : BitVec 6) (x3 : BitVec 5) : WordBound.Statement (.vfmaF32 x0 x1 x2 x3) := fun w h => by cases h; simp only [wordOf]; omega
theorem WordBound.vfmaF16x2 (x0 : BitVec 6) (x1 : BitVec 6) (x2 : BitVec 6) (x3 : BitVec 5) : WordBound.Statement (.vfmaF16x2 x0 x1 x2 x3) := fun w h => by cases h; simp only [wordOf]; omega
theorem WordBound.vfmaB16x2 (x0 : BitVec 6) (x1 : BitVec 6) (x2 : BitVec 6) (x3 : BitVec 5) : WordBound.Statement (.vfmaB16x2 x0 x1 x2 x3) := fun w h => by cases h; simp only [wordOf]; omega
theorem WordBound.vfmaF64 (x0 : BitVec 5) (x1 : BitVec 5) (x2 : BitVec 5) (x3 : BitVec 4) : WordBound.Statement (.vfmaF64 x0 x1 x2 x3) := fun w h => by cases h; simp only [wordOf]; omega
theorem WordBound.vcmpI32 (x0 : BitVec 3) (x1 : BitVec 3) (x2 : BitVec 6) (x3 : BitVec 6) : WordBound.Statement (.vcmpI32 x0 x1 x2 x3) := fun w h => by cases h; simp only [wordOf]; omega
theorem WordBound.vcmpN32 (x0 : BitVec 3) (x1 : BitVec 3) (x2 : BitVec 6) (x3 : BitVec 6) : WordBound.Statement (.vcmpN32 x0 x1 x2 x3) := fun w h => by cases h; simp only [wordOf]; omega
theorem WordBound.vcmpF32 (x0 : BitVec 3) (x1 : BitVec 3) (x2 : BitVec 6) (x3 : BitVec 6) : WordBound.Statement (.vcmpF32 x0 x1 x2 x3) := fun w h => by cases h; simp only [wordOf]; omega
theorem WordBound.vcmpF16x2 (x0 : BitVec 3) (x1 : BitVec 3) (x2 : BitVec 6) (x3 : BitVec 6) : WordBound.Statement (.vcmpF16x2 x0 x1 x2 x3) := fun w h => by cases h; simp only [wordOf]; omega
theorem WordBound.vcvtF32I32 (x0 : BitVec 6) (x1 : BitVec 6) : WordBound.Statement (.vcvtF32I32 x0 x1) := fun w h => by cases h; simp only [wordOf]; omega
theorem WordBound.vcvtF32N32 (x0 : BitVec 6) (x1 : BitVec 6) : WordBound.Statement (.vcvtF32N32 x0 x1) := fun w h => by cases h; simp only [wordOf]; omega
theorem WordBound.vcvtI32F32 (x0 : BitVec 6) (x1 : BitVec 6) : WordBound.Statement (.vcvtI32F32 x0 x1) := fun w h => by cases h; simp only [wordOf]; omega
theorem WordBound.vcvtI32F32Rz (x0 : BitVec 6) (x1 : BitVec 6) : WordBound.Statement (.vcvtI32F32Rz x0 x1) := fun w h => by cases h; simp only [wordOf]; omega
theorem WordBound.vcvtN32F32 (x0 : BitVec 6) (x1 : BitVec 6) : WordBound.Statement (.vcvtN32F32 x0 x1) := fun w h => by cases h; simp only [wordOf]; omega
theorem WordBound.vcvtF16x2F32 (x0 : BitVec 6) (x1 : BitVec 5) : WordBound.Statement (.vcvtF16x2F32 x0 x1) := fun w h => by cases h; simp only [wordOf]; omega
theorem WordBound.vcvtB16x2F32 (x0 : BitVec 6) (x1 : BitVec 5) : WordBound.Statement (.vcvtB16x2F32 x0 x1) := fun w h => by cases h; simp only [wordOf]; omega
theorem WordBound.vcvtF32F16 (x0 : BitVec 6) (x1 : BitVec 6) : WordBound.Statement (.vcvtF32F16 x0 x1) := fun w h => by cases h; simp only [wordOf]; omega
theorem WordBound.vcvtF32F16h (x0 : BitVec 6) (x1 : BitVec 6) : WordBound.Statement (.vcvtF32F16h x0 x1) := fun w h => by cases h; simp only [wordOf]; omega
theorem WordBound.vcvtF32B16 (x0 : BitVec 6) (x1 : BitVec 6) : WordBound.Statement (.vcvtF32B16 x0 x1) := fun w h => by cases h; simp only [wordOf]; omega
theorem WordBound.vcvtF32B16h (x0 : BitVec 6) (x1 : BitVec 6) : WordBound.Statement (.vcvtF32B16h x0 x1) := fun w h => by cases h; simp only [wordOf]; omega
theorem WordBound.vcvtF64F32 (x0 : BitVec 5) (x1 : BitVec 6) : WordBound.Statement (.vcvtF64F32 x0 x1) := fun w h => by cases h; simp only [wordOf]; omega
theorem WordBound.vcvtF32F64 (x0 : BitVec 6) (x1 : BitVec 5) : WordBound.Statement (.vcvtF32F64 x0 x1) := fun w h => by cases h; simp only [wordOf]; omega
theorem WordBound.vcvtE4x4F32 (x0 : BitVec 6) (x1 : BitVec 4) : WordBound.Statement (.vcvtE4x4F32 x0 x1) := fun w h => by cases h; simp only [wordOf]; omega
theorem WordBound.vcvtE5x4F32 (x0 : BitVec 6) (x1 : BitVec 4) : WordBound.Statement (.vcvtE5x4F32 x0 x1) := fun w h => by cases h; simp only [wordOf]; omega
theorem WordBound.vcvtE2x8F32 (x0 : BitVec 6) (x1 : BitVec 3) : WordBound.Statement (.vcvtE2x8F32 x0 x1) := fun w h => by cases h; simp only [wordOf]; omega
theorem WordBound.vcvtL6F32 (x0 : BitVec 6) (x1 : BitVec 6) : WordBound.Statement (.vcvtL6F32 x0 x1) := fun w h => by cases h; simp only [wordOf]; omega
theorem WordBound.vcvtF32L6 (x0 : BitVec 6) (x1 : BitVec 6) : WordBound.Statement (.vcvtF32L6 x0 x1) := fun w h => by cases h; simp only [wordOf]; omega
theorem WordBound.vcvtF32E4 (x0 : BitVec 6) (x1 : BitVec 6) : WordBound.Statement (.vcvtF32E4 x0 x1) := fun w h => by cases h; simp only [wordOf]; omega
theorem WordBound.vcvtF32E5 (x0 : BitVec 6) (x1 : BitVec 6) : WordBound.Statement (.vcvtF32E5 x0 x1) := fun w h => by cases h; simp only [wordOf]; omega
theorem WordBound.vcvtF32E2 (x0 : BitVec 6) (x1 : BitVec 6) : WordBound.Statement (.vcvtF32E2 x0 x1) := fun w h => by cases h; simp only [wordOf]; omega
theorem WordBound.vrcp (x0 : BitVec 6) (x1 : BitVec 6) : WordBound.Statement (.vrcp x0 x1) := fun w h => by cases h; simp only [wordOf]; omega
theorem WordBound.vrsq (x0 : BitVec 6) (x1 : BitVec 6) : WordBound.Statement (.vrsq x0 x1) := fun w h => by cases h; simp only [wordOf]; omega
theorem WordBound.vsqrt (x0 : BitVec 6) (x1 : BitVec 6) : WordBound.Statement (.vsqrt x0 x1) := fun w h => by cases h; simp only [wordOf]; omega
theorem WordBound.vexp2 (x0 : BitVec 6) (x1 : BitVec 6) : WordBound.Statement (.vexp2 x0 x1) := fun w h => by cases h; simp only [wordOf]; omega
theorem WordBound.vlog2 (x0 : BitVec 6) (x1 : BitVec 6) : WordBound.Statement (.vlog2 x0 x1) := fun w h => by cases h; simp only [wordOf]; omega
theorem WordBound.vsint (x0 : BitVec 6) (x1 : BitVec 6) : WordBound.Statement (.vsint x0 x1) := fun w h => by cases h; simp only [wordOf]; omega
theorem WordBound.vcost (x0 : BitVec 6) (x1 : BitVec 6) : WordBound.Statement (.vcost x0 x1) := fun w h => by cases h; simp only [wordOf]; omega
theorem WordBound.vtanh (x0 : BitVec 6) (x1 : BitVec 6) : WordBound.Statement (.vtanh x0 x1) := fun w h => by cases h; simp only [wordOf]; omega
theorem WordBound.vtab (x0 : BitVec 3) (x1 : BitVec 6) (x2 : BitVec 6) : WordBound.Statement (.vtab x0 x1 x2) := fun w h => by cases h; simp only [wordOf]; omega
theorem WordBound.vmov (x0 : BitVec 2) (x1 : BitVec 6) (x2 : BitVec 6) : WordBound.Statement (.vmov x0 x1 x2) := fun w h => by cases h; simp only [wordOf]; omega
theorem WordBound.vmovs (x0 : BitVec 6) (x1 : BitVec 5) : WordBound.Statement (.vmovs x0 x1) := fun w h => by cases h; simp only [wordOf]; omega
theorem WordBound.vlaneid (x0 : BitVec 6) : WordBound.Statement (.vlaneid x0) := fun w h => by cases h; simp only [wordOf]; omega
theorem WordBound.vreadl (x0 : BitVec 5) (x1 : BitVec 6) (x2 : BitVec 5) : WordBound.Statement (.vreadl x0 x1 x2) := fun w h => by cases h; simp only [wordOf]; omega
theorem WordBound.vwritel (x0 : BitVec 6) (x1 : BitVec 5) (x2 : BitVec 5) : WordBound.Statement (.vwritel x0 x1 x2) := fun w h => by cases h; simp only [wordOf]; omega
theorem WordBound.vfirst (x0 : BitVec 6) (x1 : BitVec 6) : WordBound.Statement (.vfirst x0 x1) := fun w h => by cases h; simp only [wordOf]; omega
theorem WordBound.vshflIdx (x0 : BitVec 6) (x1 : BitVec 6) (x2 : BitVec 6) : WordBound.Statement (.vshflIdx x0 x1 x2) := fun w h => by cases h; simp only [wordOf]; omega
theorem WordBound.vshflUp (x0 : BitVec 6) (x1 : BitVec 6) (x2 : BitVec 5) : WordBound.Statement (.vshflUp x0 x1 x2) := fun w h => by cases h; simp only [wordOf]; omega
theorem WordBound.vshflDown (x0 : BitVec 6) (x1 : BitVec 6) (x2 : BitVec 5) : WordBound.Statement (.vshflDown x0 x1 x2) := fun w h => by cases h; simp only [wordOf]; omega
theorem WordBound.vshflXor (x0 : BitVec 6) (x1 : BitVec 6) (x2 : BitVec 5) : WordBound.Statement (.vshflXor x0 x1 x2) := fun w h => by cases h; simp only [wordOf]; omega
theorem WordBound.vshflBcast (x0 : BitVec 6) (x1 : BitVec 6) (x2 : BitVec 5) : WordBound.Statement (.vshflBcast x0 x1 x2) := fun w h => by cases h; simp only [wordOf]; omega
theorem WordBound.raddI32 (x0 : BitVec 6) (x1 : BitVec 6) : WordBound.Statement (.raddI32 x0 x1) := fun w h => by cases h; simp only [wordOf]; omega
theorem WordBound.raddF32 (x0 : BitVec 6) (x1 : BitVec 6) : WordBound.Statement (.raddF32 x0 x1) := fun w h => by cases h; simp only [wordOf]; omega
theorem WordBound.rminI32 (x0 : BitVec 6) (x1 : BitVec 6) : WordBound.Statement (.rminI32 x0 x1) := fun w h => by cases h; simp only [wordOf]; omega
theorem WordBound.rmaxI32 (x0 : BitVec 6) (x1 : BitVec 6) : WordBound.Statement (.rmaxI32 x0 x1) := fun w h => by cases h; simp only [wordOf]; omega
theorem WordBound.rminN32 (x0 : BitVec 6) (x1 : BitVec 6) : WordBound.Statement (.rminN32 x0 x1) := fun w h => by cases h; simp only [wordOf]; omega
theorem WordBound.rmaxN32 (x0 : BitVec 6) (x1 : BitVec 6) : WordBound.Statement (.rmaxN32 x0 x1) := fun w h => by cases h; simp only [wordOf]; omega
theorem WordBound.rminF32 (x0 : BitVec 6) (x1 : BitVec 6) : WordBound.Statement (.rminF32 x0 x1) := fun w h => by cases h; simp only [wordOf]; omega
theorem WordBound.rmaxF32 (x0 : BitVec 6) (x1 : BitVec 6) : WordBound.Statement (.rmaxF32 x0 x1) := fun w h => by cases h; simp only [wordOf]; omega
theorem WordBound.rand (x0 : BitVec 6) (x1 : BitVec 6) : WordBound.Statement (.rand x0 x1) := fun w h => by cases h; simp only [wordOf]; omega
theorem WordBound.ror (x0 : BitVec 6) (x1 : BitVec 6) : WordBound.Statement (.ror x0 x1) := fun w h => by cases h; simp only [wordOf]; omega
theorem WordBound.rxor (x0 : BitVec 6) (x1 : BitVec 6) : WordBound.Statement (.rxor x0 x1) := fun w h => by cases h; simp only [wordOf]; omega
theorem WordBound.scanaddI32 (x0 : BitVec 6) (x1 : BitVec 6) : WordBound.Statement (.scanaddI32 x0 x1) := fun w h => by cases h; simp only [wordOf]; omega
theorem WordBound.scanaddI32Ex (x0 : BitVec 6) (x1 : BitVec 6) : WordBound.Statement (.scanaddI32Ex x0 x1) := fun w h => by cases h; simp only [wordOf]; omega
theorem WordBound.scanaddF32 (x0 : BitVec 6) (x1 : BitVec 6) : WordBound.Statement (.scanaddF32 x0 x1) := fun w h => by cases h; simp only [wordOf]; omega
theorem WordBound.vvoteAny (x0 : BitVec 3) (x1 : BitVec 3) : WordBound.Statement (.vvoteAny x0 x1) := fun w h => by cases h; simp only [wordOf]; omega
theorem WordBound.vvoteAll (x0 : BitVec 3) (x1 : BitVec 3) : WordBound.Statement (.vvoteAll x0 x1) := fun w h => by cases h; simp only [wordOf]; omega
theorem WordBound.vvoteBallot (x0 : BitVec 5) (x1 : BitVec 3) : WordBound.Statement (.vvoteBallot x0 x1) := fun w h => by cases h; simp only [wordOf]; omega
theorem WordBound.vvoteCount (x0 : BitVec 6) (x1 : BitVec 3) : WordBound.Statement (.vvoteCount x0 x1) := fun w h => by cases h; simp only [wordOf]; omega
theorem WordBound.pand (x0 : BitVec 3) (x1 : BitVec 3) (x2 : BitVec 3) : WordBound.Statement (.pand x0 x1 x2) := fun w h => by cases h; simp only [wordOf]; omega
theorem WordBound.por (x0 : BitVec 3) (x1 : BitVec 3) (x2 : BitVec 3) : WordBound.Statement (.por x0 x1 x2) := fun w h => by cases h; simp only [wordOf]; omega
theorem WordBound.pxor (x0 : BitVec 3) (x1 : BitVec 3) (x2 : BitVec 3) : WordBound.Statement (.pxor x0 x1 x2) := fun w h => by cases h; simp only [wordOf]; omega
theorem WordBound.pandn (x0 : BitVec 3) (x1 : BitVec 3) (x2 : BitVec 3) : WordBound.Statement (.pandn x0 x1 x2) := fun w h => by cases h; simp only [wordOf]; omega
theorem WordBound.pnot (x0 : BitVec 3) (x1 : BitVec 3) : WordBound.Statement (.pnot x0 x1) := fun w h => by cases h; simp only [wordOf]; omega
theorem WordBound.pmov (x0 : BitVec 3) (x1 : BitVec 3) : WordBound.Statement (.pmov x0 x1) := fun w h => by cases h; simp only [wordOf]; omega
theorem WordBound.setexec (x0 : BitVec 3) : WordBound.Statement (.setexec x0) := fun w h => by cases h; simp only [wordOf]; omega
theorem WordBound.getexec (x0 : BitVec 3) : WordBound.Statement (.getexec x0) := fun w h => by cases h; simp only [wordOf]; omega
theorem WordBound.pfroms (x0 : BitVec 3) (x1 : BitVec 5) : WordBound.Statement (.pfroms x0 x1) := fun w h => by cases h; simp only [wordOf]; omega
theorem WordBound.ptos (x0 : BitVec 5) (x1 : BitVec 3) : WordBound.Statement (.ptos x0 x1) := fun w h => by cases h; simp only [wordOf]; omega
theorem WordBound.execand (x0 : BitVec 3) : WordBound.Statement (.execand x0) := fun w h => by cases h; simp only [wordOf]; omega
theorem WordBound.ppopc (x0 : BitVec 3) (x1 : BitVec 3) : WordBound.Statement (.ppopc x0 x1) := fun w h => by cases h; simp only [wordOf]; omega
theorem WordBound.vld (x0 : BitVec 3) (x1 : BitVec 1) (x2 : BitVec 2) (x3 : BitVec 6) (x4 : BitVec 6) (x5 : BitVec 4) (x6 : BitVec 2) : WordBound.Statement (.vld x0 x1 x2 x3 x4 x5 x6) := fun w h => by cases h; simp only [wordOf]; omega
theorem WordBound.vst (x0 : BitVec 3) (x1 : BitVec 1) (x2 : BitVec 2) (x3 : BitVec 6) (x4 : BitVec 6) (x5 : BitVec 4) (x6 : BitVec 2) : WordBound.Statement (.vst x0 x1 x2 x3 x4 x5 x6) := fun w h => by cases h; simp only [wordOf]; omega
theorem WordBound.vatomAddI32 (x0 : BitVec 6) (x1 : BitVec 6) (x2 : BitVec 4) (x3 : BitVec 2) : WordBound.Statement (.vatomAddI32 x0 x1 x2 x3) := fun w h => by cases h; simp only [wordOf]; omega
theorem WordBound.vatomAddF32 (x0 : BitVec 6) (x1 : BitVec 6) (x2 : BitVec 4) (x3 : BitVec 2) : WordBound.Statement (.vatomAddF32 x0 x1 x2 x3) := fun w h => by cases h; simp only [wordOf]; omega
theorem WordBound.vatomAddB16x2 (x0 : BitVec 6) (x1 : BitVec 6) (x2 : BitVec 4) (x3 : BitVec 2) : WordBound.Statement (.vatomAddB16x2 x0 x1 x2 x3) := fun w h => by cases h; simp only [wordOf]; omega
theorem WordBound.vatomMinI32 (x0 : BitVec 6) (x1 : BitVec 6) (x2 : BitVec 4) (x3 : BitVec 2) : WordBound.Statement (.vatomMinI32 x0 x1 x2 x3) := fun w h => by cases h; simp only [wordOf]; omega
theorem WordBound.vatomMaxI32 (x0 : BitVec 6) (x1 : BitVec 6) (x2 : BitVec 4) (x3 : BitVec 2) : WordBound.Statement (.vatomMaxI32 x0 x1 x2 x3) := fun w h => by cases h; simp only [wordOf]; omega
theorem WordBound.vatomMinN32 (x0 : BitVec 6) (x1 : BitVec 6) (x2 : BitVec 4) (x3 : BitVec 2) : WordBound.Statement (.vatomMinN32 x0 x1 x2 x3) := fun w h => by cases h; simp only [wordOf]; omega
theorem WordBound.vatomMaxN32 (x0 : BitVec 6) (x1 : BitVec 6) (x2 : BitVec 4) (x3 : BitVec 2) : WordBound.Statement (.vatomMaxN32 x0 x1 x2 x3) := fun w h => by cases h; simp only [wordOf]; omega
theorem WordBound.vatomAnd (x0 : BitVec 6) (x1 : BitVec 6) (x2 : BitVec 4) (x3 : BitVec 2) : WordBound.Statement (.vatomAnd x0 x1 x2 x3) := fun w h => by cases h; simp only [wordOf]; omega
theorem WordBound.vatomOr (x0 : BitVec 6) (x1 : BitVec 6) (x2 : BitVec 4) (x3 : BitVec 2) : WordBound.Statement (.vatomOr x0 x1 x2 x3) := fun w h => by cases h; simp only [wordOf]; omega
theorem WordBound.vatomXor (x0 : BitVec 6) (x1 : BitVec 6) (x2 : BitVec 4) (x3 : BitVec 2) : WordBound.Statement (.vatomXor x0 x1 x2 x3) := fun w h => by cases h; simp only [wordOf]; omega
theorem WordBound.vatomXchg (x0 : BitVec 6) (x1 : BitVec 6) (x2 : BitVec 4) (x3 : BitVec 2) : WordBound.Statement (.vatomXchg x0 x1 x2 x3) := fun w h => by cases h; simp only [wordOf]; omega
theorem WordBound.vatomCas (x0 : BitVec 5) (x1 : BitVec 6) (x2 : BitVec 4) (x3 : BitVec 2) : WordBound.Statement (.vatomCas x0 x1 x2 x3) := fun w h => by cases h; simp only [wordOf]; omega
theorem WordBound.vatomIncw (x0 : BitVec 6) (x1 : BitVec 6) (x2 : BitVec 4) (x3 : BitVec 2) : WordBound.Statement (.vatomIncw x0 x1 x2 x3) := fun w h => by cases h; simp only [wordOf]; omega
theorem WordBound.vatomDecw (x0 : BitVec 6) (x1 : BitVec 6) (x2 : BitVec 4) (x3 : BitVec 2) : WordBound.Statement (.vatomDecw x0 x1 x2 x3) := fun w h => by cases h; simp only [wordOf]; omega
theorem WordBound.vatomAddI64 (x0 : BitVec 5) (x1 : BitVec 6) (x2 : BitVec 4) (x3 : BitVec 2) : WordBound.Statement (.vatomAddI64 x0 x1 x2 x3) := fun w h => by cases h; simp only [wordOf]; omega
theorem WordBound.mwait (x0 : BitVec 4) (x1 : BitVec 5) (x2 : BitVec 5) (x3 : BitVec 4) : WordBound.Statement (.mwait x0 x1 x2 x3) := fun w h => by cases h; simp only [wordOf]; omega
theorem WordBound.binit (x0 : BitVec 5) (x1 : BitVec 5) : WordBound.Statement (.binit x0 x1) := fun w h => by cases h; simp only [wordOf]; omega
theorem WordBound.barrive (x0 : BitVec 5) : WordBound.Statement (.barrive x0) := fun w h => by cases h; simp only [wordOf]; omega
theorem WordBound.barrivePeer (x0 : BitVec 5) : WordBound.Statement (.barrivePeer x0) := fun w h => by cases h; simp only [wordOf]; omega
theorem WordBound.bexpect (x0 : BitVec 5) (x1 : BitVec 5) : WordBound.Statement (.bexpect x0 x1) := fun w h => by cases h; simp only [wordOf]; omega
theorem WordBound.bwait (x0 : BitVec 5) (x1 : BitVec 5) : WordBound.Statement (.bwait x0 x1) := fun w h => by cases h; simp only [wordOf]; omega
theorem WordBound.btry (x0 : BitVec 5) (x1 : BitVec 5) (x2 : BitVec 5) : WordBound.Statement (.btry x0 x1 x2) := fun w h => by cases h; simp only [wordOf]; omega
theorem WordBound.binval (x0 : BitVec 5) : WordBound.Statement (.binval x0) := fun w h => by cases h; simp only [wordOf]; omega
theorem WordBound.cpy (x0 : BitVec 2) (x1 : BitVec 2) : WordBound.Statement (.cpy x0 x1) := fun w h => by cases h; simp only [wordOf]; omega
theorem WordBound.cpymc (x0 : BitVec 2) (x1 : BitVec 8) (x2 : BitVec 2) : WordBound.Statement (.cpymc x0 x1 x2) := fun w h => by cases h; simp only [wordOf]; omega
theorem WordBound.cpyb (x0 : BitVec 2) (x1 : BitVec 2) : WordBound.Statement (.cpyb x0 x1) := fun w h => by cases h; simp only [wordOf]; omega
theorem WordBound.cpyout (x0 : BitVec 2) (x1 : BitVec 2) : WordBound.Statement (.cpyout x0 x1) := fun w h => by cases h; simp only [wordOf]; omega
theorem WordBound.cpypar (x0 : BitVec 2) (x1 : BitVec 1) (x2 : BitVec 2) : WordBound.Statement (.cpypar x0 x1 x2) := fun w h => by cases h; simp only [wordOf]; omega
theorem WordBound.cpygf (x0 : BitVec 2) (x1 : BitVec 8) (x2 : BitVec 1) (x3 : BitVec 2) : WordBound.Statement (.cpygf x0 x1 x2 x3) := fun w h => by cases h; simp only [wordOf]; omega
theorem WordBound.cpypeer (x0 : BitVec 2) (x1 : BitVec 2) : WordBound.Statement (.cpypeer x0 x1) := fun w h => by cases h; simp only [wordOf]; omega
theorem WordBound.chn (x0 : BitVec 4) : WordBound.Statement (.chn x0) := fun w h => by cases h; simp only [wordOf]; omega
theorem WordBound.pref (x0 : BitVec 4) (x1 : BitVec 5) (x2 : BitVec 2) : WordBound.Statement (.pref x0 x1 x2) := fun w h => by cases h; simp only [wordOf]; omega
theorem WordBound.wback (x0 : BitVec 5) (x1 : BitVec 5) : WordBound.Statement (.wback x0 x1) := fun w h => by cases h; simp only [wordOf]; omega
theorem WordBound.discard (x0 : BitVec 5) (x1 : BitVec 5) : WordBound.Statement (.discard x0 x1) := fun w h => by cases h; simp only [wordOf]; omega
theorem WordBound.bankcfg (x0 : BitVec 5) (x1 : BitVec 2) : WordBound.Statement (.bankcfg x0 x1) := fun w h => by cases h; simp only [wordOf]; omega
theorem WordBound.bankq (x0 : BitVec 5) (x1 : BitVec 5) : WordBound.Statement (.bankq x0 x1) := fun w h => by cases h; simp only [wordOf]; omega
theorem WordBound.deposit (x0 : BitVec 4) (x1 : BitVec 6) : WordBound.Statement (.deposit x0 x1) := fun w h => by cases h; simp only [wordOf]; omega
theorem WordBound.mma (x0 : BitVec 4) (x1 : BitVec 2) (x2 : BitVec 2) (x3 : BitVec 5) (x4 : BitVec 5) (x5 : BitVec 1) (x6 : BitVec 1) : WordBound.Statement (.mma x0 x1 x2 x3 x4 x5 x6) := fun w h => by cases h; simp only [wordOf]; omega
theorem WordBound.mscale (x0 : BitVec 2) (x1 : BitVec 2) (x2 : BitVec 5) (x3 : BitVec 5) : WordBound.Statement (.mscale x0 x1 x2 x3) := fun w h => by cases h; simp only [wordOf]; omega
theorem WordBound.tzero (x0 : BitVec 2) : WordBound.Statement (.tzero x0) := fun w h => by cases h; simp only [wordOf]; omega
theorem WordBound.tload (x0 : BitVec 2) (x1 : BitVec 5) (x2 : BitVec 5) (x3 : BitVec 1) (x4 : BitVec 2) : WordBound.Statement (.tload x0 x1 x2 x3 x4) := fun w h => by cases h; simp only [wordOf]; omega
theorem WordBound.tstore (x0 : BitVec 2) (x1 : BitVec 5) (x2 : BitVec 5) (x3 : BitVec 1) (x4 : BitVec 2) : WordBound.Statement (.tstore x0 x1 x2 x3 x4) := fun w h => by cases h; simp only [wordOf]; omega
theorem WordBound.taddst (x0 : BitVec 2) (x1 : BitVec 5) (x2 : BitVec 5) (x3 : BitVec 1) (x4 : BitVec 2) : WordBound.Statement (.taddst x0 x1 x2 x3 x4) := fun w h => by cases h; simp only [wordOf]; omega
theorem WordBound.tmove (x0 : BitVec 2) (x1 : BitVec 2) : WordBound.Statement (.tmove x0 x1) := fun w h => by cases h; simp only [wordOf]; omega
theorem WordBound.mquant (x0 : BitVec 2) (x1 : BitVec 2) (x2 : BitVec 2) (x3 : BitVec 5) (x4 : BitVec 5) (x5 : BitVec 2) : WordBound.Statement (.mquant x0 x1 x2 x3 x4 x5) := fun w h => by cases h; simp only [wordOf]; omega
theorem WordBound.mbatch (x0 : BitVec 5) : WordBound.Statement (.mbatch x0) := fun w h => by cases h; simp only [wordOf]; omega
theorem WordBound.mwaitb (x0 : BitVec 5) : WordBound.Statement (.mwaitb x0) := fun w h => by cases h; simp only [wordOf]; omega
theorem WordBound.sigchk (x0 : BitVec 20) : WordBound.Statement (.sigchk x0) := fun w h => by cases h; simp only [wordOf]; omega
theorem WordBound.sigset (x0 : BitVec 20) : WordBound.Statement (.sigset x0) := fun w h => by cases h; simp only [wordOf]; omega
theorem WordBound.seal (x0 : BitVec 6) (x1 : BitVec 6) (x2 : BitVec 3) : WordBound.Statement (.seal x0 x1 x2) := fun w h => by cases h; simp only [wordOf]; omega
theorem WordBound.sealNovec (x0 : BitVec 3) : WordBound.Statement (.sealNovec x0) := fun w h => by cases h; simp only [wordOf]; omega
theorem WordBound.tblload (x0 : BitVec 4) (x1 : BitVec 3) : WordBound.Statement (.tblload x0 x1) := fun w h => by cases h; simp only [wordOf]; omega
theorem WordBound.tblloadLog (x0 : BitVec 4) : WordBound.Statement (.tblloadLog x0) := fun w h => by cases h; simp only [wordOf]; omega
theorem WordBound.tblswap (x0 : BitVec 1) (x1 : BitVec 8) : WordBound.Statement (.tblswap x0 x1) := fun w h => by cases h; simp only [wordOf]; omega
theorem WordBound.grprdCnt (x0 : BitVec 5) (x1 : BitVec 5) : WordBound.Statement (.grprdCnt x0 x1) := fun w h => by cases h; simp only [wordOf]; omega
theorem WordBound.grprdMem (x0 : BitVec 5) (x1 : BitVec 5) (x2 : BitVec 5) : WordBound.Statement (.grprdMem x0 x1 x2) := fun w h => by cases h; simp only [wordOf]; omega
theorem WordBound.grprdSelf (x0 : BitVec 5) (x1 : BitVec 5) : WordBound.Statement (.grprdSelf x0 x1) := fun w h => by cases h; simp only [wordOf]; omega
theorem WordBound.nop : WordBound.Statement .nop := fun w h => by cases h; simp only [wordOf]; omega
theorem WordBound.exit : WordBound.Statement .exit := fun w h => by cases h; simp only [wordOf]; omega
theorem WordBound.ret : WordBound.Statement .ret := fun w h => by cases h; simp only [wordOf]; omega
theorem WordBound.bpt : WordBound.Statement .bpt := fun w h => by cases h; simp only [wordOf]; omega
theorem WordBound.yield : WordBound.Statement .yield := fun w h => by cases h; simp only [wordOf]; omega
theorem WordBound.rtt : WordBound.Statement .rtt := fun w h => by cases h; simp only [wordOf]; omega
theorem WordBound.join : WordBound.Statement .join := fun w h => by cases h; simp only [wordOf]; omega
theorem WordBound.bsync : WordBound.Statement .bsync := fun w h => by cases h; simp only [wordOf]; omega
theorem WordBound.lstop : WordBound.Statement .lstop := fun w h => by cases h; simp only [wordOf]; omega
theorem WordBound.fence : WordBound.Statement .fence := fun w h => by cases h; simp only [wordOf]; omega
theorem WordBound.fenceRel : WordBound.Statement .fenceRel := fun w h => by cases h; simp only [wordOf]; omega
theorem WordBound.fenceAcq : WordBound.Statement .fenceAcq := fun w h => by cases h; simp only [wordOf]; omega
theorem WordBound.opfence : WordBound.Statement .opfence := fun w h => by cases h; simp only [wordOf]; omega
theorem WordBound.evExitComplete : WordBound.Statement .evExitComplete := fun _ h => nomatch h
theorem WordBound.evWarpBoost : WordBound.Statement .evWarpBoost := fun _ h => nomatch h
theorem WordBound.evLoadReturn : WordBound.Statement .evLoadReturn := fun _ h => nomatch h
theorem WordBound.evStorePerformed : WordBound.Statement .evStorePerformed := fun _ h => nomatch h
theorem WordBound.evAtomicReturn : WordBound.Statement .evAtomicReturn := fun _ h => nomatch h
theorem WordBound.evAlmondEntry : WordBound.Statement .evAlmondEntry := fun _ h => nomatch h
theorem WordBound.evCopyComplete : WordBound.Statement .evCopyComplete := fun _ h => nomatch h
theorem WordBound.evChainStep : WordBound.Statement .evChainStep := fun _ h => nomatch h
theorem WordBound.evMatrixEntry : WordBound.Statement .evMatrixEntry := fun _ h => nomatch h
theorem WordBound.evAdmission : WordBound.Statement .evAdmission := fun _ h => nomatch h
theorem WordBound.evSegmentModeChange : WordBound.Statement .evSegmentModeChange := fun _ h => nomatch h
theorem WordBound.evArrivalLogAppend : WordBound.Statement .evArrivalLogAppend := fun _ h => nomatch h
theorem WordBound.evMonitorPoll : WordBound.Statement .evMonitorPoll := fun _ h => nomatch h
theorem WordBound.evBarrierPoll : WordBound.Statement .evBarrierPoll := fun _ h => nomatch h
theorem WordBound.evSpanEnd : WordBound.Statement .evSpanEnd := fun _ h => nomatch h
theorem WordBound.evForcedSpanEnd : WordBound.Statement .evForcedSpanEnd := fun _ h => nomatch h
theorem WordBound.evSpanRecord : WordBound.Statement .evSpanRecord := fun _ h => nomatch h
theorem WordBound.evRunEnd : WordBound.Statement .evRunEnd := fun _ h => nomatch h
theorem WordBound.evCommit : WordBound.Statement .evCommit := fun _ h => nomatch h
theorem WordBound.evHeldStore : WordBound.Statement .evHeldStore := fun _ h => nomatch h
theorem WordBound.evClusterRead : WordBound.Statement .evClusterRead := fun _ h => nomatch h
theorem WordBound.evTreqr : WordBound.Statement .evTreqr := fun _ h => nomatch h
theorem WordBound.evTreqw : WordBound.Statement .evTreqw := fun _ h => nomatch h
theorem WordBound.evTreqb : WordBound.Statement .evTreqb := fun _ h => nomatch h
theorem WordBound.evTokd : WordBound.Statement .evTokd := fun _ h => nomatch h
theorem WordBound.evTokn : WordBound.Statement .evTokn := fun _ h => nomatch h
theorem WordBound.evDatab : WordBound.Statement .evDatab := fun _ h => nomatch h
theorem WordBound.evPreq : WordBound.Statement .evPreq := fun _ h => nomatch h
theorem WordBound.evPact : WordBound.Statement .evPact := fun _ h => nomatch h
theorem WordBound.evPdone : WordBound.Statement .evPdone := fun _ h => nomatch h
theorem WordBound.evPdeact : WordBound.Statement .evPdeact := fun _ h => nomatch h
theorem WordBound.evPack : WordBound.Statement .evPack := fun _ h => nomatch h
theorem WordBound.evWbd : WordBound.Statement .evWbd := fun _ h => nomatch h
theorem WordBound.evWbn : WordBound.Statement .evWbn := fun _ h => nomatch h
theorem WordBound.evTransientTimeout : WordBound.Statement .evTransientTimeout := fun _ h => nomatch h
theorem WordBound.evBypassTimeout : WordBound.Statement .evBypassTimeout := fun _ h => nomatch h
theorem WordBound.evPersistentDemandRepeat : WordBound.Statement .evPersistentDemandRepeat := fun _ h => nomatch h
theorem WordBound.evPwatch : WordBound.Statement .evPwatch := fun _ h => nomatch h
theorem WordBound.evHeadUrgent : WordBound.Statement .evHeadUrgent := fun _ h => nomatch h
theorem WordBound.evRingRegister : WordBound.Statement .evRingRegister := fun _ h => nomatch h
theorem WordBound.evRingUnregister : WordBound.Statement .evRingUnregister := fun _ h => nomatch h
theorem WordBound.evDoorbell : WordBound.Statement .evDoorbell := fun _ h => nomatch h
theorem WordBound.evRingFreeze : WordBound.Statement .evRingFreeze := fun _ h => nomatch h
theorem WordBound.evRingRemap : WordBound.Statement .evRingRemap := fun _ h => nomatch h
theorem WordBound.evEntryConsume : WordBound.Statement .evEntryConsume := fun _ h => nomatch h
theorem WordBound.evNodeComplete : WordBound.Statement .evNodeComplete := fun _ h => nomatch h
theorem WordBound.evNodeLaunch : WordBound.Statement .evNodeLaunch := fun _ h => nomatch h
theorem WordBound.evRpfTranslate : WordBound.Statement .evRpfTranslate := fun _ h => nomatch h
theorem WordBound.evNodeCopy : WordBound.Statement .evNodeCopy := fun _ h => nomatch h
theorem WordBound.evNodeChain : WordBound.Statement .evNodeChain := fun _ h => nomatch h
theorem WordBound.evNodeBundle : WordBound.Statement .evNodeBundle := fun _ h => nomatch h
theorem WordBound.evNodeSignal : WordBound.Statement .evNodeSignal := fun _ h => nomatch h
theorem WordBound.evNodeEvfence : WordBound.Statement .evNodeEvfence := fun _ h => nomatch h
theorem WordBound.evNodeTimed : WordBound.Statement .evNodeTimed := fun _ h => nomatch h
theorem WordBound.evNodeResync : WordBound.Statement .evNodeResync := fun _ h => nomatch h
theorem WordBound.evTimedPreempt : WordBound.Statement .evTimedPreempt := fun _ h => nomatch h
theorem WordBound.evTimedResume : WordBound.Statement .evTimedResume := fun _ h => nomatch h
theorem WordBound.evTimedLaunch : WordBound.Statement .evTimedLaunch := fun _ h => nomatch h
theorem WordBound.evStraggler : WordBound.Statement .evStraggler := fun _ h => nomatch h
theorem WordBound.evGo : WordBound.Statement .evGo := fun _ h => nomatch h
theorem WordBound.evDepositSort : WordBound.Statement .evDepositSort := fun _ h => nomatch h
theorem WordBound.evGangOffer : WordBound.Statement .evGangOffer := fun _ h => nomatch h
theorem WordBound.evPlace : WordBound.Statement .evPlace := fun _ h => nomatch h
theorem WordBound.evPlaced : WordBound.Statement .evPlaced := fun _ h => nomatch h
theorem WordBound.evRefused : WordBound.Statement .evRefused := fun _ h => nomatch h
theorem WordBound.evRetired : WordBound.Statement .evRetired := fun _ h => nomatch h
theorem WordBound.evSave : WordBound.Statement .evSave := fun _ h => nomatch h
theorem WordBound.evGangSave : WordBound.Statement .evGangSave := fun _ h => nomatch h
theorem WordBound.evSaved : WordBound.Statement .evSaved := fun _ h => nomatch h
theorem WordBound.evRestore : WordBound.Statement .evRestore := fun _ h => nomatch h
theorem WordBound.evFault : WordBound.Statement .evFault := fun _ h => nomatch h
theorem WordBound.evPret : WordBound.Statement .evPret := fun _ h => nomatch h
theorem WordBound.evContextCreate : WordBound.Statement .evContextCreate := fun _ h => nomatch h
theorem WordBound.evContextRelease : WordBound.Statement .evContextRelease := fun _ h => nomatch h
theorem WordBound.evTeardown : WordBound.Statement .evTeardown := fun _ h => nomatch h
theorem WordBound.evDriverPreempt : WordBound.Statement .evDriverPreempt := fun _ h => nomatch h
theorem WordBound.evDriverResume : WordBound.Statement .evDriverResume := fun _ h => nomatch h
theorem WordBound.evGot : WordBound.Statement .evGot := fun _ h => nomatch h
theorem WordBound.evPrdone : WordBound.Statement .evPrdone := fun _ h => nomatch h
theorem WordBound.evPrfail : WordBound.Statement .evPrfail := fun _ h => nomatch h
theorem WordBound.evInvalidate : WordBound.Statement .evInvalidate := fun _ h => nomatch h
theorem WordBound.evInvalidationDone : WordBound.Statement .evInvalidationDone := fun _ h => nomatch h
theorem WordBound.evUnfence : WordBound.Statement .evUnfence := fun _ h => nomatch h
theorem WordBound.evQclear : WordBound.Statement .evQclear := fun _ h => nomatch h
theorem WordBound.evPeerSetUp : WordBound.Statement .evPeerSetUp := fun _ h => nomatch h
theorem WordBound.evRegisterWrite : WordBound.Statement .evRegisterWrite := fun _ h => nomatch h
theorem WordBound.evWarmReset : WordBound.Statement .evWarmReset := fun _ h => nomatch h
theorem WordBound.evColdReset : WordBound.Statement .evColdReset := fun _ h => nomatch h
theorem WordBound.evHreq : WordBound.Statement .evHreq := fun _ h => nomatch h
theorem WordBound.evHealthPeriodic : WordBound.Statement .evHealthPeriodic := fun _ h => nomatch h
theorem WordBound.evHealthRecord : WordBound.Statement .evHealthRecord := fun _ h => nomatch h
theorem WordBound.evLdrgo : WordBound.Statement .evLdrgo := fun _ h => nomatch h
theorem WordBound.evFirmwareVerified : WordBound.Statement .evFirmwareVerified := fun _ h => nomatch h
theorem WordBound.evHeartbeatMissed : WordBound.Statement .evHeartbeatMissed := fun _ h => nomatch h
theorem WordBound.evInboundWrite : WordBound.Statement .evInboundWrite := fun _ h => nomatch h
theorem WordBound.evInboundRead : WordBound.Statement .evInboundRead := fun _ h => nomatch h
theorem WordBound.evLinkRetrain : WordBound.Statement .evLinkRetrain := fun _ h => nomatch h
theorem WordBound.evTransportRead : WordBound.Statement .evTransportRead := fun _ h => nomatch h
theorem WordBound.evTransportWrite : WordBound.Statement .evTransportWrite := fun _ h => nomatch h
theorem WordBound.evTransportAtomic : WordBound.Statement .evTransportAtomic := fun _ h => nomatch h
theorem WordBound.evCpypeerData : WordBound.Statement .evCpypeerData := fun _ h => nomatch h
theorem WordBound.evTransportCompletion : WordBound.Statement .evTransportCompletion := fun _ h => nomatch h
theorem WordBound.evPeerDown : WordBound.Statement .evPeerDown := fun _ h => nomatch h
theorem WordBound.evFlitRetransmit : WordBound.Statement .evFlitRetransmit := fun _ h => nomatch h
theorem WordBound.evParityDiscard : WordBound.Statement .evParityDiscard := fun _ h => nomatch h
theorem WordBound.evGroupReplay : WordBound.Statement .evGroupReplay := fun _ h => nomatch h
theorem WordBound.evUncorrectable : WordBound.Statement .evUncorrectable := fun _ h => nomatch h
theorem WordBound.evScrubStep : WordBound.Statement .evScrubStep := fun _ h => nomatch h
theorem WordBound.evQuarantineClean : WordBound.Statement .evQuarantineClean := fun _ h => nomatch h
theorem WordBound.evDemeritDecay : WordBound.Statement .evDemeritDecay := fun _ h => nomatch h
theorem WordBound.evPtpMessage : WordBound.Statement .evPtpMessage := fun _ h => nomatch h
theorem WordBound.evSyncTimeout : WordBound.Statement .evSyncTimeout := fun _ h => nomatch h
theorem WordBound.evHoldoverTimeout : WordBound.Statement .evHoldoverTimeout := fun _ h => nomatch h
theorem WordBound.evClockStep : WordBound.Statement .evClockStep := fun _ h => nomatch h
theorem WordBound.evPowerTrip : WordBound.Statement .evPowerTrip := fun _ h => nomatch h
theorem WordBound.evJunction95 : WordBound.Statement .evJunction95 := fun _ h => nomatch h
theorem WordBound.evJunction105 : WordBound.Statement .evJunction105 := fun _ h => nomatch h
theorem WordBound.evFlowLow : WordBound.Statement .evFlowLow := fun _ h => nomatch h
theorem WordBound.evAdaptiveUndervolting : WordBound.Statement .evAdaptiveUndervolting := fun _ h => nomatch h
theorem WordBound.evPmcWrap : WordBound.Statement .evPmcWrap := fun _ h => nomatch h

end Sys2Proof.Laws
end

