-- ==== Sys2Proof/Tests/Slice0.lean ====
section
/-! SUPPORT. The tests of the model: ill-formed terms that the check refuses, words written out from the encodings
of the manual, single steps whose results are worked from its rules, and for each obligation with hypotheses a
state and operands that meet them, each clause's in turn (witness_…). -/

namespace Sys2Proof.Machine

-- one theorem at a time: the kernel's evaluations together would take more threads than the check allows
set_option Elab.async false

/-! ## States to test in -/

/-- The machine with the word `w` placed at the program counter of its one warp. -/
def placed (w : Nat) : State := State.reset.withFetchWord 32 w
/-- That machine as a group begins, a NOP its word. -/
def base : State := (placed 0).beginGroup
/-- The warp's registers changed, as the words of a group read them and as they stand. -/
def State.atRegs (s : State) (f : Regs → Regs) : State := (s.onRegs f).beginGroup
/-- The warp changed. -/
def State.atWarp (s : State) (f : Warp → Warp) : State := (s.onWarp f).beginGroup
/-- S[n] holding `v`. -/
def State.withS (s : State) (n : Nat) (v : Word) : State := s.atRegs fun r => r.setSn n v
/-- V[n] holding `v` in every lane. -/
def State.withV (s : State) (n : Nat) (v : Word) : State := s.atRegs fun r => r.setEntry n (Vector.replicate 32 v)
/-- The arguments of an event. -/
def State.withEv (s : State) (a : EvArgs) : State := { s with ev := a }
/-- Whether a meaning answers a next state with a property. -/
def givesNext (o : Out) (p : State → Bool) : Bool :=
  match o with
  | .next t => p t
  | _ => false
theorem exists_of_givesNext {o : Out} {p : State → Bool} (h : givesNext o p = true) : ∃ t, o = .next t ∧ p t = true := by
  cases o with
  | next t => exact ⟨t, rfl, h⟩
  | fault _ => cases h
  | refused _ => cases h
theorem namesBelow_of {s : State} {l : List (Nat × Nat)} (h : (l.all fun r => decide (r.1 + r.2 ≤ s.snap.vbnd.toNat)) = true) :
    NamesBelow s l := fun r hr => of_decide_eq_true (List.all_eq_true.mp h r hr)

/-! ## Witnesses: encodings, steps and scalars -/

theorem witness_DecodeOfEncodeIsIdentity :
    (Instr.vld 2 0 0 8 3 2 1).wf = true ∧ encode (.vld 2 0 0 8 3 2 1) = some 0x40810191 ∧ (Instr.vld 2 0 0 8 3 2 1).isEvent = false := by
  decide +kernel
theorem witness_DecodedWordsAreWellFormed :
    0xC0810191 < 2 ^ 32 ∧ decodeWord 0xC0810191 = .ok (.vld 2 0 0 8 3 2 1) := by
  exact ⟨by decide, by rfl⟩
theorem witness_UnlistedMajorsAreSubcodeOne :
    [0xBA000000, 0x3FFFFFFF, 0x54000000, 0x6A000000, 0x76000000, 0xFFFFFFFF].all (fun w =>
      [0x1D, 0x1E, 0x1F, 0x2A, 0x2B, 0x2C, 0x2D, 0x2E, 0x2F, 0x35, 0x36, 0x37,
      0x3B, 0x3C, 0x3D, 0x3E, 0x3F].contains (fld w 25 6)) = true := by decide +kernel
theorem witness_StepIssuesTheGroupAtThePc :
    let s := placed 0x08630001
    s.agenda = [] ∧ s.dev.off = false ∧ s.idle < 256 ∧ s.rival = none ∧ s.warp.mayIssue = true
    ∧ s.warp.pendTrap = none ∧ s.packet = .words [0x08630001, 0, 0]
    ∧ Nat.testBit 0x08630001 31 = false ∧ decodeWord 0x08630001 = .ok (.saddi 6 6 1)
    ∧ let b := ({ s.notePacket with fresh := s.fresh + 2 } : State).freshSpan.beginGroup
      spanOver [(0x08630001, .saddi 6 6 1)] b = false ∧ boundCheck [(0x08630001, .saddi 6 6 1)] b = none
      ∧ givesNext (exec (.saddi 6 6 1) { b with grp := { b.grp with word := 0x08630001, ended := .done } }) (fun t =>
          t.grp.ended == .done && !logFull b (foldWord s.warp.handler 0x08630001 t)) = true := by
  refine ⟨rfl, rfl, by decide, by decide +kernel, by decide +kernel, rfl, by decide +kernel, by decide +kernel, rfl, ?_⟩
  decide +kernel
/-- The packet at the program counter with these words (R61). -/
def packed (ws : List Nat) : State :=
  { placed 0 with mem := ws.zipIdx.foldl (fun m q => m.writeBytes (0x200000 + 4 * q.2) (bytesOfNat 4 q.1)) (placed 0).mem }
/-- SADD S6 chained to VMOVS V5, two VECTOR words of one register, three of them, and a VADD chained to a WAITC that waits. -/
theorem witness_StepIssuesTheGroupAtThePc_chained :
    (∀ q ∈ ([(.sadd 6 1 2, [.vmovs 5 6]), (.vadd 5 1 2, [.vsub 5 3 4]), (.vadd 5 1 2, [.vsub 6 3 4, .vmul 7 1 1]),
        (.vadd 5 1 2, [.waitc 0 0 0 0 0])] : List (Instr × List Instr)),
      let word (i : Instr) : Nat := (encode i).getD 0
      let w := word q.1
      let more := (q.2.dropLast.map fun i => word i + 2 ^ 31) ++ (q.2.getLast?.map word).toList
      let ws := (w + 2 ^ 31) :: more ++ List.replicate (2 - more.length) 0
      let s := (packed ws).onRegs fun r => { r with cnt := { r.cnt with l := 1 } }
      s.agenda = [] ∧ s.dev.off = false ∧ s.idle < 256 ∧ s.rival = none ∧ s.warp.mayIssue = true ∧ s.warp.pendTrap = none
      ∧ s.packet = .words ws ∧ s.warp.regs.chkrole = 0 ∧ s.warp.pc.slot.val = 0 ∧ (encode q.1).isSome = true ∧ q.2.all (fun i => (encode i).isSome) = true
      ∧ 7 < s.warp.regs.vbnd.toNat ∧ (0 : BitVec 5).toNat < s.warp.regs.cnt.l.toNat ∧ s.warp.latch = none ∧ s.warp.out = []) := by
  decide +kernel
/-- The two words of such a group read their sources as they stood (R68). -/
theorem test_step_chained :
    givesNext (step ((packed [(encode (.sadd 6 1 2)).getD 0 + 2 ^ 31, (encode (.vmovs 5 6)).getD 0, 0]).onRegs fun r => ((r.setSn 1 3).setSn 2 4).setSn 6 9))
      (fun t => t.warp.regs.s[6] == 7 && (t.warp.regs.entry 5)[31] == 9 && t.warp.pc.slot == 2) = true := by decide +kernel
/-- S6 stands one higher at slot 1 of packet 0 (R62, R114). -/
theorem test_step_saddi : givesNext (step (placed 0x08630001)) (fun t =>
    t.warp.regs.s[6] == 1 && t.warp.pc == { packet := 0, slot := 1 } && t.agenda == []) = true := by decide +kernel
theorem witness_StepTakesTheNextEventOfTheAgenda :
    ({ base with agenda := [.event .evColdReset {}] } : State).agenda = [.event .evColdReset {}] ∧ base.dev.off = false
    ∧ (base.onDev fun d => { d with off := true }).dev.off = true ∧ Instr.evPtpMessage ≠ Instr.evColdReset := by
  decide +kernel

/-- SCMPI at -1 against the immediate -1 and 0, under each condition (R117). -/
theorem witness_ScmpiWritesTheTruthOfItsCondition :
    let x := (base.withS 3 0xFFFFFFFF).srcS 3
    let v (i : BitVec 12) : Word := BitVec.ofInt 32 i.toInt
    x = v 0xFFF ∧ x ≠ v 0 ∧ x.toInt < (v 0).toInt ∧ (v 0xFFF).toInt ≤ x.toInt ∧ ¬ x.toNat < (v 0xFFF).toNat
    ∧ (v 0).toNat ≤ x.toNat ∧ ¬ (v 0).toInt < x.toInt ∧ x.toInt ≤ (v 0xFFF).toInt := by decide +kernel
/-- p + OFF17 at the ends of 0 to 2^30 - 1, and just past them (R120, R123). -/
def atPacket (p : BitVec 30) : State := base.atWarp fun w => { w with pc := { packet := p, slot := 2 } }
theorem witness_BranchesGoWhereTheirConditionSends :
    let t (p : BitVec 30) (o : BitVec 17) : Int := (atPacket p).warp.pc.packet.toNat + o.toInt
    t 0 0 = 0 ∧ t 0 0x1FFFF = -1 ∧ t (2 ^ 30 - 1) 0 = 2 ^ 30 - 1 ∧ t (2 ^ 30 - 1) 1 = 2 ^ 30
    ∧ decide (base.srcS 3 = 0) = true ∧ decide (base.srcS 3 ≠ 0) = false
    ∧ decide ((base.withS 3 1).srcS 3 = 0) = false ∧ decide ((base.withS 3 1).srcS 3 ≠ 0) = true
    ∧ decide (base.srcP 2 &&& base.snap.exec ≠ 0) = false ∧ decide (base.srcP 2 &&& base.snap.exec = 0) = true
    ∧ decide (base.srcP 2 &&& base.snap.exec = base.snap.exec) = false
    ∧ let e := base.atRegs fun r => { r with exec := 0 }
      decide (e.srcP 2 &&& e.snap.exec ≠ 0) = false ∧ decide (e.srcP 2 &&& e.snap.exec = e.snap.exec) = true := by
  decide +kernel
theorem witness_CallAndReturnFollowTheLink :
    let t (p : BitVec 30) (o : BitVec 25) : Int := (atPacket p).warp.pc.packet.toNat + o.toInt
    t 0 0 = 0 ∧ (atPacket 0).warp.pc.packet.toNat + 1 < 2 ^ 30 ∧ t 0 0x1FFFFFF = -1
    ∧ t (2 ^ 30 - 1) 0 = 2 ^ 30 - 1 ∧ ¬ (atPacket (2 ^ 30 - 1)).warp.pc.packet.toNat + 1 < 2 ^ 30
    ∧ ((base.withS 30 0x3FFFFFFF).srcS 30).toNat < 2 ^ 30 ∧ 2 ^ 30 ≤ ((base.withS 30 0x40000000).srcS 30).toNat := by
  decide +kernel
/-- A reconvergence stack of `n` entries. -/
def stacked (n : Nat) : State := base.atWarp fun w => { w with stack := List.replicate n ⟨false, {}, 0xFF⟩ }
theorem witness_PushrPushesAReconvergencePoint :
    let t (p : BitVec 30) (o : BitVec 17) : Int := (atPacket p).warp.pc.packet.toNat + o.toInt
    t (2 ^ 30 - 1) 0 = 2 ^ 30 - 1 ∧ t (2 ^ 30 - 1) 1 = 2 ^ 30 ∧ (stacked 31).warp.stack.length = 31
    ∧ (stacked 32).warp.stack.length = 32 := by decide +kernel
theorem witness_DivergenceSplitsAndJoinReconverges :
    let pred (s : State) (v : Word) : State := s.atRegs fun r => { r with p := r.p.set 1 v }
    let tr (s : State) := s.snap.exec &&& s.srcP 1
    let fa (s : State) := s.snap.exec &&& ~~~ s.srcP 1
    base.warp.stack = []
    ∧ ((stacked 1).warp.stack ≠ [] ∧ tr (stacked 1) = 0)
    ∧ (tr (pred (stacked 1) 0xFFFFFFFF) ≠ 0 ∧ fa (pred (stacked 1) 0xFFFFFFFF) = 0)
    ∧ (let s := pred (stacked 32) 1; s.warp.stack ≠ [] ∧ tr s ≠ 0 ∧ fa s ≠ 0 ∧ 32 ≤ s.warp.stack.length)
    ∧ (let s := pred (stacked 31) 1; s.warp.stack ≠ [] ∧ tr s ≠ 0 ∧ fa s ≠ 0 ∧ s.warp.stack.length < 32
        ∧ s.warp.pc.packet.toNat + (0 : BitVec 17).toInt = 0 ∧ s.warp.pc.packet.toNat + (-1 : BitVec 17).toInt < 0)
    ∧ (stacked 1).warp.stack = [⟨false, {}, 0xFF⟩] := by decide +kernel

/-- A handler at 0x40000 whose entry is packet 3, with every trap enabled (R392). -/
def handled : State := base.onCtx 0 fun c => { c with trapdesc := #v[0x40000, 0, 3, 0, 0xFFFFFFFE, 0xFFFFFFFF, 0, 0] }
theorem witness_TrapEntryGoesToTheHandler :
    handled.warp.regs.chkrole = 0 ∧ handled.warp.handler = false ∧ (handled.ctx handled.warp.ctx).hbase ≠ 0
    ∧ (handled.ctx handled.warp.ctx).trapEnable.getLsbD 7 = true := by decide +kernel
theorem witness_UnhandledTrapsLoseTheGrid :
    base.warp.regs.chkrole = 0 ∧ base.warp.park = .ready ∧ (base.grid base.warp.grid).lost = false
    ∧ (base.grid base.warp.grid).ended = false ∧ (base.ctx base.warp.ctx).hbase = 0
    ∧ (handled.onWarp fun w => { w with handler := true }).warp.handler = true
    ∧ ((handled.onCtx 0 fun c => { c with trapdesc := c.trapdesc.set 4 0 }).ctx 0).trapEnable.getLsbD 7 = false := by
  decide +kernel
/-- In handler mode, TRAPPC naming a slot of a packet. -/
def inHandler (p : Nat) (slot : Nat) : State :=
  handled.atWarp fun w => { w with handler := true, regs := { w.regs with trapPc := BitVec.ofNat 32 (4 * p + slot) } }
theorem witness_TrapWordsEnterAfterTheirGroup :
    let cl (s : State) := (s.grid s.warp.grid).codeLen
    let tp (s : State) := s.snap.trapPc.toNat
    base.warp.handler = false
    ∧ (let s := inHandler 0 3; s.warp.handler = true ∧ tp s % 4 = 3)
    ∧ (let s := inHandler 341 0; s.warp.handler = true ∧ cl s ≤ tp s / 4)
    ∧ (let s := inHandler 340 2; s.warp.handler = true ∧ tp s % 4 < 3 ∧ tp s / 4 < cl s) := by decide +kernel

/-! ## Witnesses: special registers, vectors and predicates -/

theorem witness_GetsrReadsTheSpecialRegisters :
    base.snap.chkrole = 0 ∧ (base.atRegs fun r => { r with clkHi := some 7 }).snap.clkHi = some 7
    ∧ (base.atRegs fun r => { r with dtbHi := some 9 }).snap.dtbHi = some 9 := by decide +kernel
/-- A checked primary with a global TSTORE of its span in flight, or done; and a run with a record of kind 2 next. -/
def storing (done : Bool) : State :=
  let s := base.atRegs fun r => { r with chkrole := 1 }
  { s.atWarp fun w => { w with flights := [{ id := 0, uid := 1, op := .tstore 0, writes := [{ global := true, base := 0x1000, len := 4 }], done := done }] } with
    grp := { base.grp with entry := 1 } }
theorem witness_GetsrReadsTheSpecialRegisters_checked :
    (∀ b : Bool, let s := storing b; s.warp.regs.chkrole = 1 ∧ s.snap.chkrole = 1
      ∧ ((∀ e ∈ s.warp.flights, e.globalStore = true → e.done = true) ↔ b = true)
      ∧ ((∃ e ∈ s.warp.flights, e.id < s.grp.entry ∧ e.span = s.snap.spanno ∧ e.globalStore = true ∧ e.done = false) ↔ b = false))
    ∧ (let s := base.atWarp fun w => { w with regs := { w.regs with chkrole := 2 }, span := { w.span with log := [⟨2, [7]⟩, ⟨1, [8]⟩] } }
       2 ≤ s.snap.chkrole.toNat ∧ s.warp.span.log = [⟨2, [7]⟩, ⟨1, [8]⟩] ∧ sregListed (28 : BitVec 10).toNat = true) := by decide +kernel
/-- VBND's BOUND at 8, 64 and past VCOUNT, off a multiple of 8, and with a matrix entry in flight (R103). -/
theorem witness_SetsrWritesThroughTheFieldMap :
    let b (v : Word) := ((base.withS 1 v).srcS 1).toNat % 4096
    let c := base.snap.vcount.toNat
    b 8 % 8 = 0 ∧ 8 ≤ b 8 ∧ b 8 ≤ c ∧ base.snap.cnt.m = 0 ∧ b 64 % 8 = 0 ∧ 8 ≤ b 64 ∧ b 64 ≤ c
    ∧ b 12 % 8 ≠ 0 ∧ b 0 < 8 ∧ c < b 72 ∧ (base.atRegs fun r => { r with cnt := { r.cnt with m := 1 } }).snap.cnt.m ≠ 0
    ∧ ((base.withS 1 4).srcS 1).toNat % 8 ≤ 4 ∧ 4 < ((base.withS 1 5).srcS 1).toNat % 8 := by decide +kernel

/-- Names up to V63 in a warp of 64 vectors. -/
theorem witness_NamesBelow_one : NamesBelow base [(63, 1), (63, 1), (63, 1)] := namesBelow_of (by decide +kernel)
theorem witness_VectorIntegerResults :
    NamesBelow base [((63 : BitVec 6).toNat, 1), ((0 : BitVec 6).toNat, 1), ((62 : BitVec 6).toNat, 1)]
    ∧ (16 : BitVec 5).toNat ≤ 16
    ∧ NamesBelow base [(2 * (31 : BitVec 5).toNat, 2), (2 * (0 : BitVec 5).toNat, 2), (2 * (30 : BitVec 5).toNat, 2)] :=
  ⟨namesBelow_of (by decide +kernel), by decide, namesBelow_of (by decide +kernel)⟩
theorem witness_ImmediateVectorFunctionsAreTheVintFunctions :
    (63 : BitVec 6).toNat < (base.withV 63 255).snap.vbnd.toNat
    ∧ ∀ l : Fin 32, ((base.withV 63 255).srcV (63 : BitVec 6).toNat)[l] = BitVec.ofNat 32 (255 : BitVec 8).toNat := by
  decide +kernel
/-- With VBND 8: V8 and V63 named beside V7. -/
def bounded : State := base.atRegs fun r => { r with vbnd := 8 }
theorem witness_VectorNamesAtTheBoundTrap :
    let m := bounded.snap.vbnd.toNat
    (8 ∈ [(7 : BitVec 6).toNat, (63 : BitVec 6).toNat, (8 : BitVec 6).toNat] ∧ m ≤ 8
      ∧ ∀ k ∈ [(7 : BitVec 6).toNat, (63 : BitVec 6).toNat, (8 : BitVec 6).toNat], m ≤ k → 8 ≤ k)
    ∧ ((7 ≤ 8 ∧ 8 < 7 + 2 ^ (3 : BitVec 2).toNat) ∧ ∀ r, m ≤ r → 8 ≤ r) := by
  refine ⟨by decide +kernel, by decide, fun r h => ?_⟩
  have : bounded.snap.vbnd.toNat = 8 := by decide +kernel
  omega
/-- A widened operand across the boundary, and the redirect word past V63. -/
theorem witness_VectorNamesAtTheBoundTrap_wide :
    (let m := bounded.snap.vbnd.toNat; m = 8 ∧ ((∃ r ∈ [(3, 1), (8, 8)], r.1 ≤ 8 ∧ 8 < r.1 + r.2) ∧ m ≤ 8
      ∧ ∀ r ∈ [(3, 1), (8, 8)], ∀ k < 16, r.1 ≤ k → k < r.1 + r.2 → m ≤ k → 8 ≤ k))
    ∧ (let m := base.snap.vbnd.toNat; (∃ r ∈ [(63, 1), (0, 1)] ++ [(64, 1)], r.1 ≤ 64 ∧ 64 < r.1 + r.2) ∧ m ≤ 64
      ∧ ∀ r ∈ [(63, 1), (0, 1)] ++ [(64, 1)], ∀ k < 65, r.1 ≤ k → k < r.1 + r.2 → m ≤ k → 64 ≤ k) := by decide +kernel
theorem witness_LaneWordsMoveBits :
    NamesBelow base [((56 : BitVec 6).toNat, 2 ^ (3 : BitVec 2).toNat), ((0 : BitVec 6).toNat, 2 ^ (3 : BitVec 2).toNat),
      ((63 : BitVec 6).toNat, 1)]
    ∧ (let e := (base.atRegs fun r => { r with exec := 0xFFFF0000 }).snap.exec
       e.getLsbD 16 = true ∧ ∀ k < 16, e.getLsbD k = false) :=
  ⟨namesBelow_of (by decide +kernel), by decide +kernel⟩
/-- P1 with the upper half of the lanes set, in two partitions of 16 lanes. -/
def twoParts : State := base.atRegs fun r => { r with part := 4, p := r.p.set 1 0xFFFF0000 }
theorem witness_IntegerReductionsScansAndVotes :
    NamesBelow twoParts [((63 : BitVec 6).toNat, 1), ((0 : BitVec 6).toNat, 1)]
    ∧ (∀ l : Fin 32, (0xFFFF0000 : Word).getLsbD l.val = (partners twoParts l).any fun k => (twoParts.srcP 1).getLsbD k.val)
    ∧ (∀ l : Fin 32, (0xFFFF0000 : Word).getLsbD l.val = (partners twoParts l).all fun k => (twoParts.srcP 1).getLsbD k.val) :=
  ⟨namesBelow_of (by decide +kernel), by decide +kernel, by decide +kernel⟩
theorem witness_PartitionsDoNotReadEachOther :
    let u : Lanes := Vector.ofFn fun l => if l.val < 16 then 5 else 6
    NamesBelow (twoParts.withV 3 5) [((4 : BitVec 6).toNat, 1), ((3 : BitVec 6).toNat, 1)]
    ∧ ∀ k : Fin 32, k.val / (twoParts.withV 3 5).snap.width = (2 : Fin 32).val / (twoParts.withV 3 5).snap.width →
        u[k] = ((twoParts.withV 3 5).srcV (3 : BitVec 6).toNat)[k] :=
  ⟨namesBelow_of (by decide +kernel), by decide +kernel⟩

/-! ## Witnesses: floating point -/

/-- V0, V1, V2 and V3 holding numbers (no marker), no exception enabled. -/
def floats : State := (((base.withV 0 0x3F800000).withV 1 0x40000000).withV 2 0x3F000000).withV 3 0x40400000
/-- V4 to V11 written as well. -/
def floats8 : State := (List.range 8).foldl (fun s k => s.withV (4 + k) 0x3F800001) floats
/-- UNINIT set and V7 never written: its marker is there in every lane (R54). -/
def marked : State := floats.atRegs fun r => { r with fpmode := 8 }
/-- The divide-by-zero exception enabled (R48). -/
def enabled (f : Nat) : State := (floats.withV 0 0).atRegs fun r => { r with fpmode := BitVec.ofNat 32 (2 ^ (9 + f)) }
theorem witness_OneElementFloatResults :
    NamesBelow floats [(63, 1), (0, 1), (1, 1), (2, 1)]
    ∧ (floats.snap.fpEnables = 0 ∧ firstMarker floats.snap.exec [floats.srcV 0, floats.srcV 1, floats.srcV 2] = none)
    ∧ (marked.snap.uninit = true ∧ firstMarker marked.snap.exec [marked.srcV 7, marked.srcV 1] = some 7)
    ∧ ((enabled 1).snap.uninit = false
      ∧ raisedBy (enabled 1) (fun l => sfu 0 (((enabled 1).srcV 0)[l]).toNat) &&& (enabled 1).snap.fpEnables ≠ 0) :=
  ⟨namesBelow_of (by decide +kernel), by decide +kernel, by decide +kernel, by decide +kernel⟩
theorem fpQuiet_of {s : State} {ms : List Lanes} (f : BitVec 5) (h : firstMarker s.snap.exec ms = none)
    (he : s.snap.fpEnables = 0) : FpQuiet s ms f := ⟨fun _ => h, by rw [he]; simp⟩
theorem witness_PairAndDoubleFloatResults (f : BitVec 5) :
    NamesBelow floats [(63, 1), (0, 1), (1, 1), (2, 1)]
    ∧ FpQuiet floats [floats.srcV 0, floats.srcV 1, floats.srcV 2] f
    ∧ NamesBelow floats8 [(2 * 31, 2), (2 * 0, 2), (2 * 1, 2), (2 * 2, 2)]
    ∧ FpQuiet floats8 [floats8.srcV 0, floats8.srcV 1, floats8.srcV 2, floats8.srcV 3, floats8.srcV 4, floats8.srcV 5] f :=
  ⟨namesBelow_of (by decide +kernel), fpQuiet_of f (by decide +kernel) (by decide +kernel),
    namesBelow_of (by decide +kernel), fpQuiet_of f (by decide +kernel) (by decide +kernel)⟩
theorem witness_ComparisonsWriteTheActiveBits (f : BitVec 5) :
    NamesBelow floats [(0, 1), (63, 1)] ∧ FpQuiet floats [floats.srcV 0, floats.srcV 1] f
    ∧ (0 : BitVec 3).toNat = 0 ∧ (1 : BitVec 3).toNat = 1 ∧ (2 : BitVec 3).toNat = 2 ∧ (3 : BitVec 3).toNat = 3
    ∧ (4 : BitVec 3).toNat = 4 ∧ (5 : BitVec 3).toNat = 5 :=
  ⟨namesBelow_of (by decide +kernel), fpQuiet_of f (by decide +kernel) (by decide +kernel), rfl, rfl, rfl, rfl, rfl, rfl⟩
theorem witness_ConversionsRoundOnce (f : BitVec 5) :
    (NamesBelow floats8 [(63, 1), (0, 1)] ∧ FpQuiet floats8 [floats8.srcV 0] f)
    ∧ (NamesBelow floats8 [((63 : BitVec 6).toNat, 1), (8 * ((0 : BitVec 5).toNat % 8), 8)]
      ∧ FpQuiet floats8 ((List.range 8).map fun j => floats8.srcV (8 * ((0 : BitVec 5).toNat % 8) + j)) f)
    ∧ (NamesBelow floats8 [(2 * 31, 2), (63, 1)] ∧ FpQuiet floats8 [floats8.srcV 4] f)
    ∧ (NamesBelow floats8 [(63, 1), (2 * 5, 2)] ∧ FpQuiet floats8 [floats8.srcV (2 * 5), floats8.srcV (2 * 5 + 1)] f) :=
  ⟨⟨namesBelow_of (by decide +kernel), fpQuiet_of f (by decide +kernel) (by decide +kernel)⟩,
    ⟨namesBelow_of (by decide +kernel), fpQuiet_of f (by decide +kernel) (by decide +kernel)⟩,
    ⟨namesBelow_of (by decide +kernel), fpQuiet_of f (by decide +kernel) (by decide +kernel)⟩,
    ⟨namesBelow_of (by decide +kernel), fpQuiet_of f (by decide +kernel) (by decide +kernel)⟩⟩
theorem witness_FloatReductionsFollowTheFixedTree (f : BitVec 5) :
    NamesBelow floats [(63, 1), (0, 1)] ∧ FpQuiet floats [floats.srcV 0] f ∧ floats.snap.fpEnables = 0 :=
  ⟨namesBelow_of (by decide +kernel), fpQuiet_of f (by decide +kernel) (by decide +kernel), by decide +kernel⟩
/-- A magnitude of 6 rounded to a multiple of 4 is a tie; 8 is exact; in each mode (R48). -/
theorem witness_RoundingIsToTheNeighbourItsModeNames :
    3 < 4 ∧ 0 < 2 ∧ 2 * (6 % 2 ^ 2) = 2 ^ 2 ∧ ¬ 2 ^ 2 ∣ 6 ∧ 2 ^ 2 ∣ 8 := by decide
/-- Finite codes: a zero, the smallest and the largest. -/
theorem witness_RoundingIsToTheNeighbourItsModeNames_finite :
    ∀ c ∈ [0x80000000, 1, 0xFF7FFFFF], c < 2 ^ 32 ∧ ∃ b m e, unpack fmtF32 c = .num b m e := by
  intro c hc
  have : c = 0x80000000 ∨ c = 1 ∨ c = 0xFF7FFFFF := by simpa using hc
  obtain rfl | rfl | rfl := this
  · exact ⟨by decide, true, 0, -149, by decide +kernel⟩
  · exact ⟨by decide, false, 1, -149, by decide +kernel⟩
  · exact ⟨by decide, true, 0xFFFFFF, 104, by decide +kernel⟩
theorem witness_SpecialFunctionSpecialInputs :
    unpack fmtF32 0x7F800001 = .nan true ∧ unpack fmtF32 0x7FC00000 = .nan false ∧ 0x7F800001 < 2 ^ 32
    ∧ unpack fmtF32 0x80000001 = .num true 1 (-149) ∧ unpack fmtF32 0xFF800000 = .inf true := by decide +kernel
/-- Quarter turns: 0.25, -0.5, 0.75, 1 and 2^127. -/
theorem witness_SpecialFunctionSpecialInputs_turns :
    ∀ q ∈ [(0x3E800000, false, 0x800000, (-25 : Int), 1), (0xBF000000, true, 0x800000, -24, 2), (0x3F400000, false, 0xC00000, -24, 3),
        (0x3F800000, false, 0x800000, -23, 0), (0x7F000000, false, 0x800000, 104, 0)],
      unpack fmtF32 q.1 = .num q.2.1 q.2.2.1 q.2.2.2.1 ∧
      (let e := q.2.2.2.1; let d := (-(e + 2)).toNat; let t := q.2.2.1 * 2 ^ (e + 2).toNat
       2 ^ d ∣ t ∧ t / 2 ^ d % 4 = q.2.2.2.2) := by decide +kernel

/-! ## Witnesses: memory -/

theorem witness_MemoryReadsWhatWasWritten :
    (5 ≤ 6 ∧ 6 < 5 + [1, 2].length) ∧ ¬ (5 ≤ 7 ∧ 7 < 5 + [1, 2].length) ∧ Memory.wf [(5, 1), (9, 2)] = true
    ∧ ∀ b, Memory.read [(5, 1), (9, 2)] b = Memory.read [(5, 1), (9, 2)] b :=
  ⟨by decide, by decide, by decide, fun _ => rfl⟩
/-- S4 and S5 hold the address of the mapped page and each lane of V3 an offset of 16 bytes a lane. -/
def lanes16 : State := (base.withS 4 0x1000).atRegs fun r => r.setEntry 3 (Vector.ofFn fun l => BitVec.ofNat 32 (16 * l.val))
/-- The last room in each counter (R428). -/
def lastRoom (s : State) : State := s.atRegs fun r => { r with cnt := { l := 62, s := 62, c := 62, m := 62, a := 62 } }
/-- A lane of the global window, aligned and translated, is placed at its one piece. -/
theorem placed_of_plain {s : State} {want : Want} {ls : List (Nat × Nat)} {n : Nat} {pa : Nat → Nat} (h : PlainGlobal s want ls n pa) :
    ∀ l ∈ ls, LanePlaced s want n l [⟨.phys (pa l.1), l.2, n⟩] :=
  fun l hl => .inl ⟨pa l.1, (h l hl).1, (h l hl).2.1, (h l hl).2.2, rfl⟩
theorem witness_LoadsJoinTheOutstandingOperations :
    let s := lastRoom lanes16
    (4 : BitVec 3).toNat ≠ 7 ∧ (2 : BitVec 2).toNat = sizeW (4 : BitVec 3).toNat
    ∧ NamesBelow s [((60 : BitVec 6).toNat, 2 ^ (2 : BitVec 2).toNat), ((3 : BitVec 6).toNat, 1)]
    ∧ MemoryFree s ∧ s.snap.exec ≠ 0 ∧ s.warp.regs.cnt.l ≠ 63
    ∧ PlainGlobal s .read (laneAddrs s 2 3) (sizeBytes (4 : BitVec 3).toNat) (fun l => 0x200000 + 16 * l)
    ∧ (s.atRegs fun r => { r with exec := 0 }).snap.exec = 0
    ∧ PlainGlobal s .read [(0, (s.srcPair 2 + BitVec.ofInt 64 (0xFFC : BitVec 15).toInt).toNat)] 4 (fun _ => 0x200FFC) := by
  refine ⟨by decide, by decide, namesBelow_of (by decide +kernel), ?_⟩
  unfold MemoryFree PlainGlobal
  decide +kernel
theorem witness_StoresJoinTheOutstandingOperations :
    let s := lastRoom lanes16
    (4 : BitVec 3).toNat ≤ 4 ∧ (2 : BitVec 2).toNat = sizeW (4 : BitVec 3).toNat
    ∧ NamesBelow s [((60 : BitVec 6).toNat, 2 ^ (2 : BitVec 2).toNat), ((3 : BitVec 6).toNat, 1)]
    ∧ MemoryFree s ∧ s.snap.exec ≠ 0 ∧ s.warp.regs.cnt.s ≠ 63
    ∧ PlainGlobal s .write (laneAddrs s 2 3) (sizeBytes (4 : BitVec 3).toNat) (fun l => 0x200000 + 16 * l)
    ∧ (s.atRegs fun r => { r with exec := 0 }).snap.exec = 0
    ∧ PlainGlobal s .write [(0, (s.srcPair 2 + BitVec.ofInt 64 (0xFFC : BitVec 15).toInt).toNat)] 4 (fun _ => 0x200FFC) := by
  refine ⟨by decide, by decide, namesBelow_of (by decide +kernel), ?_⟩
  unfold MemoryFree PlainGlobal
  decide +kernel
/-- The redirect words in V9 and V10 name cluster 191 (R287). -/
def redirected : State := (lastRoom lanes16).atRegs fun r =>
  let v : Lanes := Vector.replicate 32 (BitVec.ofNat 32 (191 * 2 ^ 23))
  (r.setEntry 9 v).setEntry 10 v
theorem witness_AtomicsJoinTheOutstandingOperations :
    let s := redirected
    MemoryFree s ∧ s.snap.exec ≠ 0 ∧ s.warp.regs.cnt.a ≠ 63 ∧ s.warp.regs.cnt.s ≠ 63
    ∧ (∀ h ∈ ([0, 1, 2] : List (BitVec 2)), h ≠ 3)
    ∧ (([(8, 2), (3, 1)] ++ [(8 + 2, 1)]).all fun r => decide (r.1 + r.2 ≤ s.snap.vbnd.toNat)) = true
    ∧ PlainGlobal s .write (laneAddrs s 2 3) 4 (fun l => 0x200000 + 16 * l)
    ∧ PlainGlobal s .write (laneAddrs s 2 3) 8 (fun l => 0x200000 + 16 * l)
    ∧ ∀ l : Fin 32, s.snap.exec.getLsbD l.val = true →
      ((s.srcV (8 + 1))[l]).toNat / 2 ^ 23 < 192 ∧ ((s.srcV (8 + 2))[l]).toNat / 2 ^ 23 < 192 := by
  unfold MemoryFree PlainGlobal
  decide +kernel
/-- The base at the top of the global window less 4, one lane active there and lane 2 past it; and a base off alignment. -/
def atTop : State := ((base.withS 4 0xFFFFFFFC).withS 5 0xEFFFF).atRegs fun r =>
  { r.setEntry 3 (Vector.ofFn fun l => if l.val = 2 then 4 else 0) with exec := 0xE }
theorem witness_AccessChecksTrapInTheirOrder :
    let va (s : State) (k : Fin 32) : Nat := (s.srcPair 2 + ((s.srcV 3)[k]).setWidth 64).toNat
    let names (s : State) := ([(8, 1), (3, 1)].all fun r => decide (r.1 + r.2 ≤ s.snap.vbnd.toNat)) = true
    let o := lanes16.withS 4 0x1002
    names atTop ∧ memoryBlocked atTop = false ∧ atTop.warp.regs.cnt.l ≠ 63 ∧ atTop.warp.regs.cnt.s ≠ 63
    ∧ (atTop.snap.exec.getLsbD 1 = true ∧ inOneWindow (va atTop 1) 8 = false ∧ inOneWindow (va atTop 1) 4 = true
      ∧ ∀ k : Fin 32, k.val < 1 → atTop.snap.exec.getLsbD k.val = true → ¬ inOneWindow (va atTop k) 8 = false)
    ∧ names o ∧ memoryBlocked o = false ∧ o.warp.regs.cnt.l ≠ 63 ∧ o.warp.regs.cnt.s ≠ 63
    ∧ (∀ k : Fin 32, o.snap.exec.getLsbD k.val = true → va o k + 4 ≤ 0x000F000000000000)
    ∧ (o.snap.exec.getLsbD 0 = true ∧ va o 0 % 4 ≠ 0)
    ∧ (o.srcPair 2 + BitVec.ofInt 64 (0 : BitVec 15).toInt).toNat % 4 ≠ 0
    ∧ (let p := (base.withS 4 0x00000000).withS 5 0xF8000
       let v := (p.srcPair 2 + BitVec.ofInt 64 (0 : BitVec 15).toInt).toNat
       v % 4 = 0 ∧ 0x000F800000000000 ≤ v ∧ v < 0x000F800100000000) := by decide +kernel

/-- One outstanding operation. -/
def withOut (a : Access) : State := base.atWarp fun w => { w with out := [a] }
def vecLoad : Access :=
  { kind := .load 4 8 0, lanes := [(0, 0x1000), (31, 0x1010)].map fun l =>
      { lane := l.1, va := l.2, pieces := [⟨.phys (0x200000 + 16 * (l.1 / 31)), l.2, sizeBytes 4⟩] } }
def scalarLoad : Access := { kind := .sload 31, lanes := [{ lane := 0, va := 0x1000, pieces := [⟨.phys 0x200000, 0x1000, 4⟩] }] }
theorem mayPerform_of {s : State} {a : Access} (h : ((((s.warp.out[0]? == some a && s.canPerform 0) && (s.chosen 0 a == a.lanes &&
      a.got == []) && (a.due == [] && a.logIdx == none)) && ((!a.waits && a.lanes.all fun l => !l.hazard && l.stage == 0 && l.seen == []) &&
      s.warp.regs.chkrole == 0)) && ((s.allWarps.all (fun w => w.flights.isEmpty) && s.grids.all fun g => g.2.stable.all fun q => q.2 == 0) &&
      ((match s.warp.park with
        | .monitor _ _ _ _ _ => false
        | _ => true) && (s.ev.k == 0 && !s.ev.b)))) = true) : MayPerform s 0 a := by
  simp only [Bool.and_eq_true, beq_iff_eq, Bool.not_eq_true', List.all_eq_true, List.isEmpty_iff] at h
  obtain ⟨⟨⟨⟨⟨h1, h2⟩, h3, h4⟩, h5, h6⟩, ⟨h7, h8⟩, h9⟩, ⟨h10, h11⟩, h12, h13, h14⟩ := h
  refine ⟨h1, h2, h3, h4, h5, h6, h7, fun l hl => ⟨(h8 l hl).1.1, (h8 l hl).1.2, (h8 l hl).2⟩, h9, h10, h11, ?_, h13, h14⟩
  intro p c x d pl e
  simp [e] at h12
/-- Lines held whole by a holder, allocated there. -/
def State.holding (s : State) (h : Nat) (lines : List Nat) : State :=
  lines.foldl (fun s x => { s with
    toks := SMap.put s.toks (256 * x + h) ⟨true, false, true, 256⟩
    retention := SMap.put s.retention (256 * x + h) {} }) s
theorem linesHeld_of {s : State} {u : TokUser} {write : Bool} {lines : List Nat} (h : (lines.all fun x =>
      let h := if write then u.writer s x else u.reader s x
      (if write then s.mayWrite h x else s.mayRead h x && !s.storeSent u x) && (SMap.find s.retention (256 * x + h)).isSome) = true) :
    LinesHeld s u write lines := by
  intro x hx _
  have := List.all_eq_true.mp h x hx
  cases write <;> simp_all
theorem inPlace_of {s : State} {a : Access} (h : (a.lanes.all fun l => l.pieces.all fun p => s.locNow s.warp.ctx a.push p == p.loc) = true) :
    InPlace s a := by
  intro l hl p hp
  simpa using List.all_eq_true.mp (List.all_eq_true.mp h l hl) p hp
theorem noPeer_of {a : Access} (h : (a.lanes.all fun l => l.pieces.all fun p => match windowOf p.va with
    | .peer _ _ => false
    | _ => true) = true) : NoPeer a := by
  intro l hl p hp cl o e
  have := List.all_eq_true.mp (List.all_eq_true.mp h l hl) p hp
  simp [e] at this
/-- The operation outstanding, with its lines held whole by cluster 0. -/
def withLines (a : Access) : State := (withOut a).holding 0 (physLines a.lanes)
theorem witness_LoadReturnWritesTheLanesRead :
    (MayPerform (withLines vecLoad) 0 vecLoad ∧ ((withLines vecLoad).warp.arriving = false ∧ InPlace (withLines vecLoad) vecLoad
      ∧ LinesHeld (withLines vecLoad) ((withLines vecLoad).warp.user vecLoad) false (physLines vecLoad.lanes)) ∧ vecLoad.kind = .load 4 8 0 ∧ 4 ≠ 7
      ∧ ([(0, 0x1000), (31, 0x1010)].map (·.1)).Nodup ∧ [(0, 0x1000), (31, 0x1010)] ≠ [] ∧ (∀ l ∈ [(0, 0x1000), (31, 0x1010)], l.1 < 32)
      ∧ vecLoad.lanes = [(0, 0x1000), (31, 0x1010)].map (fun l =>
          { lane := l.1, va := l.2, pieces := [⟨.phys (0x200000 + 16 * (l.1 / 31)), l.2, sizeBytes 4⟩] }))
    ∧ MayPerform (withLines scalarLoad) 0 scalarLoad ∧ ((withLines scalarLoad).warp.arriving = false ∧ InPlace (withLines scalarLoad) scalarLoad
      ∧ LinesHeld (withLines scalarLoad) ((withLines scalarLoad).warp.user scalarLoad) false (physLines scalarLoad.lanes))
      ∧ scalarLoad.kind = .sload 31 ∧ 31 < 32 :=
  ⟨⟨mayPerform_of (by decide +kernel), ⟨by decide +kernel, inPlace_of (by decide +kernel), linesHeld_of (by decide +kernel)⟩, rfl, by decide, by decide,
    by decide, by decide, rfl⟩,
    mayPerform_of (by decide +kernel), ⟨by decide +kernel, inPlace_of (by decide +kernel), linesHeld_of (by decide +kernel)⟩, rfl, by decide⟩
/-- Two overlapping lanes of a store, waiting for version-store room or not. -/
def overlapping : List (Nat × Nat × Nat × List Word) := [(3, 0x1000, 0x200000, [1, 2]), (7, 0x1004, 0x200004, [3, 4])]
def vecStore : Access :=
  { kind := .store 3 0, lanes := overlapping.map (fun l => { lane := l.1, va := l.2.1, pieces := [⟨.phys l.2.2.1, l.2.1, 8⟩], data := l.2.2.2 }) }
theorem witness_StorePerformedWritesExactlyItsBytes :
    (∀ held : Bool, let s := withLines { vecStore with waits := held }
      s.warp.out[0]? = some { vecStore with waits := held } ∧ s.warp.arriving = false ∧ InPlace s vecStore
      ∧ LinesHeld s (s.warp.user vecStore) true (physLines vecStore.lanes)
      ∧ MayPerform { s with warp := { s.warp with out := s.warp.out.set 0 vecStore } } 0 vecStore)
    ∧ vecStore.kind = .store 3 0 ∧ (∀ l ∈ overlapping, 8 ≤ 4 * l.2.2.2.length)
    ∧ (overlapping.map (·.1)).Pairwise (· < ·) := by
  refine ⟨fun held => ?_, rfl, by decide, by decide⟩
  cases held <;> exact ⟨by decide +kernel, by decide +kernel, inPlace_of (by decide +kernel), linesHeld_of (by decide +kernel),
    mayPerform_of (by decide +kernel)⟩
def oneAtomic : Access :=
  { kind := .atom 13 0 8, lanes := [{ lane := 31, va := 0x1000, pieces := [⟨.phys (2 ^ 42 - 4), 0x1000, 4⟩], data := [1, 0] }] }
def twoAtomics : Access :=
  { kind := .atom 0 0 8, lanes := [{ lane := 0, va := 0x1000, pieces := [⟨.phys 0x200000, 0x1000, 4⟩], data := [1] },
      { lane := 31, va := 0x1000, pieces := [⟨.phys 0x200000, 0x1000, 4⟩], data := [2] }] }
/-- ADD.I64 with H = 1, and a .REDIR with its slot write and its arrival to come. -/
def wideAtomic : Access :=
  { kind := .atom 14 1 8, lanes := [{ lane := 0, va := 0x1000, pieces := [⟨.phys 0x200000, 0x1000, 8⟩], data := [1, 0] }] }
def redirAtomic : Access :=
  { oneAtomic with kind := .atom 13 2 8, lanes := oneAtomic.lanes.map fun l => { l with after := [⟨.phys 0, 0, 4⟩, ⟨.phys 0, 0, 16⟩] } }
theorem witness_AtomicReturnUpdatesTheWordOnce :
    (∀ x ∈ [oneAtomic, twoAtomics, wideAtomic, redirAtomic], MayPerform (withLines x) 0 x ∧ ((withLines x).warp.arriving = false ∧ InPlace (withLines x) x
      ∧ LinesHeld (withLines x) ((withLines x).warp.user x) true (physLines x.lanes)) ∧ x.lanes ≠ [] ∧ (x.lanes.map (·.lane)).Nodup
      ∧ (∀ l ∈ x.lanes, l.lane < 32 ∧ l.part = 0 ∧ ∃ p, l.pieces = [p] ∧ p.loc.solid))
    ∧ oneAtomic.kind = .atom 13 0 8 ∧ 13 < 14 ∧ 2 ^ 42 - 4 + 4 ≤ 2 ^ 42 ∧ (∀ l ∈ oneAtomic.lanes, l.after = [])
    ∧ redirAtomic.kind = .atom 13 2 8 ∧ (∀ l ∈ redirAtomic.lanes, l.after.length = 2)
    ∧ wideAtomic.kind = .atom 14 1 8 ∧ twoAtomics.kind = .atom 0 0 8 ∧ (0 : Fin 32) < 31 ∧ 0x200000 + 4 ≤ 2 ^ 42 := by
  refine ⟨?_, rfl, by decide, by decide, by decide, rfl, by decide, rfl, rfl, by decide, by decide⟩
  have main : ∀ x ∈ [oneAtomic, twoAtomics, wideAtomic, redirAtomic], (x.lanes.map (·.lane)).Nodup ∧ x.lanes ≠ [] := by decide
  have at_ : ∀ x ∈ [oneAtomic, twoAtomics, wideAtomic, redirAtomic], ∀ l ∈ x.lanes, l.lane < 32 ∧ l.part = 0
      ∧ ∃ p, l.pieces = [p] ∧ p.loc.solid := by
    simp [oneAtomic, twoAtomics, wideAtomic, redirAtomic, Loc.solid]
  intro x hx
  refine ⟨?_, ?_, (main x hx).2, (main x hx).1, at_ x hx⟩ <;> (simp only [List.mem_cons, List.not_mem_nil, or_false] at hx; rcases hx with rfl | rfl | rfl | rfl)
  all_goals first
    | exact mayPerform_of (by decide +kernel)
    | exact ⟨by decide +kernel, inPlace_of (by decide +kernel), linesHeld_of (by decide +kernel)⟩
/-- A warp parked on the word 0 of the mapped page, for the word to equal `x`. -/
def monitoring (x : Word) : State :=
  (base.holding 192 [0x4000]).atWarp fun w => { w with park := .monitor 0x200000 0 x 31 false, regs := { w.regs with cnt := { w.regs.cnt with a := 1 } } }
theorem witness_MonitorsWakeWhenTheirConditionHolds :
    (let s := (lastRoom lanes16).holding 192 [0x4000]
     let va := (s.srcPair 2).toNat
     ((5 : BitVec 4).toNat ≤ 5 ∧ s.snap.chkrole = 0 ∧ s.warp.regs.chkrole = 0 ∧ s.warp.out = [] ∧ memoryBlocked s = false
     ∧ s.warp.regs.cnt.a ≠ 63 ∧ va + 4 ≤ 0x000F000000000000 ∧ va % 4 = 0
     ∧ s.translate s.warp.ctx va .read = .phys 0x200000 ∧ 0x200000 < 2 ^ 42 ∧ s.warp.held = false
     ∧ (s.ctx s.warp.ctx).injectionStopped = false
     ∧ decide (BitVec.ofNat 32 (s.mem.readNat 0x200000 4) = s.srcS 9) = true
     ∧ decide (BitVec.ofNat 32 (s.mem.readNat 0x200000 4) = s.srcS 4) = false)
     ∧ LinesHeld s (stackUser s.warp.die s.warp.ctx) false (linesOf 0x200000 4))
    ∧ ((monitoring 0).warp.park = .monitor 0x200000 0 0 31 false ∧ (monitoring 0).warp.held = false
      ∧ (monitoring 0).warp.regs.chkrole = 0
      ∧ condHolds 0 (BitVec.ofNat 32 ((monitoring 0).mem.readNat 0x200000 4)) 0 = true
      ∧ condHolds 0 (BitVec.ofNat 32 ((monitoring 1).mem.readNat 0x200000 4)) 1 = false)
    ∧ LinesHeld (monitoring 0) (stackUser (monitoring 0).warp.die (monitoring 0).warp.ctx) false (linesOf 0x200000 4) :=
  ⟨⟨by decide +kernel, linesHeld_of (by decide +kernel)⟩, by decide +kernel, linesHeld_of (by decide +kernel)⟩

/-! ## Witnesses: control, barriers and loops -/

theorem unchecked_of {s : State} (h : (s.snap.chkrole == 0 && s.warp.regs.chkrole == 0) = true) : Unchecked s := by
  simpa [Unchecked] using h
/-- A cooperative grid with the groups of blocks 0 and 3, and of block 1 (R413). -/
def grouped (warps : Nat) : State :=
  base.onGrid 1 fun g => { g with launch := { g.launch with coop := true, warps := warps, gx := 4 }, groups := [[0, 3], [1]], total := 4 }
def latched : State := base.atWarp fun w => { w with latch := some ⟨45, 1, 2⟩ }
theorem witness_SignatureAndWaitWords :
    (base.warp.regs.cfsig.toNat % 2 ^ 20 = (0 : BitVec 20).toNat
      ∧ (base.atRegs fun r => { r with cfsig := 0xABCFFFFF }).warp.regs.cfsig.toNat % 2 ^ 20 = (0xFFFFF : BitVec 20).toNat
      ∧ base.warp.regs.cfsig.toNat % 2 ^ 20 ≠ (1 : BitVec 20).toNat)
    ∧ (let c := (lastRoom base).snap.cnt
       base.warp.latch = none ∧ (base.snap.cnt.l.toNat ≤ 0 ∧ base.snap.cnt.s.toNat ≤ 0 ∧ base.snap.cnt.c.toNat ≤ 0
         ∧ base.snap.cnt.m.toNat ≤ 0 ∧ base.snap.cnt.a.toNat ≤ 0) ∧ base.warp.flights = []
       ∧ ¬ c.a.toNat ≤ 31 ∧ (∀ x ∈ (lastRoom base).warp.out, x.far = false ∧ x.waits = false))
    ∧ Unchecked base
    ∧ (latched.warp.latch = some ⟨45, 1, 2⟩ ∧ latched.warp.handler = false)
    ∧ ((base.ctx base.warp.ctx).switchPending = false ∧ (base.gang base.warp.gang).moved = false)
    ∧ (let s := base.onCtx 0 fun c => { c with switchPending := true }
       s.snap.chkrole.toNat < 2 ∧ (s.ctx s.warp.ctx).switchPending = true)
    ∧ (memoryBlocked base = false ∧ base.warp.out = [])
    ∧ (let s := (grouped 1).withS 3 1
       (s.grid s.warp.grid).launch.coop = true ∧ (s.srcS 3).toNat < (s.grid s.warp.grid).groups.length
       ∧ (s.grid s.warp.grid).groups.length ≤ ((s.withS 3 2).srcS 3).toNat
       ∧ (base.grid base.warp.grid).launch.coop = false) := by
  refine ⟨by decide +kernel, by decide +kernel, unchecked_of (by decide +kernel), ?_⟩
  decide +kernel
/-- A second warp of the block. -/
def pal (uid : Nat) (p : Park) : Warp := { base.warp with uid := uid, park := p }
/-- The warp exiting, alone in its gang or with a second one. -/
def leaving (others : List Warp) : State := { base with warp := { base.warp with park := .exiting }, others := others }
theorem witness_BarriersOpenWhenEveryWarpHasArrived :
    (let s := grouped 1
     let left (x : Nat) : Nat := (s.grid 1).launch.warps - SMap.get (s.grid 1).exited x 0
     s.warp.park = .ready ∧ s.warp.held = false ∧ (∀ e ∈ s.warp.stack, e.deferred = false) ∧ Unchecked s ∧ s.warp.out = []
     ∧ SMap.get (s.grid 1).bsync (s.linearBlock s.warp) 0 + 1 = left (s.linearBlock s.warp)
     ∧ (s.grid s.warp.grid).launch.coop = true ∧ (0 : BitVec 8).toNat < (s.grid s.warp.grid).groups.length
     ∧ s.linearBlock s.warp ∈ (s.grid s.warp.grid).groups.getD 0 [] ∧ s.linearBlock s.warp ∉ (s.grid s.warp.grid).groups.getD 1 []
     ∧ (s.grid s.warp.grid).groups.length ≤ (2 : BitVec 8).toNat
     ∧ SMap.get (s.grid 1).gsync 0 0 + 1 ≠ (((s.grid 1).groups.getD 0 []).map left).sum)
    ∧ (SMap.get ((grouped 2).grid 1).bsync 0 0 + 1 ≠ 2)
    ∧ (∃ e ∈ (base.atWarp fun w => { w with stack := [⟨true, {}, 1⟩] }).warp.stack, e.deferred = true)
    ∧ (let s := leaving [pal 2 .bsync]; let c := s.warp.regs.cnt
       s.warp.park = .exiting ∧ c.s = 0 ∧ c.c = 0 ∧ c.m = 0 ∧ c.a = 0 ∧ s.warp.latch = none
       ∧ ∃ w ∈ s.others, w.gang = s.warp.gang ∧ w.uid ≠ s.warp.uid ∧ w.park ≠ .vacant ∧ w.park ≠ .exited ∧ w.regs.chkrole.toNat < 2)
    ∧ (let s := leaving [pal 2 .exited]
       (∀ w ∈ s.others ++ s.gangs.flatMap (fun g => g.2.image), w.gang = s.warp.gang →
          w.park = .vacant ∨ w.park = .exited ∨ 2 ≤ w.regs.chkrole.toNat) ∧ (s.gang s.warp.gang).phase = .running) := by
  refine ⟨⟨by decide +kernel, by decide +kernel, by decide +kernel, unchecked_of (by decide +kernel), ?_⟩, ?_⟩ <;> decide +kernel
/-- Descriptors of a nest of two levels, 4,096 and 3 iterations, with 8 permits; and of one with none (R133). -/
def nestWords (permits : Nat) : List Nat := [1 + 16 * permits, 0xFFF + 4096 * 2, 0, 100, 200, 4, 64, 0, 0, 8, 128, 0, 0, 0, 0, 0]
def nested (permits : Nat) : State :=
  let s := (base.withS 4 0x1040).holding 0 [0x4000, 0x4001]
  { s with mem := (nestWords permits).zipIdx.foldl (fun m q => m.writeBytes (0x200040 + 4 * q.2) (bytesOfNat 4 q.1)) s.mem }
def looping (queue remain : Nat) : State := base.atWarp fun w =>
  { w with nest := some { desc := (nestWords 8).map (BitVec.ofNat 32), tuple := [0, 0, 0, 0], remain := remain
                          queue := List.replicate queue #v[1, 2, 3, 4] } }
theorem witness_LoopNestsYieldTheirIterationsInOrder :
    ((looping 0 1).warp.nest ≠ none ∧ Unchecked (nested 8)
      ∧ LinesHeld (nested 8) (clusterUser (nested 8).warp.cluster (nested 8).warp.ctx 1) false (linesOf 0x200040 64)
      ∧ (nested 8).warp.nest = none ∧ (nested 8).warp.out = [] ∧ memoryBlocked (nested 8) = false ∧ 0x200040 < 2 ^ 42
      ∧ (let va := ((nested 8).srcPair 2).toNat
         va % 64 = 0 ∧ va < 0x000F000000000000 ∧ (nested 8).translate (nested 8).warp.ctx va .read = .phys 0x200040)
      ∧ (let d (p : Nat) := (List.range 16).map fun i => BitVec.ofNat 32 ((nested p).mem.readNat (0x200040 + 4 * i) 4)
         descMalformed (d 8) = false ∧ descMalformed (d 9) = true ∧ descMalformed (d 0) = true))
    ∧ (let d := (nestWords 8).map (BitVec.ofNat 32)
       7 < descPermits d ∧ 7 < 8 ∧ descPermits d ≤ 8 ∧ 7 ≤ 7)
    ∧ ((looping 7 8).warp.nest.map (fun n => (n.queue.length, n.remain)) = some (7, 8)
      ∧ (looping 1 0).warp.nest.map (fun n => n.remain) = some 0
      ∧ (looping 0 1).warp.nest.map (fun n => (n.queue, n.remain)) = some ([], 1)
      ∧ (looping 1 1).warp.nest.map (fun n => (n.queue, n.remain)) = some ([#v[1, 2, 3, 4]], 1)
      ∧ base.warp.nest = none
      ∧ (atPacket 0).warp.pc.packet.toNat + (0 : BitVec 17).toInt = 0
      ∧ (atPacket 0).warp.pc.packet.toNat + (-1 : BitVec 17).toInt = -1) := by
  refine ⟨⟨by decide +kernel, unchecked_of (by decide +kernel), linesHeld_of (by decide +kernel), ?_⟩, ?_⟩ <;> decide +kernel

/-! ## Witnesses: barrier objects -/

/-- The gang holds segments 5 and 6 of cluster 0 as scratch; S3 holds an offset of the second, with an object of words
`a` to `d` there, S7 the word `v`. -/
def objectAt : Nat := 6 * 2 ^ 18 + 0x40
def scratchy : State :=
  ((base.onGang 1 fun g => { g with segs := [5, 6], firstCluster := some 0, firstSegs := [5, 6] }).onSegment 0 5
    fun x => { x with claimed := true, mode := .scratch }).onSegment 0 6 fun x => { x with claimed := true, mode := .scratch }
def objectState (a b c d : Nat) : State :=
  { scratchy with sram := [a, b, c, d].zipIdx.foldl (fun m q => m.writeBytes (objectAt + 4 * q.2) (bytesOfNat 4 q.1)) scratchy.sram }
def barrierWords (v : Word) (o : State) : State := (o.withS 3 0x40040).withS 7 v
def objectAccess (k : AccKind) : Access :=
  { kind := k, lanes := [{ lane := 0, va := 0xF000000040040, pieces := [⟨.sram objectAt, 0xF000000040040, 16⟩] }] }
theorem witness_BarrierObjectsCompleteTheirPhases :
    (let s := lastRoom (barrierWords 65535 (objectState 0x80010001 1 0 0)); let off := (s.srcS 3).toNat; let g := s.gang s.warp.gang
     Unchecked s ∧ memoryBlocked s = false ∧ off % 16 = 0 ∧ g.segOf off = some 6 ∧ (s.segment g.cluster 6).mode = .scratch
     ∧ sramAddr g.cluster 6 (off % 2 ^ 18) = objectAt
     ∧ s.warp.regs.cnt.s ≠ 63 ∧ s.warp.regs.cnt.l ≠ 63 ∧ 0 < (s.srcS 7).toNat ∧ (s.srcS 7).toNat ≤ 65535 ∧ s.warp.out = []
     ∧ s.objVal objectAt = true ∧ s.objPh objectAt = false ∧ (s.srcS 7).getLsbD 0 = true ∧ (s.srcS 6).getLsbD 0 = false
     ∧ scratchy.objVal objectAt = false
     ∧ (let w := (s.srcS 3).toNat
        w / 2 ^ 23 < 192 ∧ w % 16 = 0
        ∧ (s.onGang 1 fun g => { g with firstSegs := [5, 1] }).peerTarget s.warp.ctx (w / 2 ^ 23) (1 * 2 ^ 18 + 0x40) = .sram objectAt))
    ∧ (∀ k ∈ [AccKind.binit 65535, .barrive false, .bexpect 7, .binval], MayPerform (withOut (objectAccess k)) 0 (objectAccess k)
        ∧ NoPeer (objectAccess k) ∧ (withOut (objectAccess k)).warp.arriving = false)
    ∧ ((withOut (objectAccess .binval)).warp.park = .ready ∧ (withOut (objectAccess .binval)).warp.latch = none ∧ 65535 ≤ 65535)
    ∧ (∀ q ∈ ([(0, 0), (1, 0), (2, 0), (1, 7)] : List (Nat × Nat)), (objectState 0x80000003 q.1 q.2 0).objVal objectAt = true
        ∧ (objectState 0x80000003 q.1 q.2 0).objRemain objectAt = BitVec.ofNat 32 q.1
        ∧ (objectState 0x80000003 q.1 q.2 0).objWord objectAt 2 = BitVec.ofNat 32 q.2)
    ∧ (7 < 2 ^ 31 ∧ -(2 : Int) ^ 31 ≤ ((objectState 0x80000003 0 7 0).objWord objectAt 2).toInt - 7)
    ∧ (let x := objectAccess (.btry 31 true)
       let s : State := { withOut x with sram := (objectState 0x80010001 1 0 0).sram }
       MayPerform s 0 x ∧ NoPeer x ∧ s.warp.arriving = false ∧ s.warp.park = .ready)
    ∧ (let s (a d : Nat) := (objectState a 1 0 d).atWarp fun w => { w with park := .barrier objectAt true 0x40040 {} (some 4) }
       (s 0x80010001 4).warp.held = false ∧ (s 0x80010001 4).warp.park = .barrier objectAt true 0x40040 {} (some 4)
       ∧ ((s 0x80010001 4).objVal objectAt = true ∧ (s 0x80010001 4).objPh objectAt ≠ true)
       ∧ (s 0 4).objVal objectAt = false
       ∧ ((s 0xC0010001 5).objVal objectAt = true ∧ (s 0xC0010001 5).objPh objectAt = true ∧ (s 0xC0010001 5).objWord objectAt 3 ≠ 4)
       ∧ ((s 0xC0010001 4).objVal objectAt = true ∧ (s 0xC0010001 4).objPh objectAt = true ∧ (s 0xC0010001 4).objWord objectAt 3 = 4)) := by
  refine ⟨⟨unchecked_of (by decide +kernel), ?_⟩, ?_, ?_, ?_, ?_,
    ⟨mayPerform_of (by decide +kernel), noPeer_of (by decide), by decide +kernel, by decide +kernel⟩, ?_⟩
  · decide +kernel
  · intro k hk
    simp only [List.mem_cons, List.not_mem_nil, or_false] at hk
    rcases hk with rfl | rfl | rfl | rfl <;>
      exact ⟨mayPerform_of (by decide +kernel), noPeer_of (by decide), by decide +kernel⟩
  all_goals decide +kernel

/-! ## Witnesses: scratch, peer scratch, private memory and FIFOs -/

/-- The places of one lane in each window: own scratch, peer scratch, and two words of a private area at the mapped page. -/
def privately (s : State) : State := s.atWarp fun w => { w with privBase := 0x1000, privSize := 16 }
theorem witness_LanePlaced :
    LanePlaced scratchy .read 16 (7, 0xF000000040040) [⟨.sram objectAt, 0xF000000040040, 16⟩]
    ∧ LanePlaced scratchy .write 4 (31, 0xF100000180040) [⟨.sram objectAt, 0xF100000180040, 4⟩]
    ∧ LanePlaced (privately base) .write 8 (3, 0xF800000000008) [⟨.phys 0x20010C, 0x110C, 4⟩, ⟨.phys 0x20018C, 0x118C, 4⟩]
    ∧ LanePlaced (privately base) .read 2 (3, 0xF800000000002) [⟨.phys 0x20000E, 0x100E, 2⟩] := by
  refine ⟨.inr (.inl ⟨0x40040, 6, by decide +kernel⟩), .inr (.inr (.inl ⟨0, 0x180040, objectAt, by decide +kernel⟩)),
    .inr (.inr (.inr ⟨8, fun k => 0x20010C + 128 * k, ?_⟩)), .inr (.inr (.inr ⟨2, fun _ => 0x20000E, ?_⟩))⟩ <;> decide +kernel
/-- Segment 6 as a FIFO of `n` entries, S4 and S5 its first address and each lane of V3 the offset of a word. -/
def pushing (n : Nat) : State :=
  ((lastRoom (((scratchy.onSegment 0 6 fun x => { x with mode := .fifo, fifo := List.replicate n (Vector.replicate 32 7) }).withS 4 0x40000).withS 5 0xF0000))).atRegs
    fun r => r.setEntry 3 (Vector.ofFn fun l => BitVec.ofNat 32 (4 * l.val))
theorem onFifo_of {s : State} {ls : List (Nat × Nat)} {seg : Nat} (h : (s.segment (s.gang s.warp.gang).cluster seg).mode = .fifo)
    (hl : (ls.all fun l => decide (0xF000000000000 ≤ l.2) && decide (l.2 - 0xF000000000000 < 2 ^ 23) && (l.2 - 0xF000000000000) % 4 == 0
      && (s.gang s.warp.gang).segOf (l.2 - 0xF000000000000) == some seg) = true) : OnFifo s ls seg := by
  refine ⟨h, fun l hm => ⟨l.2 - 0xF000000000000, ?_⟩⟩
  have := List.all_eq_true.mp hl l hm
  simp only [Bool.and_eq_true, decide_eq_true_eq, beq_iff_eq] at this
  exact ⟨by omega, this.1.1.2, this.1.2, this.2⟩
theorem witness_LoadsAndStores_fifo :
    ∀ n ∈ [0, 1, 2047, 2048], let s := pushing n
      OnFifo s (laneAddrs s 2 3) 6 ∧ (MemoryFree s ∧ s.snap.exec ≠ 0 ∧ s.warp.regs.cnt.l ≠ 63 ∧ s.warp.regs.cnt.s ≠ 63 ∧ s.warp.out = []
        ∧ (∀ k ∈ s.ctxs, k.2.alog = []) ∧ (s.segment (s.gang s.warp.gang).cluster 6).fifo.length = n
        ∧ ([(8, 1), (3, 1)].all fun r => decide (r.1 + r.2 ≤ s.snap.vbnd.toNat)) = true) := by
  unfold MemoryFree
  intro n hn
  simp only [List.mem_cons, List.not_mem_nil, or_false] at hn
  rcases hn with rfl | rfl | rfl | rfl <;> exact ⟨onFifo_of (by decide +kernel) (by decide +kernel), by decide +kernel⟩
/-- Accesses that trap: at a segment that the gang does not hold, at a byte of a FIFO, misaligned and past a private area. -/
def based (s : State) (lo hi : Word) : State := ((s.withS 4 lo).withS 5 hi).atRegs fun r => r.setEntry 3 (Vector.ofFn fun l => BitVec.ofNat 32 (16 * l.val))
theorem witness_AccessChecksTrapInTheirOrder_windows :
    let va (s : State) (k : Fin 32) : Nat := (s.srcPair 2 + ((s.srcV 3)[k]).setWidth 64).toNat
    let own (v : Nat) : Nat := v - 0x000F000000000000
    let closed (s : State) (n v : Nat) : Bool := (List.range n).any fun j => [none, some .cache].contains (s.ownMode (v + j - 0x000F000000000000))
    (let s := based scratchy 0x80000 0xF0000
     (∀ k : Fin 32, 0x000F000000000000 ≤ va s k ∧ va s k + 4 ≤ 0x000F000000800000) ∧ s.snap.exec.getLsbD 0 = true ∧ closed s 4 (va s 0) = true)
    ∧ (let s := based (pushing 0) 0x40000 0xF0000
       (∀ k : Fin 32, 0x000F000000000000 ≤ va s k ∧ va s k + 1 ≤ 0x000F000000800000)
       ∧ (∀ k : Fin 32, closed s 1 (va s k) = false ∧ va s k % 1 = 0) ∧ (0 : BitVec 3) ≠ 2 ∧ s.ownMode (own (va s 0)) = some .fifo)
    ∧ (let s := based (privately base) 0 0xF8000
       (∀ k : Fin 32, 0x000F800000000000 ≤ va s k ∧ va s k + 16 ≤ 0x000F800100000000)
       ∧ (va s 0 - 0x000F800000000000) % 4 = 0 ∧ va s 0 - 0x000F800000000000 + 16 ≤ s.warp.privSize
       ∧ s.warp.privSize < va s 1 - 0x000F800000000000 + 16 ∧ (va s 1 - 0x000F800000000000) % 4 = 0)
    ∧ (let s := based (privately base) 2 0xF8000; (va s 0 - 0x000F800000000000) % min 8 4 ≠ 0 ∧ (va s 0 - 0x000F800000000000) % min 2 4 = 0)
    ∧ (let v (s : State) := (s.srcPair 2 + BitVec.ofInt 64 (0 : BitVec 15).toInt).toNat
       let s := based scratchy 0x80000 0xF0000; let f := based (pushing 0) 0x40000 0xF0000
       v s % 4 = 0 ∧ s.ownMode (own (v s)) ∈ [none, some .cache] ∧ v f % 4 = 0 ∧ f.ownMode (own (v f)) = some .fifo) := by decide +kernel
/-- One outstanding operation of the gang that holds the segments, its lines of memory held. -/
def inScratch (a : Access) : State := ((scratchy.atWarp fun w => { w with out := [a] }).holding 0 (physLines a.lanes))
/-- A wide load at scratch, a private one word by word, and a scalar one. -/
def scratchLoads : List Access :=
  [{ kind := .load 4 8 0, lanes := [{ lane := 5, va := 0xF000000040040, pieces := [⟨.sram objectAt, 0xF000000040040, 16⟩] }] },
   { kind := .load 3 8 0, lanes := (List.range 2).map fun i =>
      { lane := 3, part := i, va := 0x110C + 128 * i, pieces := [⟨.phys (0x20010C + 128 * i), 0x110C + 128 * i, 4⟩] } },
   { kind := .sload 31, lanes := [{ lane := 0, va := 0xF000000040040, pieces := [⟨.sram objectAt, 0xF000000040040, 4⟩] }] }]
theorem witness_LoadReturnWritesTheLanesRead_places :
    ∀ x ∈ scratchLoads, MayPerform (inScratch x) 0 x ∧ InPlace (inScratch x) x
      ∧ LinesHeld (inScratch x) ((inScratch x).warp.user x) false (physLines x.lanes) ∧ (inScratch x).warp.arriving = false := by
  intro x hx
  simp only [scratchLoads, List.mem_cons, List.not_mem_nil, or_false] at hx
  rcases hx with rfl | rfl | rfl <;>
    exact ⟨mayPerform_of (by decide +kernel), inPlace_of (by decide +kernel), linesHeld_of (by decide +kernel), by decide +kernel⟩
/-- A pop whose entry has been taken for lanes 0 and 31. -/
def popped : Access := { kind := .load 2 8 0, got := [(0, [7]), (124, [9])], due := [0, 124] }
theorem witness_LoadReturnWritesTheLanesRead_pop :
    let s := withOut popped; let e : Lanes := Vector.ofFn fun l => if l.val = 0 then 7 else 9
    s.warp.out[0]? = some popped ∧ popped.kind = .load 2 8 0 ∧ popped.lanes = [] ∧ popped.got = [0, 31].map (fun l => (4 * l, [laneAt e l]))
    ∧ popped.due = [0, 31].map (fun l => 4 * l) ∧ s.warp.arriving = false ∧ s.ev.k = 0 ∧ s.ev.b = false := by decide +kernel
/-- A store at scratch beside one at memory, and the words of a wide private one. -/
def scratchStores : List (List (Nat × Nat × Nat × Loc × List Word) × Nat) :=
  [([(3, 0, 0xF000000040040, .sram objectAt, [1, 2]), (7, 0, 0x1000, .phys 0x200000, [3, 4])], 8),
   ([(3, 0, 0x110C, .phys 0x20010C, [1]), (3, 1, 0x118C, .phys 0x20018C, [2])], 4)]
def storeOf (q : List (Nat × Nat × Nat × Loc × List Word) × Nat) : Access :=
  { kind := .store 3 0, lanes := q.1.map fun l => { lane := l.1, part := l.2.1, va := l.2.2.1, pieces := [⟨l.2.2.2.1, l.2.2.1, q.2⟩], data := l.2.2.2.2 } }
theorem witness_StorePerformedWritesExactlyItsBytes_places :
    ∀ q ∈ scratchStores, let x := storeOf q; let s := inScratch x
      MayPerform { s with warp := { s.warp with out := s.warp.out.set 0 x } } 0 x ∧ InPlace s x ∧ LinesHeld s (s.warp.user x) true (physLines x.lanes)
      ∧ s.warp.arriving = false ∧ (∀ l ∈ q.1, l.2.1 < 4 ∧ l.2.2.2.1.solid ∧ q.2 ≤ 4 * l.2.2.2.2.length)
      ∧ q.1.Pairwise (fun l m => 4 * l.1 + l.2.1 < 4 * m.1 + m.2.1) := by
  intro q hq
  simp only [scratchStores, List.mem_cons, List.not_mem_nil, or_false] at hq
  rcases hq with rfl | rfl <;>
    exact ⟨mayPerform_of (by decide +kernel), inPlace_of (by decide +kernel), linesHeld_of (by decide +kernel), by decide +kernel,
      by simp [Loc.solid], by decide⟩
/-- A push of lanes 0 and 31, held for version-store room or not. -/
def pushed (held : Bool) : Access :=
  { kind := .store 2 0, push := true, release := true, waits := held, lanes := [(0, 0xF000000040000, 5), (31, 0xF00000004007C, 6)].map fun l =>
      { lane := l.1, va := l.2.1, pieces := [⟨.fifo 0 6, l.2.1, 4⟩], data := [l.2.2] } }
theorem witness_StorePerformedWritesExactlyItsBytes_push :
    ∀ held : Bool, let s := (pushing 2047).atWarp fun w => { w with out := [pushed held] }
      s.warp.out[0]? = some (pushed held) ∧ MayPerform { s with warp := { s.warp with out := s.warp.out.set 0 (pushed false) } } 0 (pushed false)
      ∧ InPlace s (pushed false) ∧ s.warp.arriving = false ∧ physLines (pushed false).lanes = [] ∧ (s.segment 0 6).mode = .fifo
      ∧ (s.segment 0 6).fifo.length < 2048 := by
  intro held
  cases held <;> exact ⟨by decide +kernel, mayPerform_of (by decide +kernel), inPlace_of (by decide +kernel), by decide +kernel, by decide +kernel,
    by decide +kernel, by decide +kernel⟩
def scratchWord (n : Nat) : LaneAcc := { lane := 31, va := 0xF000000040040, pieces := [⟨.sram objectAt, 0xF000000040040, n⟩], data := [1, 0] }
theorem witness_AtomicReturnUpdatesTheWordOnce_scratch :
    ∀ n ∈ [4, 8], let x : Access := { kind := .atom (if n = 4 then 0 else 14) 1 8, lanes := [scratchWord n] }
      let s := inScratch x
      MayPerform s 0 x ∧ InPlace s x ∧ LinesHeld s (s.warp.user x) true (physLines x.lanes) ∧ s.warp.arriving = false ∧ (Loc.sram objectAt).solid := by
  intro n hn
  simp only [List.mem_cons, List.not_mem_nil, or_false] at hn
  rcases hn with rfl | rfl <;>
    exact ⟨mayPerform_of (by decide +kernel), inPlace_of (by decide +kernel), linesHeld_of (by decide +kernel), by decide +kernel, trivial⟩

/-! ## Witnesses: copies, ranges, segments and tables -/

/-- S0 to S7 holding an octet for a copy of `len` bytes from `src` to byte 0x40040 of own scratch (R300). -/
def octet (src len : Nat) (s : State) : State :=
  [src, 0, 0x40040, 0xF0000, len, 0, 0, 0].zipIdx.foldl (fun s q => s.withS q.2 (BitVec.ofNat 32 q.1)) s
/-- `n` copies in the engine queue of cluster 0. -/
def queued (n : Nat) (s : State) : State :=
  s.onCluster 0 fun c => { c with engine := List.replicate n { job := .copy { fn := 0, src := 0, dst := 0, len := 16 } } }
theorem witness_CopiesAndChainsEnterTheEngine :
    let check (s : State) := checkCopy s false s.scratchOk (((s.grid s.warp.grid).launch.scratch + 2 ^ 18 - 1) / 2 ^ 18 * 2 ^ 18)
      (if (s.grid s.warp.grid).launch.coop then some (s.grid s.warp.grid).groups.length else none)
    let c (s : State) := copyOf 0 0 0 0 fun i => s.srcS (BitVec.ofNat 5 (8 * (0 : BitVec 2).toNat + i))
    let good := lastRoom (queued 63 (octet 0x1000 16 scratchy))
    let empty := octet 0x1000 0 scratchy
    let bad := octet 0x1001 16 scratchy
    (Unchecked good ∧ memoryBlocked good = false ∧ memoryBlocked empty = false ∧ memoryBlocked bad = false
      ∧ memoryBlocked (withOut { kind := .fence }) = true) ∧ (check good (c good) = none ∧ (c good).len ≠ 0 ∧ good.warp.regs.cnt.c ≠ 63
      ∧ (good.cluster good.warp.cluster).engine.length < 64)
    ∧ Unchecked empty ∧ (check empty (c empty) = none ∧ (c empty).len = 0)
    ∧ Unchecked bad ∧ check bad (c bad) = some (1, 0, 0x1001)
    ∧ (let va (s : State) := (s.srcPair 2).toNat
       va (base.withS 4 0x1020) % 64 ≠ 0 ∧ memoryBlocked (base.withS 4 0x1020) = false ∧ va lanes16 % 64 = 0 ∧ va lanes16 < 0x000F000000000000 ∧ Unchecked lanes16)
    ∧ (let va (s : State) := (s.srcPair 2).toNat
       memoryBlocked lanes16 = false ∧ va (base.withS 4 0x1040) % 128 ≠ 0
       ∧ va lanes16 % 128 = 0 ∧ 2 ^ 24 % 128 = 0 ∧ 128 ≤ ((lanes16.withS 7 0x1000000).srcS 7).toNat
       ∧ ((lanes16.withS 7 0x1000000).srcS 7).toNat ≤ 2 ^ 24 ∧ va lanes16 + 2 ^ 24 ≤ 0x000F000000000000) := by
  refine ⟨⟨unchecked_of (by decide +kernel), by decide +kernel⟩, by decide +kernel, unchecked_of (by decide +kernel), by decide +kernel,
    unchecked_of (by decide +kernel), by decide +kernel, ⟨by decide +kernel, by decide +kernel, by decide +kernel, by decide +kernel,
    unchecked_of (by decide +kernel)⟩, by decide +kernel⟩

/-- A mapped page of the address space, byte by byte. -/
theorem translates_of {s : State} {want : Want} {a n : Nat}
    (h : ((List.range n).all fun i => match s.translate s.warp.ctx (a + i) want with
      | .phys _ => true
      | _ => false) = true) : ∀ x, a ≤ x → x < a + n → ∃ p, s.translate s.warp.ctx x want = .phys p := by
  intro x h1 h2
  have := List.all_eq_true.mp h (x - a) (List.mem_range.mpr (by omega))
  rw [Nat.add_sub_cancel' h1] at this
  revert this
  cases s.translate s.warp.ctx x want <;> simp
theorem memoryFree_of {s : State} (h : (s.snap.chkrole == 0 && s.warp.regs.chkrole == 0 && !memoryBlocked s
      && !(s.ctx s.warp.ctx).injectionStopped && s.grids.all fun g => g.2.stable.all fun q => q.2 == 0) = true) : MemoryFree s := by
  simp only [Bool.and_eq_true, beq_iff_eq, Bool.not_eq_true', List.all_eq_true] at h
  exact ⟨h.1.1.1.1, h.1.1.1.2, h.1.1.2, h.1.2, h.2⟩
/-- A grid that deposits to an area of 3 slots at 0x1000, with one slot used, and two lanes active (R313). -/
def depositing : State :=
  let s := lanes16.atRegs fun r => { r with exec := 0x80000001 }
  { ((s.holding 192 [0x4000]).onGrid 1 fun g => { g with launch := { g.launch with darea := 0x1000, cont := 5 }, slotsUsed := 1 }) with
    mem := s.mem.writeBytes 0x200000 (bytesOfNat 4 3) }
def ranged : State := (lastRoom lanes16).withS 7 128
theorem witness_RangeSegmentAndTableWordsComplete_ranges :
    MemoryFree ranged ∧ ranged.warp.regs.cnt.s ≠ 63 ∧ (ranged.srcPair (BitVec.ofNat 4 ((4 : BitVec 5).toNat / 2))).toNat = 0x1000
    ∧ (ranged.srcS 7).toNat = 128 ∧ 0x1000 % 128 = 0 ∧ 128 % 128 = 0 ∧ 0x1000 + 128 ≤ 0x000F000000000000
    ∧ ∀ x, 0x1000 ≤ x → x < 0x1000 + 128 → ∃ p, ranged.translate ranged.warp.ctx x .write = .phys p :=
  ⟨memoryFree_of (by decide +kernel), by decide +kernel, by decide +kernel, by decide +kernel, by decide, by decide, by decide,
    translates_of (by decide +kernel)⟩
theorem witness_RangeSegmentAndTableWordsComplete_segments :
    Unchecked (scratchy.withS 7 1) ∧ memoryBlocked (scratchy.withS 7 1) = false
    ∧ ((scratchy.withS 7 1).gang (scratchy.withS 7 1).warp.gang).segs[((scratchy.withS 7 1).srcS 7).toNat]? = some 6
    ∧ (scratchy.withS 7 1).warp.regs.cnt.l ≠ 63 :=
  ⟨unchecked_of (by decide +kernel), by decide +kernel, by decide +kernel, by decide +kernel⟩
theorem witness_RangeSegmentAndTableWordsComplete_deposit :
    MemoryFree depositing ∧ NamesBelow depositing [(4 * 15, 4), (3, 1)]
    ∧ (depositing.warp.park = .ready ∧ (∀ w ∈ depositing.allWarps, w.flights = []) ∧ depositing.snap.exec ≠ 0
      ∧ depositing.warp.regs.cnt.s ≠ 63 ∧ (depositing.grid depositing.warp.grid).launch.cont ≠ 0
      ∧ (depositing.grid depositing.warp.grid).launch.darea = 0x1000 ∧ popc depositing.snap.exec.toNat 32 = 2
      ∧ depositing.translate depositing.warp.ctx 0x1000 .write = .phys 0x200000
      ∧ (depositing.grid depositing.warp.grid).slotsUsed + 2 = 3 ∧ 3 ≤ depositing.mem.readNat 0x200000 4)
    ∧ (∀ x, 0x1000 ≤ x → x < 0x1000 + (64 + 48 * 3) → ∃ p, depositing.translate depositing.warp.ctx x .write = .phys p)
    ∧ LinesHeld depositing (poolUser depositing.warp.cluster depositing.warp.ctx 1) true (linesOf 0x200000 8) :=
  ⟨memoryFree_of (by decide +kernel), namesBelow_of (by decide +kernel), by decide +kernel, translates_of (by decide +kernel),
    linesHeld_of (by decide +kernel)⟩
/-- An image of 12,288 bytes mapped at the start of a code window at 0x1000, to which S4 points (R89). -/
def imaged : State :=
  { ((base.withS 4 0x1000).onCtx 0 fun c => { c with codewin := 0x1000, codeRuns := [(0, imagePlace 0)] }) with
    images := [{ place := imagePlace 0, source := [], npkt := 1024, entry := 0, size := 12288 }] }
theorem imaged_translate (x : Nat) (h : 0x1000 ≤ x) (k : x < 0x1000 + 4112) :
    imaged.translate imaged.warp.ctx x .read = .phys (imagePlace 0 + (x - 0x1000)) := by
  have e : (imaged.ctx imaged.warp.ctx).codeOffset x = some (x - 0x1000) := by
    have : (imaged.ctx imaged.warp.ctx).codewin = 0x1000 := by decide +kernel
    simp only [Ctx.codeOffset, this]
    exact if_pos ⟨by decide, h, Nat.lt_trans k (by decide)⟩
  have f : (imaged.ctx imaged.warp.ctx).codeRuns = [(0, imagePlace 0)] := by decide +kernel
  have g : imaged.images.map (fun m => (m.place, m.size)) = [(imagePlace 0, 12288)] := by decide +kernel
  unfold State.translate
  simp only [e, g, Ctx.codeXlate, f]
  have hx : x - 4096 < 12288 := by omega
  simp [hx]
theorem witness_RangeSegmentAndTableWordsComplete_tables :
    Unchecked imaged ∧ (imaged.warp.regs.cnt.l ≠ 63 ∧ (imaged.ctx imaged.warp.ctx).injectionStopped = false ∧ (imaged.srcPair 2).toNat = 0x1000
      ∧ 0x1000 % 64 = 0 ∧ 0x1000 + 4112 ≤ 0x000F000000000000)
    ∧ (∀ x, 0x1000 ≤ x → x < 0x1000 + 4112 → ∃ p, imaged.translate imaged.warp.ctx x .read = .phys p)
    ∧ Unchecked base ∧ base.warp.out = [] :=
  ⟨unchecked_of (by decide +kernel), by decide +kernel, fun x h k => ⟨_, imaged_translate x h k⟩,
    unchecked_of (by decide +kernel), by decide +kernel⟩
theorem witness_RangeSegmentAndTableWordsComplete_seal :
    NamesBelow base [((0 : BitVec 6).toNat, 64)]
    ∧ ((base.atRegs fun r => { r with vcount := 1088 }).snap.vbnd.toNat + 512 * 1 + 511 < 1088
      ∧ ¬ (base.atRegs fun r => { r with vcount := 1088 }).snap.vbnd.toNat + 512 * 2 + 511 < 1088
      ∧ (2 : BitVec 3).getLsbD 1 = true ∧ (6 : BitVec 3).getLsbD 2 = true) :=
  ⟨namesBelow_of (by decide +kernel), by decide +kernel⟩

/-- A job of the warp in the engine queue of cluster 0, whose pool holds the lines of the code page. -/
def enginely (s : State) (j : Job) : State := { s.holding 192 [0x4000, 0x4001] with clusters := SMap.upd s.clusters 0 {} fun (c : Cluster) =>
  { c with engine := [{ job := j, warp := some s.warp.uid, ctx := s.warp.ctx, grid := s.warp.grid, gang := s.warp.gang, stamp := 5 }] } }
def sixteen (fn src dst : Nat) : Copy := { fn := fn, src := src, dst := dst, len := 16, imm := 3 }
/-- A step at 0x1080 that copies or XORs 16 bytes from 0x1000 to own scratch, the last or not (R307). -/
def stepWords (op last : Nat) : List Nat := [op * 2 ^ 28 + last * 2 ^ 27, 0x1000, 0, 0x40040, 0xF0000, 16, 0, 0, 0x1040, 0, 0, 0, 0, 0, 0, 0]
def chained (op last : Nat) : State :=
  let s := enginely scratchy (.chain 0x1080 4095 0)
  { s with mem := (stepWords op last).zipIdx.foldl (fun m q => m.writeBytes (0x200080 + 4 * q.2) (bytesOfNat 4 q.1)) s.mem }
def theJob (s : State) : EngineJob := ((s.cluster 0).engine[0]?).getD { job := .chain 0 0 0 }
/-- Where the copies below read and write. -/
def placeOf (va : Nat) : Loc := if va < 0x2000 then .phys (0x200000 + (va - 0x1000)) else .sram (objectAt + (va - 0xF000000040040))
theorem unitAt_of {s : State} {j : EngineJob} {c : Copy} {q va n : Nat} {write : Bool} {l : Loc}
    (h : ((windowOf va != .glob || s.plainAt j.ctx va) && (s.grids.all fun g => g.2.stable.all fun q => q.2 == 0)
      && ((s.grid j.grid).stable.all fun q => q.2 == 0) && s.unitAt j c q va n write == .ok l) = true) (f : Nat) :
    ({ s with fresh := f } : State).unitAt j c q va n write = .ok l := by
  simp only [Bool.and_eq_true, beq_iff_eq] at h
  rw [unitAt_plain h.1.1.1 h.1.1.2 h.1.2, h.2]
theorem witness_EngineEventsMoveTheirBytes_places :
    ∀ c ∈ [sixteen 0 0x1000 0xF000000040040, sixteen 3 0xF000000040040 0x1000, sixteen 4 0x1000 0xF000000040040,
        sixteen 5 0x1000 0xF000000040040],
      let s := enginely scratchy (.copy c); let j := theJob s
      ((s.cluster 0).engine[0]? = some j ∧ j.stopped = false ∧ j.waiting = none ∧ j.sent = false ∧ j.pos = 0 ∧ j.ahead = [] ∧ j.got = [] ∧ j.node = none ∧ j.spoilt = []
        ∧ j.warp = some s.warp.uid ∧ s.warp.park = .ready ∧ j.role = 0 ∧ s.warp.regs.chkrole = 0 ∧ s.warp.out = []
        ∧ (∀ w ∈ s.allWarps, w.flights = []) ∧ c.fn ∈ [0, 3, 4, 5] ∧ c.len = 16 ∧ c.dlt = false ∧ c.ben = false
        ∧ c.src < 0x000F100000000000 ∧ c.dst < 0x000F100000000000 ∧ s.ev.b = false
        ∧ (∀ q ∈ (s.cluster s.warp.cluster).changes, q.warp ≠ some s.warp.uid))
      ∧ (∀ f, let u : State := { s with fresh := f }
          u.unitAt j c 0 c.src 16 false = .ok (placeOf c.src) ∧ u.unitAt j c 0 c.dst 16 true = .ok (placeOf c.dst))
      ∧ LinesHeld s (j.reader 0) false ((placeOf c.src).lines 16) ∧ LinesHeld s (j.writer 0 c) true ((placeOf c.dst).lines 16) := by
  intro c hc
  refine ⟨?_, fun f => ⟨?_, ?_⟩, ?_, ?_⟩
  · revert c; decide +kernel
  all_goals
    simp only [List.mem_cons, List.not_mem_nil, or_false] at hc
    rcases hc with rfl | rfl | rfl | rfl
  all_goals first
    | exact unitAt_of (by decide +kernel) f
    | exact linesHeld_of (by decide +kernel)
theorem witness_EngineEventsMoveTheirBytes_words :
    ∀ q ∈ [((0 : Nat), (0 : BitVec 64)), (3, 0), (0, 1), (3, 1)],
    let c := sixteen 0 0x1000 0xF000000040040
    let s := (enginely scratchy (.copy c)).withEv { b := true, w := BitVec.ofNat 64 (4 * q.1), n := 4, v := q.2 }; let j := theJob s
    (s.ev.b = true ∧ s.ev.w.toNat = 4 * q.1 ∧ s.ev.n = 4 ∧ s.ev.v = q.2)
    ∧ ∀ f, let u : State := { s with fresh := f }
      u.unitAt j c (4 * q.1) (c.src + 4 * q.1) 4 false = .ok (.phys (0x200000 + 4 * q.1))
      ∧ u.unitAt j c (4 * q.1) (c.dst + 4 * q.1) 4 true = .ok (.sram (objectAt + 4 * q.1)) := by
  intro q hq
  refine ⟨?_, fun f => ⟨?_, ?_⟩⟩
  · revert q; decide +kernel
  all_goals
    simp only [List.mem_cons, List.not_mem_nil, or_false] at hq
    rcases hq with rfl | rfl | rfl | rfl
  all_goals exact unitAt_of (by decide +kernel) f
theorem witness_EngineEventsMoveTheirBytes_steps :
    ∀ q ∈ [(0, 1), (0, 0), (2, 1), (2, 0)], let s := chained q.1 q.2; let j := theJob s
      let d := wordsOfBytes 64 (s.mem.readBytes 0x200080 64); let w0 := (d.getD 0 0).toNat
      let c : Copy := { fn := if q.1 = 2 then 4 else 3, src := 0x1000, dst := 0xF000000040040, len := 16 }
      (j.job = .chain 0x1080 4095 0 ∧ j.step = [] ∧ s.ev.b = false ∧ 4095 < 4096 ∧ 0x1080 % 64 = 0
        ∧ s.translate j.ctx 0x1080 .read = .phys 0x200080 ∧ 0x200080 < 2 ^ 42
        ∧ stepMalformed false d = false ∧ fld w0 28 4 ≠ 1 ∧ stepCopy d = c ∧ w0.testBit 27 = decide (q.2 = 1))
      ∧ (∀ f, let u : State := { s with fresh := f }
          u.unitAt j c 0 c.src 16 false = .ok (placeOf c.src) ∧ u.unitAt j c 0 c.dst 16 true = .ok (placeOf c.dst))
      ∧ LinesHeld s (j.reader 0) false (linesOf 0x200080 64)
      ∧ LinesHeld s (j.reader 0) false ((placeOf c.src).lines 16) ∧ LinesHeld s (j.writer 0 c) true ((placeOf c.dst).lines 16) := by
  intro q hq
  refine ⟨?_, fun f => ⟨?_, ?_⟩, ?_, ?_, ?_⟩
  · revert q; decide +kernel
  all_goals
    simp only [List.mem_cons, List.not_mem_nil, or_false] at hq
    rcases hq with rfl | rfl | rfl | rfl
  all_goals first
    | exact unitAt_of (by decide +kernel) f
    | exact linesHeld_of (by decide +kernel)
/-- A second gang of the context that is saved, first placed on segment 9 of cluster 2; its arrival log of one page at
0x1000 (R372, R378). -/
def logging : State :=
  let s := { base with gangs := SMap.put base.gangs 7 { grid := 1, phase := .saved, segs := [], firstCluster := some 2, firstSegs := [9] } }
  let s := s.onCtx 0 fun c => { c with swdesc := 0x1100 }
  { s with mem := (s.mem.writeBytes 0x20010C (bytesOfNat 8 0x1000)).writeBytes 0x200114 (bytesOfNat 4 1) }
def farStore : Access :=
  let va := 0x000F100000000000 + 2 * 2 ^ 23 + 9 * 2 ^ 18 + 0x20
  { kind := .store 4 0, lanes := [{ lane := 31, va := va, pieces := [⟨.logged 7 0x20, va, 16⟩], data := [1, 2, 3, 4] }] }
theorem witness_EngineEventsMoveTheirBytes_others :
    (let s := enginely base (.chain 0x1020 0 0); let j := theJob s
     (s.cluster 0).engine[0]? = some j ∧ j.stopped = false ∧ j.waiting = none ∧ j.node = none ∧ j.warp = some s.warp.uid ∧ j.step = []
     ∧ (∀ q ∈ (s.cluster s.warp.cluster).changes, q.warp ≠ some s.warp.uid) ∧ s.warp.park = .ready ∧ s.warp.out = [] ∧ s.warp.latch = none ∧ j.job = .chain 0x1020 0 0 ∧ 0x1020 % 64 ≠ 0)
    ∧ (let s := scratchy.onCluster 0 fun c => { c with changes := [{ segment := 31, mode := .fifo, warp := some 1, stamp := 3 }] }
       s.ev.b = false ∧ (s.cluster 0).changes[0]? = some { segment := 31, mode := .fifo, warp := some 1, stamp := 3 } ∧ 31 < 32
       ∧ (∀ w ∈ s.allWarps, w.out = [] ∧ w.flights = []) ∧ (∀ q ∈ s.clusters, q.2.engine = []) ∧ (s.segment 0 31).claimed = false ∧ ∀ q ∈ s.cohReqs, q.holder ≠ 0)
    ∧ (scratchy.withEv { b := true, n := 5 }).ev.b = true ∧ (scratchy.withEv { b := true, n := 31 }).ev.n < 32
    ∧ (let s := logging.atWarp fun w => { w with out := [farStore] }; let c := s.ctx s.warp.ctx
       MayPerform s 0 farStore ∧ s.warp.park = .ready ∧ s.warp.arriving = false
       ∧ windowOf (0x000F100000000000 + 2 * 2 ^ 23 + 9 * 2 ^ 18 + 0x20) = .peer 2 (9 * 2 ^ 18 + 0x20)
       ∧ s.peerTarget s.warp.ctx 2 (9 * 2 ^ 18 + 0x20) = .saved 7 0x20 false ∧ s.alogArea s.warp.ctx = some (0x1000, 4096)
       ∧ c.alogOvf = false ∧ c.alogHead.toNat + 32 ≤ 4096
       ∧ ∀ x ∈ [0x1000 + c.alogHead.toNat, c.swdesc.toNat + 24, c.swdesc.toNat + 28], (s.ctxPhys s.warp.ctx x true).isSome = true) := by
  exact ⟨by decide +kernel, by decide +kernel, by decide, by decide, mayPerform_of (by decide +kernel), by decide +kernel⟩

/-! ## Witnesses: the matrix queue -/

/-- A window of four tiles, the last room in M, and fifteen entries in the queue of core 0; S10 and S11 hold `a` and `b`. -/
def matrixy (a b : Nat) : State :=
  ((((lastRoom scratchy).atRegs fun r => { r with vcount := 2112 }).onCore 0 fun c =>
    { c with mq := List.replicate 15 { id := 0, uid := 9, op := .opfence } }).withS 10 (BitVec.ofNat 32 a)).withS 11 (BitVec.ofNat 32 b)
/-- The hypotheses that all forms share, of a state and a tile. -/
def matrixReady (s : State) (t : BitVec 2) : Bool :=
  s.snap.exec == 0xFFFFFFFF && s.snap.chkrole == 0 && s.warp.regs.chkrole == 0 && s.warp.regs.cnt.m != 63
    && decide ((s.core s.snap.coreid.toNat).mq.length < 16) && decide (s.snap.vbnd.toNat + 512 * t.toNat + 511 < s.snap.vcount.toNat)
theorem witness_MatrixWordsEnterTheQueue_refused :
    (base.atRegs fun r => { r with exec := 0x7FFFFFFF }).snap.exec ≠ 0xFFFFFFFF
    ∧ (let s := matrixy 0 0
       (s.atRegs fun r => { r with vcount := 2111 }).snap.exec = 0xFFFFFFFF
       ∧ ¬ s.snap.vbnd.toNat + 512 * (3 : BitVec 2).toNat + 511 < (s.atRegs fun r => { r with vcount := 2111 }).snap.vcount.toNat) := by
  decide +kernel
theorem witness_MatrixWordsEnterTheQueue_forms :
    matrixReady (matrixy 0 0) 3 = true ∧ matrixReady (matrixy 0 0) 0 = true
    ∧ (let s := matrixy (2 ^ 19 - 16 * 256 * 16) (16384 - 128); let sa := (s.srcS 10).toNat; let sb := (s.srcS 11).toNat
       let kn := 32 * 2 ^ (3 : BitVec 2).toNat; let bits := mmaBits 5
       matrixReady s 3 = true ∧ sa % 128 = 0 ∧ s.scratchOk sa (16 * kn * bits) = true ∧ sb + kn * bits / 32 ≤ 16384)
    ∧ (let s := matrixy (2 ^ 19 - 256) 0x40; let sa := (s.srcS 10).toNat; let sb := (s.srcS 11).toNat
       matrixReady s 3 = true ∧ sa % 64 = 0 ∧ sb % 64 = 0 ∧ s.scratchOk sa 256 = true ∧ s.scratchOk sb 256 = true)
    ∧ (let s := matrixy 0x80 (2 ^ 19 - 1024); let sa := (s.srcS 10).toNat; let sb := (s.srcS 11).toNat
       matrixReady s 3 = true ∧ sa % 128 = 0 ∧ sb % 64 = 0 ∧ s.scratchOk sa (2048 * quantBits 2) = true
       ∧ s.scratchOk sb (256 * (128 / (32 * 2 ^ (0 : BitVec 2).toNat))) = true)
    ∧ (let s := matrixy 0x10 512; let sa := (s.srcS 10).toNat; let sb := (s.srcS 11).toNat; let len := 128 * cvSize 0
       matrixReady s 3 = true ∧ sa % 16 = 0 ∧ sb % 16 = 0 ∧ len ≤ sb ∧ sb ≤ 2 ^ 24 ∧ ∀ i < 128, s.scratchOk (sa + i * sb) len = true)
    ∧ (let s := (matrixy 0 0x1000000).withS 11 0xE0000; let t := s.withS 9 0x1000000
       let ga := (t.srcPair (BitVec.ofNat 4 ((10 : BitVec 5).toNat / 2))).toNat; let sb := (t.srcS 9).toNat; let len := 128 * cvSize 0
       matrixReady t 3 = true ∧ ga % 16 = 0 ∧ sb % 16 = 0 ∧ len ≤ sb ∧ sb ≤ 2 ^ 24 ∧ ga + 127 * sb + len ≤ 0x000F000000000000
       ∧ ∀ g ∈ t.grids, ∀ q ∈ g.2.stable, q.2 = 0) := by
  decide +kernel
/-- An entry of batch `b`, complete or not. -/
def batched (b : Word) (done : Bool) : State :=
  base.atWarp fun w => { w with batch := 5, flights := [{ id := 1, uid := 1, op := .opfence, batch := b, done := done }] }
theorem witness_MatrixWordsEnterTheQueue_batches :
    let covers (b : Word) (s : State) : Prop := ∀ e ∈ s.warp.flights, e.done = true ∨ 2 ^ 31 ≤ (b - e.batch).toNat
    (batched 5 false).snap.exec = 0xFFFFFFFF ∧ ((batched 5 false).core (batched 5 false).snap.coreid.toNat).mq.length < 16 ∧ (batched 5 false).warp.latch = none
    ∧ (batched 5 false).snap.chkrole = 0 ∧ (batched 5 false).warp.regs.chkrole = 0
    ∧ 2 ^ 31 ≤ ((batched 5 false).warp.batch - 6).toNat ∧ ((batched 5 false).warp.batch - 5).toNat < 2 ^ 31
    ∧ covers 5 (batched 5 true) ∧ covers 4 (batched 5 false) ∧ ¬ covers 5 (batched 5 false) := by decide +kernel

/-- An entry of the warp at the head of the queue of core 0. -/
def heading (e : MEntry) : State :=
  (scratchy.onCore 0 fun c => { c with mq := [e], achkctl := 0 }).atWarp fun w =>
    { w with flights := [e], regs := { w.regs with cnt := { w.regs.cnt with m := 1 } } }
def tileEntry (op : MOp) : MEntry := { id := 7, uid := 1, gang := 1, op := op, dst := some 64, src := 64 }
theorem witness_MatrixEntriesTakeEffectInQueueOrder :
    (∀ e ∈ [tileEntry .tzero, { tileEntry .tmove with src := 576 },
        { tileEntry (.mma 0 32 true false) with reads := [{ base := 0x80, len := 3072 }], bword := 16380, bwords := 4 },
        { tileEntry (.tload 0) with reads := [{ base := 0x10, pitch := 528, len := 512, rows := 128 }] },
        { tileEntry .opfence with dst := none }],
      let s := heading e
      (s.core s.ev.k).mq = [e] ∧ e.core = s.ev.k ∧ e.uid = s.warp.uid ∧ e.waiting = none ∧ s.warp.park = .ready
      ∧ (∀ f ∈ s.warp.flights, f.id = e.id → f.hazard = false) ∧ (s.core s.ev.k).achkctl.getLsbD 17 = false
      ∧ s.ev.bytes = [] ∧ s.warp.stale = [] ∧ s.warp.out = [])
    ∧ (let e : MEntry := { tileEntry (.tstore 0) with writes := [{ base := 0, len := 512, pitch := 512, rows := 128 }] }
       let f : MEntry := { e with id := 8, admitted := true, presented := some 1 }
       e.updates = true ∧ e.admitted = false ∧ e.presented = none
       ∧ (∀ c ∈ (heading e).cores, ∀ f, c.2.mq.head? = some f → f.id = e.id)
       ∧ (let p : MEntry := { e with presented := some 2 }
          let s := (heading p).onCore 1 fun c => { c with mq := [f] }
          p.presented = some 2 ∧ f ∈ s.cores.filterMap (fun c => c.2.mq.head?) ∧ f.id ≠ p.id ∧ f.updates = true ∧ f.admitted = true
          ∧ f.shares p = true))
    ∧ ∀ g ∈ [true, false],
      let e : MEntry := { tileEntry (.tstore 0) with writes := [{ global := g, base := 0, len := 512, pitch := 512, rows := 128 }] }
      let s : State := { heading e with cores := (0, { mq := [e] }) :: (List.range (if g then 256 else 64)).map fun k =>
        (k + 1, { mq := [{ e with id := 9, admitted := true }] }) }
      (s.core s.ev.k).mq = [e] ∧ e.updates = true ∧ e.admitted = false
      ∧ (if e.global then 256 else 64) ≤ ((s.cores.filterMap fun c => c.2.mq.head?).filter fun f => f.id != e.id && f.updates).countP
          (fun f => f.admitted && f.global == e.global && (e.global || clusterOfCore f.core == clusterOfCore e.core)) := by
  refine ⟨by decide +kernel, ⟨by decide +kernel, by decide +kernel, by decide +kernel, ?_, by decide +kernel⟩, by decide +kernel⟩
  intro c hc f hf
  have h : ∀ c ∈ (heading { tileEntry (.tstore 0) with writes := [{ base := 0, len := 512, pitch := 512, rows := 128 }] }).cores,
      c.2.mq.all (fun f => f.id == 7) = true := by decide +kernel
  have := List.all_eq_true.mp (h c hc) f (List.mem_of_mem_head? hf)
  simpa [tileEntry] using this

/-- A region of scratch that lies in the first segment of the gang of `scratchy`. -/
theorem regionAt_scratch (e : MEntry) (wants : List Want) (r : Region) (he : e.gang = 1) (h0 : e.pages = none ∧ e.pos = 0 ∧ e.got = [])
    (hg : r.global = false) (hb : r.base + 127 * r.pitch + r.len ≤ 2 ^ 18) (hr : r.rows ≤ 128) :
    RegionAt (heading e) e wants r fun x => .sram (sramAddr 0 5 x) := by
  have lt : ∀ x, r.has x → x < 2 ^ 18 := by
    rintro x ⟨i, hi, _, h⟩
    have := Nat.mul_le_mul_right r.pitch (show i ≤ 127 by omega)
    omega
  refine ⟨fun x y _ _ h => ?_, h0.1, h0.2.1, h0.2.2, ?_⟩
  · simp only [sramAddr, Loc.sram.injEq] at h
    omega
  · rw [hg]
    have hs : (heading e).gang e.gang = scratchy.gang 1 := by rw [he]; rfl
    have hl : (scratchy.gang 1).segs = [5, 6] ∧ (scratchy.gang 1).cluster = 0 := by decide +kernel
    intro x hx
    have := lt x hx
    refine ⟨5, ?_, ?_⟩
    · rw [hs, Gang.segOf, hl.1, show x / segSize = 0 by unfold segSize; omega]
      rfl
    · rw [hs, hl.2, show x % segSize = x by unfold segSize; omega]
/-- Entries that read or write regions of scratch. -/
def regional (op : MOp) (r : Region) : MEntry := { tileEntry op with dst := none, writes := [r], admitted := true }
theorem witness_MatrixEntriesTakeEffectInQueueOrder_regions :
    (∀ cv ∈ [0, 1, 2], ∀ op ∈ [MOp.tstore cv, .taddst cv],
      let q : Region := { base := 0x10, pitch := 528, len := 128 * cvSize cv, rows := 128 }
      let e := regional op q
      let s := heading e
      cv < 3 ∧ e.writes = [q] ∧ q.base % 16 = 0 ∧ q.pitch % 16 = 0 ∧ q.len ≤ q.pitch ∧ q.rows = 128 ∧ q.len = 128 * cvSize cv
      ∧ e.admitted = true ∧ s.warp.stale = [] ∧ e.dst = none ∧ s.warp.regs.chkrole = 0 ∧ s.ev.b = false
      ∧ (∀ g ∈ s.grids, ∀ p ∈ g.2.stable, p.2 = 0) ∧ q.global = false
      ∧ (s.core s.ev.k).mq = [e] ∧ e.core = s.ev.k ∧ e.uid = s.warp.uid ∧ e.waiting = none ∧ s.warp.park = .ready
      ∧ ∀ f ∈ s.warp.flights, f.id = e.id → f.hazard = false)
    ∧ (∀ cv ∈ [0, 1, 2], ∀ op ∈ [MOp.tstore cv, .taddst cv],
      let q : Region := { base := 0x10, pitch := 528, len := 128 * cvSize cv, rows := 128 }
      RegionAt (heading (regional op q)) (regional op q) [.read, .write] q fun x => .sram (sramAddr 0 5 x))
    ∧ (∀ fn ∈ [0, 1, 2, 3], ∀ kn ∈ [32, 64, 128], let qa : Region := { base := 0, len := 2048 * quantBits fn }
        let qb : Region := { base := 2 ^ 17, len := 256 * (128 / kn) }
        let e : MEntry := { tileEntry (.mquant fn kn 16) with dst := none, writes := [qa, qb], admitted := true }
        RegionAt (heading e) e [] qa (fun x => .sram (sramAddr 0 5 x)) ∧ RegionAt (heading e) e [] qb (fun x => .sram (sramAddr 0 5 x))
        ∧ ∀ x y, qa.has x → qb.has y → Loc.sram (sramAddr 0 5 x) ≠ .sram (sramAddr 0 5 y)) := by
  refine ⟨by decide +kernel, fun cv hcv op _ => ?_, fun fn hfn kn hkn => ?_⟩
  · have key : ∀ c ∈ [0, 1, 2], 128 * cvSize c ≤ 512 := by decide
    have := key cv hcv
    exact regionAt_scratch _ _ _ rfl ⟨rfl, rfl, rfl⟩ rfl (by simp only; omega) (Nat.le_refl _)
  · have k1 : ∀ c ∈ [0, 1, 2, 3], 2048 * quantBits c ≤ 2 ^ 17 := by decide
    have k2 : ∀ c ∈ [32, 64, 128], 256 * (128 / c) ≤ 1024 := by decide
    have h1 := k1 fn hfn
    have h2 := k2 kn hkn
    refine ⟨regionAt_scratch _ _ _ rfl ⟨rfl, rfl, rfl⟩ rfl ?_ (show 1 ≤ 128 by omega), regionAt_scratch _ _ _ rfl ⟨rfl, rfl, rfl⟩ rfl ?_ (show 1 ≤ 128 by omega), ?_⟩
    · simp only; omega
    · simp only; omega
    · rintro x y ⟨i, hi, _, hx⟩ ⟨j, hj, hy, _⟩ h
      simp only [sramAddr, Loc.sram.injEq] at h
      have : i = 0 := by simp only at hi; omega
      subst this
      simp only at hx hy
      omega
/-- An MSCALE, a TLOAD of a two-byte format, and one whose rows are the first 256 bytes of the mapped page, held by cluster 0. -/
def scaling : MEntry := { tileEntry .mscale with reads := [{ base := 0, len := 256 }, { base := 256, len := 256 }] }
def pageRows : Region := { global := true, base := 0x1000, len := 256, rows := 128 }
def loading : MEntry := { tileEntry (.tload 2) with reads := [pageRows] }
theorem witness_MatrixEntriesTakeEffectInQueueOrder_reads :
    (∀ e ∈ [scaling, { tileEntry (.tload 1) with reads := [{ base := 0x10, pitch := 528, len := 256, rows := 128 }] }, loading],
      let s := (heading e).holding 0 [0x4000, 0x4001]
      (s.core s.ev.k).mq = [e] ∧ e.core = s.ev.k ∧ e.uid = s.warp.uid ∧ e.waiting = none ∧ s.warp.park = .ready ∧ s.warp.stale = []
      ∧ (∀ f ∈ s.warp.flights, f.id = e.id → f.hazard = false) ∧ e.dst = some 64 ∧ s.warp.regs.chkrole = 0 ∧ s.ev.b = false)
    ∧ (let s := (heading loading).holding 0 [0x4000, 0x4001]; let place (x : Nat) : Loc := .phys (0x200000 + (x - 0x1000))
       RegionAt s loading [.read] pageRows place
       ∧ ∀ x a, pageRows.has x → place x = .phys a →
          LinesHeld s { clusterUser (clusterOfCore loading.core) loading.ctx 1 with stamp := loading.id } false [a / 128]) := by
  have walk : ((List.range 256).all fun i => ((heading loading).holding 0 [0x4000, 0x4001]).translate 0 (0x1000 + i) .read == .phys (0x200000 + i)) = true := by
    decide +kernel
  have held : ∀ l ∈ [0x4000, 0x4001], LinesHeld ((heading loading).holding 0 [0x4000, 0x4001])
      { clusterUser (clusterOfCore loading.core) loading.ctx 1 with stamp := loading.id } false [l] := by
    intro l hl
    simp only [List.mem_cons, List.not_mem_nil, or_false] at hl
    rcases hl with rfl | rfl <;> exact linesHeld_of (by decide +kernel)
  have at_ : ∀ x, pageRows.has x → 0x1000 ≤ x ∧ x < 0x1100 := by
    rintro x ⟨i, _, h, k⟩
    simp only [pageRows, Nat.mul_zero] at h k
    omega
  refine ⟨by decide +kernel, ⟨fun x y hx hy h => ?_, rfl, rfl, rfl, ?_⟩, fun x a hx h => ?_⟩
  · simp only [Loc.phys.injEq] at h
    have := at_ x hx
    have := at_ y hy
    omega
  · refine ⟨fun _ => 0x200, fun x hx => ?_⟩
    have hx := at_ x hx
    have w := List.all_eq_true.mp walk (x - 0x1000) (List.mem_range.mpr (by omega))
    rw [show 0x1000 + (x - 0x1000) = x by omega] at w
    have ha : 0x200 * 4096 + x % 4096 = 0x200000 + (x - 0x1000) := by omega
    refine ⟨by rw [ha], fun want hw => ?_⟩
    have : want = .read := by simpa using hw
    subst this
    rw [ha]
    exact eq_of_beq w
  · have hx := at_ x hx
    simp only [Loc.phys.injEq] at h
    refine held _ ?_
    simp only [List.mem_cons, List.not_mem_nil, or_false]
    omega

/-! ## Witnesses: checked runs -/

/-- A core chosen for a run, whichever it is, where some core can take one. -/
theorem chooseCore_some {s : State} {n p : Nat} {avoid : List Nat} {x : Nat} (h : x ∈ s.runCores n avoid) :
    ∃ c, s.chooseCore n p avoid = some c := by
  have key : ∀ l : List Nat, l ≠ [] → ∃ c, l[Config.freeChoice s.fresh % l.length]? = some c := fun l hl =>
    ⟨_, List.getElem?_eq_getElem (Nat.mod_lt _ (List.length_pos_iff.mpr hl))⟩
  unfold State.chooseCore
  refine key _ ?_
  split
  · intro hn
    rename_i hf
    have h1 : x ∉ List.filter (fun c => dieOfCluster (clusterOfCore c) != dieOfCluster (clusterOfCore p)) (s.runCores n avoid) := by
      rw [List.isEmpty_iff.mp hf]; simp
    have h2 : x ∉ List.filter (fun c => dieOfCluster (clusterOfCore c) == dieOfCluster (clusterOfCore p)) (s.runCores n avoid) := by
      rw [hn]; simp
    simp only [List.mem_filter, h, true_and, bne_iff_ne, ne_eq, beq_iff_eq, Decidable.not_not] at h1 h2
    exact h2 h1
  · rename_i hf
    intro hn
    exact hf (by rw [hn]; rfl)

/-- A checked warp of role `role` whose span is ending. -/
def ending (role : BitVec 2) : State := base.atWarp fun w => { w with
  regs := { w.regs with chkrole := role }, span := { w.span with ending := true, groups := 2 ^ 24 } }
/-- The vote on span 0 of the primary, warp 9 on core 0, with signature `ssig`. -/
def voteOf (ssig : Word) : Vote :=
  { primary := { uid := 9, core := 0, ssig := ssig, rsig := foldSeal (ending 2).warp, endState := { regs := { vcount := 64 } } }, grid := 1 }
/-- A shadow of it in the focus, the primary parked for the verdict. -/
def shadowed (ssig : Word) : State :=
  { ((ending 2).atWarp fun w => { w with primary := 9 }) with
    votes := [voteOf ssig], others := [{ base.warp with uid := 9, park := .verdict }] }
/-- The winner, warp 9, has two lines still to commit. -/
def committing (last : List Bool) : State :=
  let v (line : Nat) (l : Bool) : Version :=
    { die := 0, line := line, va := 128 * line, ctx := 0, grid := 1, uid := 9, span := 0, role := 1, bytes := [(0, 5), (127, 6)], last := l }
  { base.holding 192 [0x4000, 0x4001] with votes := [{ voteOf 0 with winner := some 9 }], versions := last.zipIdx.map fun q => v (0x4000 + q.2) q.1 }
theorem witness_CheckedRunEvents_spans :
    ((ending 1).warp.regs.chkrole ≠ 0 ∧ 2 ^ 24 ≤ (ending 1).warp.span.groups)
    ∧ (let w := (ending 1).warp
       w.regs.chkrole = 1 ∧ w.span.ending = true ∧ w.drained = true ∧ w.park = .ready ∧ w.flights = []) := by decide +kernel
theorem witness_CheckedRunEvents_shadow : ∃ c,
    (shadowed 0).votes[(shadowed 0).ev.m]? = some (voteOf 0) ∧ (voteOf 0).shadowCore = none
    ∧ (shadowed 0).chooseCore (voteOf 0).primary.endState.regs.vcount.toNat (voteOf 0).primary.core
      [clusterOfCore (voteOf 0).primary.core] = some c := by
  have h : 767 ∈ (shadowed 0).runCores (voteOf 0).primary.endState.regs.vcount.toNat [clusterOfCore (voteOf 0).primary.core] :=
    List.mem_filter.mpr ⟨List.mem_range.mpr (by decide), by decide +kernel⟩
  obtain ⟨c, hc⟩ := chooseCore_some (p := (voteOf 0).primary.core) h
  exact ⟨c, by rfl, by rfl, hc⟩
theorem witness_CheckedRunEvents_run :
    ∀ k ∈ [0, 5], let sig := BitVec.ofNat 32 k; let s := shadowed sig; let w := s.warp; let v := voteOf sig
      (w.regs.chkrole = 2 ∧ w.span.ending = true ∧ w.drained = true ∧ w.flights = [] ∧ w.span.stopped = false
        ∧ w.span.incomplete = false ∧ w.span.trap = none)
      ∧ (s.votes.findIdx? (fun v => v.primary.uid == w.primary && v.span == w.regs.spanno) = some 0
        ∧ v.winner = none ∧ v.tie = none ∧ v.primary.differs = false ∧ v.primary.trap = none ∧ v.primary.closing = .none
        ∧ v.primary.last = none)
      ∧ v.primary.rsig = foldSeal w ∧ (v.primary.ssig == w.regs.ssig) = (sig == 0) ∧ s.versions = [] := by decide +kernel
theorem witness_CheckedRunEvents_parked (sig : Word) : let p : Warp := { base.warp with uid := 9, park := .verdict }
    (shadowed sig).votes = [voteOf sig] ∧ (shadowed sig).others = [p] ∧ p.uid = (voteOf sig).primary.uid ∧ p.park = .verdict ∧ p.held = false :=
  ⟨rfl, rfl, rfl, rfl, rfl⟩
theorem witness_CheckedRunEvents_commit :
    ∀ q ∈ [([true, false], 1), ([true, true], 0)], let s := committing q.1
      let all := s.versions.filter (fun x => x.uid == 9 && x.span == (voteOf 0).span)
      let x := (s.versions[q.2]?).getD { die := 3, line := 0, va := 0, ctx := 0, grid := 0, uid := 0, span := 0, role := 0, bytes := [] }
      (s.votes[s.ev.m]? = some { voteOf 0 with winner := some 9 } ∧ 2 ≤ all.length ∧ s.ev.n = 0 ∧ x.counted = []
        ∧ (if ∀ y ∈ all, y.last = true then all else all.filter fun y => !y.last).head? = some x
        ∧ ∀ g ∈ s.grids, ∀ q ∈ g.2.stable, q.2 = 0)
      ∧ LinesHeld s (stackUser x.die x.ctx) true [x.line] := by
  intro q hq
  refine ⟨?_, ?_⟩
  · revert q; decide +kernel
  · simp only [List.mem_cons, List.not_mem_nil, or_false] at hq
    rcases hq with rfl | rfl <;> exact linesHeld_of (by decide +kernel)

/-! ## Witnesses: tokens -/

/-- A message in flight for line 0x40 of home 0, and what holders have of the line. -/
def carrying (m : CohMsg) (ts : List (Nat × Tok) := []) : State :=
  { base with cohMsgs := [m], toks := ts.map fun q => (256 * 0x40 + q.1, q.2) }
def pact : PReq := { act := true, line := 0x40, ddie := 1 }
/-- What a message must find to be taken: no active entry for its line, and room for the line where it arrives. -/
def quietAt (s : State) (m : CohMsg) : Bool :=
  s.cohMsgs[s.ev.k]? == some m && s.activeEntry (dieOfHolder m.dst) m.line == none && decide (s.toks.map fun q => q.1).Nodup
    && ((SMap.find s.retention (256 * m.line + m.dst)).isSome || decide ((s.sharers m.dst m.line).length < s.waysOf m.dst m.line))
theorem witness_TokenMessages_requests :
    homeHolder 0x40 = 196 ∧ homeDie 0x40 = 0
    ∧ (∀ ty ∈ [0, 1, 2], let m : CohMsg := { type := ty, line := 0x40, src := 195, dst := 196, req := 195 }; let s := carrying m
        quietAt s m = true ∧ (s.tok 196 0x40).tok = 256 ∧ (s.tok 196 0x40).owner = true ∧ (s.tok 196 0x40).valid = true ∧ m.age = 0)
    ∧ (∀ q ∈ [(3, 192), (4, 199), (11, 192), (12, 196)], let m : CohMsg := { type := q.1, line := 0x40, src := 5, dst := q.2, tok := 2 }
        let s := carrying m [(196, ⟨true, false, true, 254⟩)]
        quietAt s m = true ∧ m.fwd = none ∧ m.tok ≠ 0 ∧ 192 ≤ q.2 ∧ q.2 < 200 ∧ SMap.find s.quarantine (128 * 0x40 / 4096) = none
        ∧ (s.tok q.2 0x40).tok + m.tok ≤ 256 ∧ ∀ r ∈ s.cohReqs, ¬ (r.holder = q.2 ∧ r.line = 0x40))
    ∧ (∀ ty ∈ [3, 4, 5, 11, 12], let m : CohMsg := { type := ty, line := 0x40, src := 191, dst := 195, tok := 2, fwd := some 196 }
        quietAt (carrying m) m = true)
    ∧ (∀ ty ∈ [3, 4, 11, 12, 5], let m : CohMsg := { type := ty, line := 0x40, src := 192, dst := 191, req := 191, tok := 2 }
        let q : CohReq := { holder := 191, req := 191, line := 0x40 }
        let s := { carrying m with cohReqs := [q] }
        quietAt s m = true ∧ m.fwd = none ∧ m.tok ≠ 0 ∧ 191 < 192 ∧ s.cohReqs.find? (fun q => q.holder == 191 && q.line == 0x40) = some q
        ∧ s.caching 191 = true ∧ q.hint ≠ 3 ∧ q.relayed = false ∧ s.cohReqs.find? (fun q => q.holder == 191 && q.line == 0x40 && q.req == m.req
            && q.data.isEmpty && (isCluster 191 || q.bypass)) = some q)
    ∧ (let m : CohMsg := { type := 5, line := 0x40, src := 196, dst := 195, req := 191 }
       let q : CohReq := { holder := 195, req := 191, line := 0x40, relayed := true, bypass := true }
       let s := { carrying m with cohReqs := [q] }
       s.cohMsgs[s.ev.k]? = some m ∧ m.fwd = none ∧ q.relayed = true ∧ s.cohReqs.find? (fun q => q.holder == 195 && q.line == 0x40
         && q.req == m.req && q.data.isEmpty && (isCluster 195 || q.bypass)) = some q) := by
  decide +kernel
theorem witness_TokenMessages_persistent :
    (let m : CohMsg := { type := 6, line := 0x40, src := 193, dst := 192, req := 195 }; let s := carrying m
     s.cohMsgs[s.ev.k]? = some m ∧ m.req < 196 ∧ s.preq (homeDie 0x40) m.req = none ∧ s.arbiters = [] ∧ s.preqs = [])
    ∧ (let m : CohMsg := { type := 7, line := 0x40, src := 192, dst := 195, req := 3, ddie := 1 }
       let s := carrying m [(195, ⟨true, true, true, 9⟩)]
       let e : PReq := { act := true, ddie := 1, line := 0x40 }
       s.cohMsgs[s.ev.k]? = some m ∧ m.dst = poolOf 3 ∧ (s.toks.map fun q => q.1).Nodup ∧ (s.tok 195 0x40).tok ≠ 0 ∧ 195 ≠ e.target)
    ∧ (let m : CohMsg := { type := 9, line := 0x40, src := 192, dst := 195, req := 3 }
       let s := { carrying m with preqs := [(256 * 3 + 3, pact)] }
       s.cohMsgs[s.ev.k]? = some m ∧ m.dst = poolOf 3 ∧ (s.toks.map fun q => q.1).Nodup ∧ 3 ≠ homeDie 0x40 ∧ (s.preqs.map fun q => q.1).Nodup
       ∧ (∀ q ∈ s.cohReqs, q.line ≠ 0x40) ∧ s.armed 3 0x40 = false)
    ∧ (∀ acks ∈ [3, 4], let m : CohMsg := { type := 8, line := 0x40, src := 193, dst := 192, req := 3 }
       let a : Arbiter := { line := 0x40, req := 3, acks := acks }
       let s := { carrying m with arbiters := [a] }
       s.cohMsgs[s.ev.k]? = some m ∧ s.arbiters = [a] ∧ a.line = 0x40 ∧ a.req = m.req ∧ a.clearing = false)
    ∧ (let m : CohMsg := { type := 8, line := 0x40, src := 193, dst := 192, req := 3 }
       let s := { carrying m with preqs := [(3, { pact with act := false })] }
       s.cohMsgs[s.ev.k]? = some m ∧ s.arbiters = [] ∧ s.preq (homeDie 0x40) m.req = some { pact with act := false }
       ∧ pact.line = 0x40 ∧ pact.rec_ = false)
    ∧ (∀ acks ∈ [2, 3], let m : CohMsg := { type := 10, line := 0x40, src := 193, dst := 192, req := 3 }
       let a : Arbiter := { line := 0x40, req := 3, acks := acks, clearing := true }
       let s := { carrying m with arbiters := [a], preqs := [(3, pact)] }
       s.cohMsgs[s.ev.k]? = some m ∧ s.arbiters = [a] ∧ a.line = 0x40 ∧ a.clearing = true ∧ s.recoveries = []
       ∧ (s.preqs.map fun q => q.1).Nodup) := by
  decide +kernel
/-- The table of stack 0 holds the entry of requester 3 only. -/
theorem witness_TokenMessages_entry (r : Nat) (e : PReq)
    (h : ({ carrying { type := 10, line := 0x40, src := 193, dst := 192 } with preqs := [(3, pact)] } : State).preq (homeDie 0x40) r = some e) : r = 3 := by
  have hd : homeDie 0x40 = 0 := by decide
  simp only [State.preq, SMap.find, hd] at h
  split at h
  · omega
  · cases h
theorem witness_TokenMessages_begun :
    (∀ n ∈ [2, 255], let q : CohReq := { holder := 191, req := 191, line := 0x40, cl := some 191 }
      let s := { base.holding 195 [0x40] with ev := { k := 191, v := 0x40 }, toks := [(256 * 0x40 + 195, ⟨true, false, false, n⟩)], cohReqs := [q] }
      s.ev.k < 192 ∧ s.cohReqs.find? (fun q => q.holder == 191 && q.line == 0x40 && !q.asked) = some q
      ∧ s.activeEntry (dieOfHolder (poolOf (dieOfCluster 191))) 0x40 = none ∧ (s.tok (poolOf (dieOfCluster 191)) 0x40).valid = true
      ∧ (SMap.find s.retention (256 * 0x40 + poolOf (dieOfCluster 191))).isSome = true ∧ (s.tok (poolOf (dieOfCluster 191)) 0x40).tok = n)
    ∧ (∀ u ∈ [clusterUser 191 0 1, clusterUser 0 0 3, stackUser 3 0], let x := 0x7FFFFFFFF; let h := u.writer base x
      tokenLine x = true ∧ base.cohReqs = [] ∧ (h < 196 → base.mayWrite h x = false ∧ base.filterFull h x = false))
    ∧ (let u := clusterUser 0 0 1; let s := base.holding 0 [0x40]; let h := u.writer s 0x40
       tokenLine 0x40 = true ∧ s.cohReqs = [] ∧ h = 0 ∧ s.mayWrite h 0x40 = true ∧ (SMap.find s.retention (256 * 0x40 + h)).isSome = true)
    ∧ (∀ q ∈ [(195, true), (0, false)], let s := { base with toks := [(256 * 0x40 + q.1, ⟨true, true, q.2, 1⟩)] }
      q.1 < 196 ∧ (s.tok q.1 0x40).tok ≠ 0 ∧ (s.tok q.1 0x40).owner = q.2
      ∧ s.pinnedLine q.1 0x40 = false ∧ (s.toks.map fun q => q.1).Nodup)
    ∧ (∀ tries ∈ [0, 1, 7], let q : CohReq := { holder := 192, req := 192, line := 0x40, tries := tries, cl := some 0, ctx := 0 }
      let s := { base with cohReqs := [q] }
      s.cohReqs[s.ev.k]? = some q ∧ 192 ≤ q.holder ∧ q.bypass = false ∧ q.persistent = false ∧ (s.tok q.holder q.line).tok = 0
      ∧ s.abandoned q = false ∧ s.leads q = true ∧ s.tretry (dieOfHolder q.holder) = 1 ∧ s.persistentInUse q.req = false)
    ∧ (let q : CohReq := { holder := 195, req := 195, line := 0x40, bypass := true }
       let s := { base with cohReqs := [q, { q with bypass := false, write := true }] }
       s.cohReqs[s.ev.k]? = some q ∧ q.bypass = true ∧ q.data = []
       ∧ s.missRegisters q.holder (poolSlice q.line) < 128
       ∧ ∀ p ∈ s.cohReqs, p.holder = q.holder → p.line = q.line → p.write = true ∨ p.bypass = true)
    ∧ (let s := { base with ev := { k := 3, n := 3 }, preqs := [(256 * 3 + 3, pact)] }
       s.preq (s.ev.k % 4) s.ev.n = some pact ∧ pact.act = true)
    ∧ (let a : Arbiter := { line := 0x40, req := 3 }; let s := { base with arbiters := [a] }; let d := homeDie a.line
       s.arbiters[s.ev.k]? = some a ∧ a.done = false ∧ a.clearing = false ∧ s.recoveries = [] ∧ s.persistentInUse (192 + d) = false) := by
  decide +kernel

/-! ## Witnesses: rings and nodes -/

/-- Words placed in the mapped page, from byte `o` on. -/
def State.words (s : State) (o : Nat) (ws : List Nat) : State :=
  { s with mem := ws.zipIdx.foldl (fun m q => m.writeBytes (0x200000 + o + 4 * q.2) (bytesOfNat 4 q.1)) s.mem }
theorem exists_of_any {o : Option State} {p : State → Bool} (h : o.any p = true) : ∃ u, o = some u ∧ p u = true := by
  cases o with
  | none => cases h
  | some u => exact ⟨u, rfl, h⟩
/-- A ring descriptor at 0x1F00 for a ring of `logn` at `at'`, and the doorbell event of ring 63 that names it (R343). -/
def described (w0 at' : Nat) : State :=
  ((base.words 0xF00 [w0, 0, at', 0, 0, 7]).onCtx 0 fun c => { c with rings := [(63, { ctl := 8 })] }).withEv { m := 63, v := 0x1F00 }
def aRing : Ring := { addr := 0x1F00, registered := true, logn := 4, base := 0x1000, rd := 0xFFFFFFFE, doorbell := 0xFFFFFFFF }
/-- The words of an entry at the ring's RD: word 0 and the words from 3 on given, the NODEID 5. -/
def published (w0 nodeid : Nat) (rest : List Nat) (r : Ring := aRing) : State :=
  let s := (base.words (256 * 14) ([w0, nodeid, 0xFFFFFFFF] ++ rest)).onCtx 0 fun c => { c with rings := [(2, r)], nodeshare := 8 }
  s
theorem witness_RingsAndNodes_rings :
    (∀ q ∈ [(0x110, 0x1000, true), (0x204, 0xFFFFF000, true), (3, 0x1000, false), (0x304, 0x1000, false), (4, 0x1080, false)],
      let s := described q.1 q.2.1; let k := s.ev.k; let m := s.ev.m
      s.ev.v ≠ 0 ∧ m < 64 ∧ (s.ctx k).phase ≠ .none ∧ s.ev.v.toNat % 64 = 0
      ∧ (s.onRing k m fun (x : Ring) => { ctl := x.ctl }).ringCount < 1024
      ∧ ∃ d, s.ctxWords k s.ev.v.toNat 16 = some d ∧
        (let w (i : Nat) : Nat := (d.getD i 0).toNat
         (w 0 < 2 ^ 10 ∧ w 0 / 32 % 8 = 0 ∧ w 1 = 0 ∧ (∀ i < 10, w (6 + i) = 0) ∧ 4 ≤ w 0 % 32 ∧ w 0 % 32 ≤ 16
           ∧ w 2 % 4096 = 0 ∧ ¬ ((w 0).testBit 9 = true ∧ (w 0).testBit 8 = true)) ↔ q.2.2 = true))
    ∧ (let s := published 0 0 []; let r := (s.ctx 0).ring 2
       r.registered = true ∧ r.dev = false ∧ r.frozen = false ∧ s.ctxPhys 0 (r.addr.toNat + 20) true = some 0x200F14
       ∧ (∀ g ∈ s.grids, ∀ q ∈ g.2.stable, q.2 = 0)
       ∧ (s.ctx 0).phase ≠ .tornDown) := by
  refine ⟨?_, by decide +kernel⟩
  have key : ∀ q ∈ [(0x110, 0x1000), (0x204, 0xFFFFF000), (3, 0x1000), (0x304, 0x1000), (4, 0x1080)],
      (described q.1 q.2).ctxWords 0 0x1F00 16 = some ([q.1, 0, q.2, 0, 0, 7, 0, 0, 0, 0, 0, 0, 0, 0, 0, 0].map (BitVec.ofNat 32)) := by
    decide +kernel
  intro q hq
  have h2 : ∀ q ∈ [(0x110, 0x1000, true), (0x204, 0xFFFFF000, true), (3, 0x1000, false), (0x304, 0x1000, false), (4, 0x1080, false)],
      let s := described q.1 q.2.1; let k := s.ev.k; let m := s.ev.m
      (s.ev.v ≠ 0 ∧ m < 64 ∧ (s.ctx k).phase ≠ .none ∧ s.ev.v.toNat % 64 = 0
      ∧ (s.onRing k m fun (x : Ring) => { ctl := x.ctl }).ringCount < 1024) := by decide +kernel
  obtain ⟨a, b, c, d, e⟩ := h2 q hq
  refine ⟨a, b, c, d, e, _, key (q.1, q.2.1) ?_, ?_⟩
  · revert q; decide
  · revert q; decide +kernel
/-- The state in which the front end takes the entry at RD: word 0 and the NODEID given, a credit kept for NODEID 5. -/
def consuming (w0 nodeid : Nat) : State :=
  { published w0 nodeid [0] with credits := [{ ctx := 0, nodeid := 5, status := 3 }, { ctx := 0, nodeid := 5, status := 0, member := true }] }
theorem witness_RingsAndNodes_consumed :
    ∀ q ∈ [(0x50000001, 5, true), (0x50000003, 5, true), (0x50000000, 0, false)], let s := consuming q.1 q.2.1
      let r := (s.ctx 0).ring 2
      s.ringTurns.find? (fun q => s.look q.1 ((s.ctx q.1).ring q.2) != .empty) = some (0, 2) ∧ s.look 0 r = .entry
      ∧ ∃ ws, s.ctxWords 0 (r.slot r.rd) 64 = some ws
      ∧ r.overRun = none ∧ (∃ v, s.ctxWords 0 (r.addr.toNat + 16) 1 = some [v] ∧ (v - r.rd).toNat ≤ 2 ^ r.logn)
      ∧ ∃ u, ({ s with lastRing := 0 * 64 + 2 }.onRing 0 2 fun (x : Ring) => { x with rd := x.rd + 1, overRun := none }).putCtxWords 0 (r.addr.toNat + 20) [r.rd + 1] = some u
        ∧ (let n : Node := { ctx := 0, ring := 2, words := ws }
           let cs := u.credits.filter fun (x : Credit) => !x.member && x.ctx == 0 && x.nodeid == n.nodeid
           if q.2.2 then u.malformed n r.dev (r.ctl.getLsbD 3) = false ∧ u.findNode 0 n.nodeid = none ∧ cs.length ≤ (n.w 0).toNat % 2 ^ 16
             ∧ (cs = [] ∨ (u.ctx 0).nodeids.contains n.nodeid = false)
           else u.malformed n r.dev (r.ctl.getLsbD 3) = true ∧ n.nodeid = 0) := by
  have key : ∀ q ∈ [(0x50000001, 5, true), (0x50000003, 5, true), (0x50000000, 0, false)], let s := consuming q.1 q.2.1
      let r := (s.ctx 0).ring 2
      (s.ringTurns.find? (fun q => s.look q.1 ((s.ctx q.1).ring q.2) != .empty) = some (0, 2) ∧ s.look 0 r = .entry)
      ∧ s.ctxWords 0 (r.slot r.rd) 64 = some ([q.1, q.2.1, 0xFFFFFFFF, 0].map (BitVec.ofNat 32) ++ List.replicate 60 0)
      ∧ (r.overRun = none ∧ s.ctxWords 0 (r.addr.toNat + 16) 1 = some [0] ∧ ((0 : Word) - r.rd).toNat ≤ 2 ^ r.logn) := by decide +kernel
  have key2 : ∀ q ∈ [(0x50000001, 5, true), (0x50000003, 5, true), (0x50000000, 0, false)], let s := consuming q.1 q.2.1
      let r := (s.ctx 0).ring 2
      ((({ s with lastRing := 0 * 64 + 2 }.onRing 0 2 fun (x : Ring) => { x with rd := x.rd + 1, overRun := none }).putCtxWords 0 (r.addr.toNat + 20) [r.rd + 1]).any fun (u : State) =>
        (let n : Node := { ctx := 0, ring := 2, words := [q.1, q.2.1, 0xFFFFFFFF, 0].map (BitVec.ofNat 32) ++ List.replicate 60 0 }
         let cs := u.credits.filter fun (x : Credit) => !x.member && x.ctx == 0 && x.nodeid == n.nodeid
         decide (if q.2.2 then u.malformed n r.dev (r.ctl.getLsbD 3) = false ∧ u.findNode 0 n.nodeid = none ∧ cs.length ≤ (n.w 0).toNat % 2 ^ 16
             ∧ (cs = [] ∨ (u.ctx 0).nodeids.contains n.nodeid = false)
           else u.malformed n r.dev (r.ctl.getLsbD 3) = true ∧ n.nodeid = 0))) = true := by decide +kernel
  intro q hq
  obtain ⟨a, b⟩ := key q hq
  obtain ⟨u, hu, hp⟩ := exists_of_any (key2 q hq)
  exact ⟨a.1, a.2, _, b.1, b.2.1, ⟨_, b.2.2⟩, u, hu, of_decide_eq_true hp⟩
/-- The machine with node 9 at hand: its entry's words, and what the node has come to. -/
def noded (ws : List Nat) (f : Node → Node := id) : State :=
  let n : Node := { words := ws.map (BitVec.ofNat 32), phase := .ready }
  { base.withEv { m := 9 } with nodes := [(9, f n)] }
def State.n9 (s : State) : Node := s.node 9
/-- Words of an entry of a type with `k` successors, NODEID 5, and its payload from word 12. -/
def entry (type k : Nat) (payload : List Nat) : List Nat := [type * 2 ^ 28 + k * 2 ^ 20, 5, 0, 0, 6, 0, 0, 0, 0, 0, 0, 0] ++ payload
/-- A BUNDLE of NODEIDs 7 and 8, of which 7 is in the table. -/
def bundled (w : Nat) : State :=
  let s := noded (entry 3 0 [7, 8]) fun n => { n with inherited := w }
  { s with nodes := s.nodes ++ [(10, { words := [1, 7] })] }
theorem witness_RingsAndNodes_failed :
    ∀ type ∈ [0, 1, 2, 5], let s := noded (entry type 0 []) fun n => { n with inherited := 9 }
      SMap.find s.nodes s.ev.m = some s.n9 ∧ s.n9.phase = .ready ∧ s.n9.finish = none ∧ s.n9.inherited ≠ 0 ∧ s.n9.type = type := by
  decide +kernel
/-- A record of the front end or of Equinox for the mapped page, with so many of its writes made. -/
def recorded (equinox : Bool) (stage : Nat) (add : Bool) : EvRecord :=
  { id := if equinox then 4 else 5, engine := if equinox then 1 else 0, ctx := 0, words := [(0x1008, 0x200008, 9)], va := 0x1000, pa := 0x200000, add := add, value := 3, stage := stage }
theorem witness_RingsAndNodes_evfence :
    ∀ past ∈ [[], [5]], let s := { noded (entry 5 0 []) fun n => { n with past := past } with records := [recorded false 0 true] }
      SMap.find s.nodes s.ev.m = some s.n9 ∧ s.n9.phase = .ready ∧ s.n9.finish = none ∧ s.n9.type = 5 ∧ s.ev.b = false
      ∧ (past = [] → ∀ r ∈ s.records, ¬ r.id ∈ s.n9.past) ∧ (past = [5] → ∃ r ∈ s.records, r.id ∈ s.n9.past) := by decide +kernel
theorem witness_RingsAndNodes_records :
    ∀ q ∈ [(false, 0, true), (true, 0, false), (false, 1, true), (false, 1, false), (false, 2, true)], let r := recorded q.1 q.2.1 q.2.2
      let s := { base.withEv { b := true, n := if q.1 then 1 else 0 } with records := [recorded (!q.1) 0 true, r] }
      let old := BitVec.ofNat 64 (s.mem.readNat r.pa 8)
      s.ev.b = true ∧ s.records.find? (fun r => r.engine == s.ev.n) = some r ∧ (∀ x ∈ s.records, x.id = r.id → x = r) ∧ r.fault = none
      ∧ (∀ q ∈ r.writes old, ∀ l ∈ linesOf q.1 q.2.length, tokenLine l = true → s.mayWrite (homeHolder l) l = true)
      ∧ r.stage = q.2.1 ∧ (q.2.1 ≠ 0 → r.engine ≠ 1) ∧ ∀ g ∈ s.grids, ∀ q ∈ g.2.stable, q.2 = 0 := by decide +kernel
theorem witness_RingsAndNodes_engine :
    ∀ q ∈ [(1, 16), (1, 0), (2, 0)], let s := noded (entry q.1 0 [0, 0, 0, 0, q.2])
      SMap.find s.nodes s.ev.m = some s.n9 ∧ s.n9.phase = .ready ∧ s.n9.finish = none ∧ s.n9.inherited = 0 ∧ s.n9.type = q.1
      ∧ s.firstJob s.n9 = true ∧ s.n9.copy.len = q.2 ∧ (s.cluster 191).engine.length < engineDepth ∧ 191 < 192 := by decide +kernel
theorem witness_RingsAndNodes_bundle (w : Nat) (h : w = 0 ∨ w = 9) : let s := bundled w
    SMap.find s.nodes s.ev.m = some s.n9 ∧ s.n9.phase = .ready ∧ s.n9.finish = none ∧ s.n9.inherited = w ∧ s.n9.type = 3
    ∧ s.n9.members = [7, 8] ∧ s.findNode s.n9.ctx 7 = some 10 ∧ s.findNode s.n9.ctx 8 = none ∧ s.ev.m = 9 ∧ (s.node 10).finish = none
    ∧ ((s.node 10).phase = .waiting ∧ (s.node 10).unmet = 0 ∧ s.parentEnded (s.node 10) = true ∧ (s.node 10).type ≠ 3) := by
  obtain rfl | rfl := h <;> exact ⟨by rfl, by rfl, by rfl, by rfl, by rfl, by decide +kernel, by decide +kernel, by decide +kernel, by rfl, by rfl, by decide +kernel⟩
theorem witness_RingsAndNodes_signal :
    let s := noded (entry 4 0 [0x1FE0, 0, 0xFFFFFFFF, 0xFFFFFFFF, 3 + 4 * 2047])
    SMap.find s.nodes s.ev.m = some s.n9 ∧ s.n9.phase = .ready ∧ s.n9.finish = none ∧ s.n9.type = 4
    ∧ s.ctxPhys s.n9.ctx (s.n9.addr 12) true = some 0x200FE0 ∧ s.n9.inherited = 0 ∧ (s.nodes.map fun q => q.1).Nodup := by decide +kernel
theorem witness_RingsAndNodes_snapshot :
    ∀ size ∈ [0, 127, 128], let s := noded (entry 7 0 [0x1000, 0, size]); let recs := s.snapCtxs ++ s.snapRings ++ s.snapNodes ++ s.snapRecs
      SMap.find s.nodes s.ev.m = some s.n9 ∧ s.n9.phase = .ready ∧ s.n9.finish = none ∧ s.n9.type = 7
      ∧ s.ctxs.any (fun c => s.snapLost c.1 c.2) = false
      ∧ 64 + 4 * recs.flatten.length = 128 ∧ (s.n9.w 14).toNat = size
      ∧ ∀ ws ∈ [List.replicate 16 (0 : Word), List.replicate 32 0], (s.putCtxWords s.n9.ctx (s.n9.addr 12) ws).isSome = true := by
  decide +kernel
theorem witness_RingsAndNodes_complete :
    ∀ q ∈ [(0, 0), (1, 0), (1, 1)], let s := noded (entry 5 q.1 []) fun n => { n with finish := some 0 }
      let s : State := if q.2 = 0 then s else { s with nodes := s.nodes ++ [(10, { words := [2, 6], unmet := 2 })] }
      SMap.find s.nodes s.ev.m = some s.n9 ∧ s.n9.finish = some 0 ∧ s.n9.sub = false ∧ (∀ t ∈ s.timed, t.node ≠ s.ev.m)
      ∧ (s.nodes.map fun q => q.1).Nodup ∧ s.n9.nsucc = q.1
      ∧ s.n9.w 4 ≠ 0 ∧ s.findNode s.n9.ctx (s.n9.w 4) = (if q.2 = 0 then none else some 10) ∧ (q.2 = 1 → (s.node 10).unmet ≠ 0
        ∧ (s.nodes.filter fun q => q.2.ctx == s.n9.ctx && q.2.nodeid == s.n9.w 4).map (·.1) = [10]) := by decide +kernel
/-- The words of a LAUNCH entry: a native image of one packet at 0x1000, one gang of one block, with changes (R350). -/
def launchWords (ch : List (Nat × Nat)) : List Nat :=
  let dflt : List (Nat × Nat) := [(1, 5), (12, 0x1000), (14, 0x400), (15, 1), (16, 1), (17, 1), (18, 0x400040), (19, 0x101), (59, 1)]
  (List.range 64).map fun i => (((ch ++ dflt).find? fun q => q.1 == i).map (·.2)).getD 0
theorem clusterGangs_le (s : State) (l : Launch) (cl : Nat) : s.clusterGangs l cl ≤ 128 := by
  have key : ∀ (xs : List Nat) (a : Nat), a ≤ 128 → (∀ x ∈ xs, x ≤ 128) → xs.foldl max a ≤ 128 := by
    intro xs
    induction xs with
    | nil => intro a h _; exact h
    | cons x xs ih =>
      intro a h hx
      exact ih _ (Nat.max_le.mpr ⟨h, hx x (List.mem_cons_self ..)⟩) fun y hy => hx y (List.mem_cons_of_mem _ hy)
  refine key _ 0 (Nat.zero_le _) fun x hx => ?_
  have := List.mem_range.mp (List.mem_filter.mp hx).1
  omega
/-- No device holds 2³² gangs at once (R352). -/
theorem coopFits_false {s : State} {l : Launch} (h : 24576 < l.gangs) : s.coopFits l = false := by
  have key : ∀ (xs : List Nat) (a : Nat), xs.foldl (fun n cl => n + s.clusterGangs l cl) a ≤ a + 128 * xs.length := by
    intro xs
    induction xs with
    | nil => intro a; simp
    | cons x xs ih =>
      intro a
      have := ih (a + s.clusterGangs l x)
      have := clusterGangs_le s l x
      simp only [List.foldl_cons, List.length_cons]
      omega
  have := key (List.range 192) 0
  rw [List.length_range] at this
  unfold State.coopFits
  exact decide_eq_false (by omega)
/-- One group of blocks 0 and 1 at 0x1800, and none of its members at 0x1800 + 2,048 (R413). -/
def grid2 (ch : List (Nat × Nat)) : State := noded (launchWords ch)
theorem witness_RingsAndNodes_launch :
    (∀ q ∈ [([(15, 0)], true, false), ([(18, 0x400041)], false, true), ([(15, 0xFFFFFFFF), (14, 0xC00)], false, false), ([], false, false)],
      let s := grid2 q.1; let l := s.n9.launch none
      SMap.find s.nodes s.ev.m = some s.n9 ∧ s.n9.phase = .ready ∧ s.n9.finish = none ∧ s.n9.type = 0 ∧ s.n9.inherited = 0 ∧ s.n9.nrun = none
      ∧ s.earlyBad s.n9 l = q.2.1 ∧ l.native = true ∧ s.n9.lateBad l = q.2.2)
    ∧ ((grid2 []).n9.launch none).coop = false
    ∧ (let s := grid2 [(15, 0xFFFFFFFF), (14, 0xC00)]; let l := s.n9.launch none
       l.coop = true ∧ s.coopFits l = false)
    ∧ (grid2 []).n9.groupTable ((grid2 []).n9.launch none) = some [] := by
  refine ⟨by decide +kernel, by decide +kernel, ⟨by decide +kernel, coopFits_false (by decide +kernel)⟩, by decide +kernel⟩
/-- A LAUNCH of an image at 0x1000 by its records, whose code would run in a code window (R89). -/
def rpfNode (records : List Nat) (ch : List (Nat × Nat)) : State :=
  ((noded (launchWords (ch ++ [(14, 0), (59, 0)]))).words 0 (records.flatMap fun r => [r % 2 ^ 32, r / 2 ^ 32])).onCtx 0 fun c => { c with codewin := 2 ^ 36 }
theorem witness_RingsAndNodes_translate :
    (∀ q ∈ [([], [(13, 1)]), ([2 ^ 61 + 1], []), ([2 ^ 61], []), ([2 ^ 61 + 1], [(14, 0x100), (41, 0x1000), (43, 0x40000)])], let s := rpfNode q.1 q.2; let l := s.n9.launch none
      SMap.find s.nodes s.ev.m = some s.n9 ∧ s.n9.phase = .ready ∧ s.n9.finish = none ∧ s.n9.type = 0 ∧ s.n9.inherited = 0
      ∧ s.n9.nrun = none ∧ s.earlyBad s.n9 l = false ∧ l.native = false)
    ∧ (let s := rpfNode [] [(13, 1)]; s.imageRecords s.n9.ctx (s.n9.addr 12) = none)
    ∧ (let s := rpfNode [2 ^ 61 + 1] []; s.imageRecords s.n9.ctx (s.n9.addr 12) = some [2 ^ 61 + 1] ∧ s.n9.mergedBad [2 ^ 61 + 1] = false ∧ s.cached [2 ^ 61 + 1] = none
       ∧ finalise [2 ^ 61 + 1] = .ok { words := [], npkt := 0, entry := 0, data := [], metas := [] } ∧ s.images = [] ∧ 0 ≤ 2 ^ 26)
    ∧ (let s := rpfNode [2 ^ 61] []; s.imageRecords s.n9.ctx (s.n9.addr 12) = some [2 ^ 61] ∧ s.n9.mergedBad [2 ^ 61] = false ∧ s.cached [2 ^ 61] = none
       ∧ finalise [2 ^ 61] = .error 2)
    ∧ (let s := rpfNode [2 ^ 61 + 1] [(14, 0x100), (41, 0x1000), (43, 0x40000)]
       s.imageRecords s.n9.ctx (s.n9.addr 12) = some [2 ^ 61 + 1] ∧ s.n9.mergedBad [2 ^ 61 + 1] = true) := by
  refine ⟨by decide +kernel, by decide +kernel, ⟨by decide +kernel, by decide +kernel, by decide +kernel, by rfl, by decide +kernel, by decide⟩,
    ⟨by decide +kernel, by decide +kernel, by decide +kernel, by rfl⟩, by decide +kernel⟩
/-- A grid whose one gang has retired, with three records of 48 bytes deposited at 0x1000, two of one key. -/
def sortable : State :=
  let s := (noded (launchWords [])).onGrid 1 fun g => { g with launch := { g.launch with darea := 0x1000, cont := 6 }, node := 9, total := 1, retired := 1 }
  (s.words 0 [3, 3]).words 64 ((List.range 3).flatMap fun i => [0, 0, 0, 0, if i = 1 then 7 else 9, i, 0, 0, 0, 0, 0, 0]) |>.withEv { k := 1 }
theorem witness_RingsAndNodes_sort : let s := sortable; let gr := s.grid s.ev.k
    gr.launch.darea ≠ 0 ∧ gr.ended = false ∧ gr.lost = false ∧ gr.total ≠ 0 ∧ gr.total ≤ gr.retired
    ∧ s.ctxWords gr.ctx gr.launch.darea 2 = some [3, 3]
    ∧ (∃ ws, s.ctxWords gr.ctx (gr.launch.darea + 64) (12 * (3 : Word).toNat) = some ws)
    ∧ SMap.find s.nodes gr.node = some s.n9 ∧ s.n9.finish = none
    ∧ ∀ n ≤ 36, (s.putCtxWords gr.ctx (gr.launch.darea + 64) (List.replicate n 0)).isSome = true := by
  refine ⟨by decide +kernel, by decide +kernel, by decide +kernel, by decide +kernel, by decide +kernel, by decide +kernel,
    Option.isSome_iff_exists.mp (by decide +kernel), by decide +kernel, by decide +kernel, by decide +kernel⟩

/-! ## Witnesses: the scheduler and switches -/

theorem exists_of_any2 {o : Option (Nat × State)} {p : Nat → State → Bool} (h : (o.any fun q => p q.1 q.2) = true) :
    ∃ n u, o = some (n, u) ∧ p n u = true := by
  cases o with
  | none => cases h
  | some q => exact ⟨q.1, q.2, rfl, h⟩
/-- The leaf of cluster 0 has three permits left to send up and the scheduler three down. -/
def permitted : State := base.onCluster 0 fun c => { c with permitsUp := 3, permitsDown := 3 }
/-- Firmware runs, and the grid has one more gang than has been made. -/
def offering : State := ({ base with dev := { base.dev with fwState := 1 } }).onGrid 1 fun g => { g with total := 2 }
theorem witness_SchedulerAndSwitch_links :
    (∀ b : Bool, ∀ n ∈ [5, 6], let s := permitted.withEv { n := n, b := b }; let cl := s.ev.k; let c := s.cluster cl
      s.ev.n ≠ 0 ∧ cl < 192 ∧ (if s.ev.b then c.permitsDown.toNat else c.permitsUp.toNat) + s.ev.n = 3 + n
      ∧ ∀ m ∈ s.msgs, m.cluster = cl → m.sent = true)
    ∧ base.offers = []
    ∧ (let u := offering.keepReserved
       u.firstOffers = [⟨1, [1], false, 0⟩] ∧ packGangs (u.grid 1).launch 1 (u.rotation 0) [1] u.view = some [(1, 0)])
    ∧ base.warp.park = .ready := by decide +kernel
/-- The next message of cluster 0 is about gang 2 of the grid; `f` sets the rest. -/
def linked (kind : LinkKind) (g : Gang) (f : State → State := id) : State :=
  f { offering with gangs := SMap.put offering.gangs 2 { g with grid := 1 }, msgs := [{ cluster := 0, kind := kind, gang := 2, sent := true }] }
/-- Every core of cluster 0 out of use. -/
def fenced4 (s : State) : State := [0, 1, 2, 3].foldl (fun s i => s.onCore i fun c => { c with fenced := true }) s
/-- Cluster 0 has a miss out, and of its segments only the last, a way of its cache, is in use; a gang needs one. -/
def missing (s : State) : State :=
  let s := (List.range 31).foldl (fun s i => s.onSegment 0 i fun g => { g with retired := true }) s
  { s.onGrid 1 fun g => { g with launch := { g.launch with scratch := 16 } } with cohReqs := [{ holder := 0, req := 1, line := 0x5000 }] }
/-- What a gang claims in cluster 0. -/
def State.claimed (u : State) (h : Nat) : Option (List Nat × List Nat) := u.claim (u.grid (u.gang h).grid).launch (u.gang h).ctx 0
/-- Whether a claim is there, and waits for no miss. -/
def State.claims (u : State) (h : Nat) : Bool := (u.claimed h).isSome && !u.claimWaits 0 (u.claimed h)
/-- Whether a claim takes one way, the last, of a cluster with a miss out. -/
def State.takesWay (u : State) (h : Nat) : Bool :=
  let l := (u.grid (u.gang h).grid).launch
  (u.freeSegs 0 false).isEmpty && u.freeSegs 0 true == [31] && l.segments == 1 && decide (l.gang ≤ (((List.range 4).map (4 * 0 + ·)).filter fun c => u.coreFits l (u.gang h).ctx c).length)
    && (u.segment 0 31).mode == .cache && u.cohReqs.any fun r => r.holder == 0
theorem waits_of {o : Option (Nat × State)} (h : (o.any fun q => q.2.takesWay q.1) = true) :
    ∃ n u q, o = some (n, u) ∧ u.claimed n = some q ∧ u.claimWaits 0 (some q) = true := by
  obtain ⟨n, u, ho, h⟩ := exists_of_any2 (p := fun n u => u.takesWay n) h
  simp only [State.takesWay, Bool.and_eq_true, List.isEmpty_iff, beq_iff_eq, decide_eq_true_eq] at h
  obtain ⟨⟨⟨⟨⟨h1, h2⟩, h3⟩, h4⟩, h5⟩, h6⟩ := h
  have one : pickFree (u.fresh + 4) 1 [31] = [31] := by simp [pickFree, Nat.mod_one]
  have way : ((List.range 32).filter fun x => [31].contains x) = [31] := by decide
  have taken : ∃ cs, u.claimed n = some (cs, [31]) := by
    simp only [State.claimed, State.claim, h1, h2, h3, List.length_nil, List.length_singleton, List.nil_append]
    rw [if_neg (by omega), if_neg (by decide), one, way]
    exact ⟨_, rfl⟩
  obtain ⟨cs, hc⟩ := taken
  exact ⟨n, u, (cs, [31]), ho, hc, by simp [State.claimWaits, h5, h6]⟩
theorem witness_SchedulerAndSwitch_place :
    (∃ h u, (linked .place { phase := .offered }).receive 0 .place = some (h, u) ∧ (h == 2 && u.claims h) = true)
    ∧ (∃ h u q, (linked .place { phase := .offered } missing).receive 0 .place = some (h, u) ∧ u.claimed h = some q ∧ u.claimWaits 0 (some q) = true)
    ∧ (∃ h u, (linked .place { phase := .offered } fenced4).receive 0 .place = some (h, u) ∧ (h == 2 && (u.claim (u.grid 1).launch 0 0).isNone) = true)
    ∧ (linked .place { phase := .offered }).dev.fwState = 1 ∧ (linked .place { phase := .offered } fenced4).dev.fwState = 1 :=
  ⟨exists_of_any2 (by decide +kernel), waits_of (by decide +kernel), exists_of_any2 (by decide +kernel), by decide +kernel, by decide +kernel⟩
/-- The grid cooperative, both gangs made, the first of them placed. -/
def gathering (s : State) : State := (s.onGrid 1 fun g => { g with gangs := [1, 2], launch := { g.launch with coop := true } }).onGang 1 fun g => { g with placed := true }
theorem witness_SchedulerAndSwitch_answers :
    (∃ h u, (linked .placed {}).receive 0 .placed = some (h, u) ∧ (!(u.grid (u.gang h).grid).launch.coop) = true)
    ∧ (∀ p ∈ [GangPhase.offered, .restoring], ∃ h u, (linked .placed { phase := p } gathering).receive 0 .placed = some (h, u) ∧
        (let gr := u.grid (u.gang h).grid
         gr.launch.coop && gr.gangs.length == gr.total && (gr.gangs.all fun x => (x == h || (u.gang x).placed) && !(u.gang x).overflowed)
           && (gr.gangs.all fun x => (u.ctx (u.gang x).ctx).alog.isEmpty) && (gr.gangs.any fun x => (u.gang x).phase == .restoring) == (p == .restoring)) = true)
    ∧ (∃ h u, (linked .refused { phase := .offered } fun s => (s.onGang 1 fun g => { g with phase := .saved }).onCtx 0 fun c =>
          { c with phase := .saving }).receive 0 .refused = some (h, u) ∧
        (let g := u.gang h
         !(u.grid g.grid).launch.coop && g.phase == .offered && (u.ctx g.ctx).phase == .saving && (u.clusters.all fun k => k.2.engine.isEmpty)
           && (u.gangs.all fun x => x.1 == h || x.2.phase == .saved) && u.msgs.isEmpty && decide (u.gangs.map fun q => q.1).Nodup) = true)
    ∧ (∃ h u, (linked .refused { phase := .restoring }).receive 0 .refused = some (h, u) ∧ (!(u.grid (u.gang h).grid).launch.coop) = true)
    ∧ (∃ h u, (linked .retired {} fun s => ({ s with nodes := [(9, {})] }).onGrid 1 fun g => { g with retired := 1, node := 9 }).receive 0 .retired = some (h, u) ∧
        (let gr := u.grid (u.gang h).grid
         gr.retired + 1 == gr.total && !gr.lost && !gr.ended && gr.launch.darea == 0 && SMap.find u.nodes gr.node == some {}) = true)
    ∧ (∃ h u, (linked .fault {}).receive 0 .fault = some (h, u) ∧ (h == 2) = true) :=
  ⟨exists_of_any2 (by decide +kernel), fun p hp => exists_of_any2 (by revert p; decide +kernel), exists_of_any2 (by decide +kernel),
    exists_of_any2 (by decide +kernel), exists_of_any2 (by decide +kernel), exists_of_any2 (by decide +kernel)⟩
/-- The context is SAVING, and both its gangs have been saved. -/
def lastSaved : State := linked .saved { phase := .saved } fun s => (s.onGang 1 fun g => { g with phase := .saved }).onCtx 0 fun c => { c with phase := .saving }
/-- A saved gang with one warp in its image and an arrival logged for it. -/
def restorable (f : State → State := id) : State :=
  linked .restore { phase := .restoring, image := [{ uid := 7, gang := 2, grid := 1, park := .yield, held := true }] } fun s =>
    f (s.onCtx 0 fun c => { c with alog := [{ kind := 0, gang := 2, off := 0, mask := 0, data := [] }], alogHead := 32 })
theorem witness_SchedulerAndSwitch_saves :
    (∃ h u, lastSaved.receive 0 .saved = some (h, u) ∧ ((u.gang h).ctx == 0 && u.msgs.isEmpty) = true)
    ∧ (lastSaved.ctx 0).phase = .saving ∧ (∀ k ∈ lastSaved.clusters, k.2.engine = [])
    ∧ (∀ x ∈ lastSaved.gangs, x.2.ctx = 0 → x.2.phase ≠ .running ∧ x.2.phase ≠ .offered ∧ x.2.phase ≠ .restoring)
    ∧ (∃ h u, (restorable fenced4).receive 0 .restore = some (h, u) ∧ (u.claim (u.grid (u.gang h).grid).launch (u.gang h).ctx 0).isNone = true)
    ∧ (∃ h u, restorable.receive 0 .restore = some (h, u) ∧
        (let g := u.gang h
         u.claims h && !g.overflowed && g.phase == .restoring && g.image.length == 1 && (u.ctx g.ctx).alog.any (·.gang == h)
          && !(u.grid g.grid).launch.coop) = true)
    ∧ (∃ h u, (restorable fun s => s.onCtx 0 fun c => { c with alog := [] }).receive 0 .restore = some (h, u) ∧
        (let g := u.gang h
         u.claims h && !g.overflowed && g.phase == .restoring && (u.ctx g.ctx).alog.isEmpty && !(u.ctx g.ctx).switchPending
          && (g.image.map fun w => (w.uid, w.ctx, w.gang)) == [(7, g.ctx, h)] && !(u.grid g.grid).launch.coop) = true)
    ∧ (∃ h u q, (restorable missing).receive 0 .restore = some (h, u) ∧ u.claimed h = some q ∧ u.claimWaits 0 (some q) = true)
    ∧ (∃ h u, (restorable gathering).receive 0 .restore = some (h, u) ∧
        (u.claims h && (u.grid (u.gang h).grid).launch.coop) = true)
    ∧ (∃ h u, (linked .save { phase := .running, told := true }).receive 0 .save = some (h, u) ∧ ((u.gang h).told && (u.gang h).phase == .running) = true) :=
  ⟨exists_of_any2 (by decide +kernel), by decide +kernel, by decide +kernel, by decide +kernel, exists_of_any2 (by decide +kernel),
    exists_of_any2 (by decide +kernel), exists_of_any2 (by decide +kernel), waits_of (by decide +kernel), exists_of_any2 (by decide +kernel),
    exists_of_any2 (by decide +kernel)⟩
/-- A switch descriptor at 0x1F00 for a save area of one page at 0x1000 (R374). -/
def areaAt (s : State) : State := (s.words 0xF00 [0x1000, 0, 1]).onCtx 0 fun c => { c with swdesc := 0x1F00 }
def switching (s : State) : State := s.onCtx 0 fun c => { c with switchPending := true }
theorem witness_SchedulerAndSwitch_switch :
    (∀ p ∈ [CtxPhase.running, .frozen], let s := { (areaAt base).onCtx 0 fun c => { c with phase := p } with others := [{ park := .yield }] }
      let c := s.ctx s.ev.k; c.noPreempt = false ∧ c.phase = p ∧ s.others.map (fun w => (w.ctx, w.park.blocking)) = [(0, true)])
    ∧ (let s := base.onCtx 0 fun c => { c with phase := .saved }; (s.ctx s.ev.k).phase = .saved)
    ∧ (let s := (switching (areaAt base)).withEv { m := 1, b := true }; let g := s.gang s.ev.m
       g.phase = .running ∧ g.told = false ∧ (s.ctx g.ctx).switchPending = true ∧ s.saveArea g.ctx = some (0x1000, 4096)) := by decide +kernel
/-- A running gang told to save whose warp is held at a YIELD; and gang 2, which has no warp left. -/
def asked (h : Nat) (f : State → State) : State :=
  let s := (base.atWarp fun w => { w with park := .yield, held := true }).withEv { m := h }
  f { s with gangs := SMap.put (SMap.put s.gangs 1 { placedGang with asked := true }) 2 { grid := 1, phase := .running, asked := true } }
theorem witness_SchedulerAndSwitch_imageless : let s := asked 1 id; let h := s.ev.m; let g := s.gang h
    g.phase = .running ∧ g.asked = true ∧ s.gangMembers h = [s.warp] ∧ s.savable s.warp = true ∧ s.copiesHeld h = true
    ∧ (s.cluster g.cluster).changes = [] ∧ s.writeImage h (s.gangMembers h) = none := by
  refine ⟨by decide +kernel, by decide +kernel, by decide +kernel, by decide +kernel, by decide +kernel, by decide +kernel, ?_⟩
  apply Option.isNone_iff_eq_none.mp
  decide +kernel
theorem witness_SchedulerAndSwitch_imaged : let s := asked 2 areaAt; let h := s.ev.m; let g := s.gang h
    g.phase = .running ∧ g.asked = true ∧ s.gangMembers h = [] ∧ s.copiesHeld h = true
    ∧ (s.cluster g.cluster).changes = [] ∧ (s.writeImage h (s.gangMembers h)).isSome = true := by decide +kernel

/-! ## Witnesses: timed records, the host and the fabric -/

/-- A TIMED node of action `a` at `time`, and the node 10 that word 19 names (R384). -/
def timedNode (a : Nat) (f : Node → Node := id) : State :=
  let s := noded (entry 6 0 [a, 0, 0xFFFFFFFF, 0xFFFFFFFD, 0, 0, 0, 6]) f
  { s with nodes := s.nodes ++ [(10, { words := [0, 6, 0, 0, 0, 0, 0, 0, 0, 0, 0, 0, 0, 0, 8] })], dtb := 100 }
/-- Its record, due at `time`, alone in the store; the context in a phase. -/
def due (a : Nat) (time : BitVec 64) (p : CtxPhase) : State :=
  ({ timedNode a with timed := [{ node := 9, target := 0, action := a, time := time, grace := 20000, order := 0 }]
                      dev := { base.dev with clock := .locked } }.onCtx 0 fun c => { c with phase := p, swdesc := 0x1F00 }).withEv {}
def State.rec0 (s : State) : TimedRec := (s.timed[0]?).getD { node := 0, target := 0, action := 0, time := 0, grace := 0, order := 0 }
theorem witness_TimedHostAndFabricEvents_timed :
    (let s := timedNode 1
     SMap.find s.nodes s.ev.m = some s.n9 ∧ s.n9.phase = .ready ∧ s.n9.finish = none ∧ s.n9.type = 6 ∧ s.n9.inherited = 0 ∧ s.timed.length < 256)
    ∧ (∀ q ∈ [(1, 0, CtxPhase.running), (1, 200, .running), (2, 200, .saved), (0, 200, .running)], let s := due q.1 q.2.1 q.2.2; let r := s.rec0
       s.timed[s.ev.m]? = some r ∧ s.mayAct r = true ∧ (∀ x ∈ s.timed, s.mayAct x = true → x.before r = false)
       ∧ r.time.toNat + 2 ^ 33 < 2 ^ 64 ∧ s.dtb.toNat + 2 ^ 33 < 2 ^ 64 ∧ r.action = q.1 ∧ (s.ctx r.target).noPreempt = false
       ∧ (s.ctx r.target).phase = q.2.2 ∧ (s.nodes.filter fun q => q.2.ctx == r.target && q.2.nodeid == (s.node r.node).w 19).map (·.1) = [10] ∧ (s.node 10).isTimed = true
       ∧ (s.node 10).released = false)
    ∧ (let s := due 1 0 .saving; let s : State := { s with timed := s.timed.map fun (t : TimedRec) => { t with acted := true } }; let r := s.rec0
       s.timed[s.ev.m]? = some r ∧ r.acted = true ∧ r.done = none ∧ r.straggler = false ∧ r.action ≠ 0) := by decide +kernel
/-- The clock in a state, after so many near and far intervals. -/
def clocked (c : ClockState) (stepped : Bool) (good bad : Nat) : State :=
  { base with dev := { base.dev with ptpctl := 0x80000000, clock := c, stepped := stepped, syncGood := good, syncBad := bad } }
theorem witness_TimedHostAndFabricEvents_clock :
    ∀ q ∈ [(ClockState.lost, false), (.lost, true), (.locked, false), (.holdover, false)], let s := clocked q.1 q.2 15 3
      s.dev.ptpctl.getLsbD 31 = true ∧ s.dev.clock = q.1 ∧ s.dev.stepped = q.2 ∧ s.dev.syncGood = 15 ∧ s.dev.syncBad = 3 := by decide +kernel
theorem witness_TimedHostAndFabricEvents_contexts :
    (let s := base.withEv { k := 4094, w := 1 }; s.ev.k ≤ 4094 ∧ s.ev.w.getLsbD 0 = true ∧ (s.ctx s.ev.k).phase = .none)
    ∧ (let s := base.onCtx 0 fun c => { c with phase := .tornDown }; s.ev.w.getLsbD 0 = false ∧ (s.ctx s.ev.k).phase = .tornDown)
    ∧ (let s := base.withEv { w := 2 }
       s.ev.w.getLsbD 1 = true ∧ (s.ctx 0).phase ≠ .none ∧ (s.ctx 0).phase ≠ .tornDown ∧ (SMap.find s.grids 1).isSome = true
       ∧ (s.grid 1).ctx = 0 ∧ (s.grid 1).ended = false)
    ∧ (let s : State := { (base.onCtx 0 fun c => { c with open_ := [{ tag := 0xFFFFFFFF, page := 1 }] }) with others := [{ park := .fault 0xFFFFFFFF 1 2 }], ev := { w := 0xFFFFFFFF } }
       (s.ctx s.ev.k).request (s.ev.w.toNat % 2 ^ 32) = some { tag := 0xFFFFFFFF, page := 1 } ∧ s.clusters = [] ∧ s.cores = []
       ∧ s.others = [{ park := .fault 0xFFFFFFFF 1 2 }])
    ∧ (let s := base.withEv { w := 1 }; s.ev.w.getLsbD 0 = true ∧ (s.ctx s.ev.k).phase ≠ .none)
    ∧ (let s := base.onCtx 0 fun c => { c with invalidating := true }; (s.ctx s.ev.k).invalidating = true ∧ s.translatedIn s.ev.k (s.ctx s.ev.k) = false)
    ∧ (let s := base.withEv { w := 0x800002FF }; s.ev.w.getLsbD 31 = true ∧ s.ev.w.toNat % 1024 < 768) := by decide +kernel
theorem witness_TimedHostAndFabricEvents_registers :
    (base.withEv { n := 4, v := 0x18 }).ev.n = 4 ∧ (base.withEv { n := 4, v := 0x18 }).ev.v.toNat = 0x18
    ∧ (base.withEv { n := 4, v := 0x20 }).ev.v.toNat = 0x20
    ∧ (let s := { base with dev := { base.dev with fwState := 1 }, ev := { n := 4, v := 0xFFFFFC } }
       s.ev.n = 4 ∧ 0x800000 ≤ s.ev.v.toNat ∧ s.ev.v.toNat < 0x1000000 ∧ s.ev.v.toNat % 4 = 0 ∧ s.dev.fwState = 1)
    ∧ (let s := base.withEv { n := 8, v := 0x1FFE008 }
       4094 < 4095 ∧ s.ev.n = 8 ∧ s.ev.v.toNat = 0x1000008 + 4096 * 4094 ∧ (s.ctx 4094).ctl.getLsbD 0 = false)
    ∧ (let s := base.withEv { k := 1, n := 4, v := 0x3FFFFFC }
       s.ev.b = false ∧ s.ev.k = 1 ∧ s.ev.n = 4 ∧ s.ev.v.toNat < 2 ^ 26 ∧ s.ev.v.toNat % 4 = 0) := by decide +kernel
/-- The homes hold the lines of some bytes. -/
def State.homed (s : State) (a n : Nat) : State := (linesOf a n).foldl (fun s x => s.holding (homeHolder x) [x]) s
/-- Peer 0 is UP, and the homes hold `n` bytes at its request's address. -/
def peered (ev : EvArgs) (n : Nat := 0) : State := { base.homed ev.v.toNat n with peers := [(0, { state := 1 })], ev := ev }
/-- What all the transfers need of a state. -/
def roomy (s : State) : Bool :=
  s.ingress.isEmpty && (s.grids.all fun g => g.2.stable.all fun q => q.2 == 0) && s.allWarps.all fun w => w.flights.isEmpty
theorem homeHeld_of {s : State} {write : Bool} {a n : Nat} (h : ((linesOf a n).all fun x => [x].all fun x =>
      let h := if write then (homeUser x).writer s x else (homeUser x).reader s x
      (if write then s.mayWrite h x else s.mayRead h x && !s.storeSent (homeUser x) x) && (SMap.find s.retention (256 * x + h)).isSome) = true) :
    ∀ x ∈ linesOf a n, LinesHeld s (homeUser x) write [x] := fun x hx => linesHeld_of (List.all_eq_true.mp h x hx)
theorem witness_TimedHostAndFabricEvents_transfers :
    (let s := (base.homed 0xFFFFFFFFE 2).withEv { v := 0xFFFFFFFFE, bytes := [1, 2] }
     (roomy s = true ∧ s.ev.b = false ∧ s.ev.k ≠ 1 ∧ s.ev.k ≠ 2 ∧ s.bar2 s.ev.bytes.length = some 0xFFFFFFFFE ∧ s.ev.bytes.length ≤ 4096)
     ∧ ∀ x ∈ linesOf 0xFFFFFFFFE 2, LinesHeld s (homeUser x) true [x])
    ∧ (let s := peered { v := 0x2FFE, bytes := [1, 2, 3] } 3
       (roomy s = true ∧ s.peerAsks s.ev.bytes.length = true ∧ s.ev.bytes.length ≤ 4096)
       ∧ ∀ x ∈ linesOf 0x2FFE 3, LinesHeld s (homeUser x) true [x])
    ∧ (∀ q ∈ [(0, 4), (14, 8)], let s := peered { n := q.1, v := 0x2FF8, w := 0xFFFFFFFFFFFFFFFF } 8
       roomy s = true ∧ s.ev.n < 15 ∧ s.peerAsks q.2 = true ∧ s.ev.v.toNat % q.2 = 0
       ∧ (atomOp s.ev.n (s.mem.readNat s.ev.v.toNat q.2) (s.ev.w.toNat % 2 ^ (8 * q.2)) (s.ev.m % 2 ^ 32)).isSome = true)
    ∧ (∀ n, ∀ x ∈ linesOf 0x2FF8 4 ++ linesOf 0x2FF8 8, LinesHeld (peered { n := n, v := 0x2FF8, w := 0xFFFFFFFFFFFFFFFF } 8) (homeUser x) true [x])
    ∧ (let s := (base.homed 0x1000 4096).withEv { n := 4096, v := 0x1000 }
       (roomy s = true ∧ s.ev.n ≤ 4096 ∧ s.ev.b = false ∧ s.ev.k ≠ 1 ∧ s.bar2 s.ev.n = some 0x1000)
       ∧ ∀ x ∈ linesOf 0x1000 4096, LinesHeld s (homeUser x) false [x])
    ∧ (let s := peered { n := 4096, v := 0x1000 } 4096
       (roomy s = true ∧ s.ev.n ≤ 4096 ∧ s.peerAsks s.ev.n = true) ∧ ∀ x ∈ linesOf 0x1000 4096, LinesHeld s (homeUser x) false [x]) := by
  refine ⟨⟨by decide +kernel, homeHeld_of (by decide +kernel)⟩, ⟨by decide +kernel, homeHeld_of (by decide +kernel)⟩, by decide +kernel,
    fun n x hx => ?_, ⟨by decide +kernel, homeHeld_of (by decide +kernel)⟩, by decide +kernel, homeHeld_of (by decide +kernel)⟩
  have at8 : ∀ x ∈ linesOf 0x2FF8 4 ++ linesOf 0x2FF8 8, x ∈ linesOf 0x2FF8 8 := by decide
  have held : ∀ x ∈ linesOf 0x2FF8 8, LinesHeld (peered { v := 0x2FF8, w := 0xFFFFFFFFFFFFFFFF } 8) (homeUser x) true [x] :=
    homeHeld_of (by decide +kernel)
  exact held x (at8 x hx)
theorem witness_TimedHostAndFabricEvents_fabric :
    (∃ j, let s := base.onCluster 0 fun c => { c with engine := [{ job := .copy { fn := 6, src := 0, dst := 0, len := 16 }, warp := some 1, sent := true }] }
       (s.cluster s.ev.k).engine[s.ev.m]? = some j ∧ j.sent = true ∧ j.warp = some s.warp.uid ∧ s.warp.park ≠ .vacant ∧ j.node = none)
    ∧ (let s := base.withEv { k := 511, w := 0x1FF }; s.ev.k < 512 ∧ s.ev.w.toNat / 2 ^ 8 % 4 = 1 ∧ ∀ i : Fin 8, s.ev.w.getLsbD i = true)
    ∧ (SMap.get (peered {}).peers (peered {}).ev.k {}).state = 1 ∧ ∀ q ∈ (peered {}).clusters, q.2.engine = [] :=
  ⟨⟨{ job := .copy { fn := 6, src := 0, dst := 0, len := 16 }, warp := some 1, sent := true }, by decide +kernel⟩, by decide +kernel,
    by decide +kernel, by decide +kernel⟩

/-! ## Witnesses: errors, health and resets -/

/-- A corrected error that an access finds at the physical address 0x2080 in a line of the L3 (level 4), and what is logged of it. -/
def erring (es : List ErrEntry) : State := { base with errors := es, ev := { k := 1, n := 4, b := true, v := 0x2080 } }
def place4 : ErrPlace := errPlace 4 0 0 0x2080
def counted (n : Nat) : ErrEntry := { die := place4.die, level := 4, ukind := 4, unit := place4.unit, loc := 0x2080, wcnt := n }
theorem witness_ErrorHealthAndResetEvents_errors :
    (base.warp.park = .ready ∧ base.warp.replays + 1 < 16)
    ∧ (let s := base.atWarp fun w => { w with replays := 15 }; s.warp.park = .ready ∧ 16 ≤ s.warp.replays + 1 ∧ (s.grid s.warp.grid).ended = false)
    ∧ (let s := erring []; let lv := s.ev.n % 7; let p := errPlace lv s.ev.m s.ev.w.toNat s.ev.v.toNat
       s.ev.b = true ∧ s.ev.k = 1 ∧ (∀ e ∈ s.errors, e.isAt p = false) ∧ (s.errTable p.die p.level).length < 256 ∧ 1 < (s.winctl p.level).1)
    ∧ (let s := { erring [] with ev := { n := 6, b := true, v := 0x10000000000 } }; let lv := s.ev.n % 7; let p := errPlace lv s.ev.m s.ev.w.toNat s.ev.v.toNat
       s.ev.b = true ∧ s.ev.k ≠ 1 ∧ (∀ e ∈ s.errors, e.isAt p = false) ∧ (s.errTable p.die p.level).length < 256
       ∧ 1 < (s.winctl p.level).1 ∧ s.scrubs p.level = true)
    ∧ (let s := { erring [] with dev := { base.dev with scrubctl := Vector.replicate 7 0 }, ev := { k := 0, n := 6, b := true, v := 0x10000000000 } }
       let p := errPlace (s.ev.n % 7) s.ev.m s.ev.w.toNat s.ev.v.toNat
       s.ev.b = true ∧ s.ev.k ≠ 1 ∧ s.scrubs p.level = false)
    ∧ (let s := erring [counted 1]; let lv := s.ev.n % 7; let p := errPlace lv s.ev.m s.ev.w.toNat s.ev.v.toNat; let e := counted 1
       lv = 4 ∧ s.errors = [e] ∧ e.isAt p = true ∧ e.lasting = false ∧ s.ev.k = 1 ∧ s.dev.hsec.toNat < e.window + (s.winctl 4).2
       ∧ (s.winctl 4).1 ≤ min 255 (e.wcnt + 1)) := by decide +kernel
/-- A page quarantined when the DTB read 5. -/
def quarantined (dtb : BitVec 64) : State :=
  { base with quarantine := [(0x200, false)], dtb := dtb, dev := { base.dev with quarDtb := [(0x200, 5)] }, ev := { v := 0x200 } }
theorem witness_ErrorHealthAndResetEvents_pages : ∀ dtb ∈ ([5, 0x200000] : List (BitVec 64)), let s := quarantined dtb
    let due := (SMap.get s.dev.quarDtb s.ev.v.toNat 0).toNat + 1000000
    SMap.find s.quarantine s.ev.v.toNat = some false ∧ s.dev.hfq.registered = false ∧ due < 2 ^ 64 ∧ (due ≤ s.dtb.toNat ∨ s.dtbLimit due = due) := by
  intro dtb _
  have since : (SMap.get (quarantined dtb).dev.quarDtb (quarantined dtb).ev.v.toNat 0).toNat = 5 := rfl
  have free : (quarantined dtb).dev.clock ≠ .locked := by simp only [quarantined]; decide +kernel
  refine ⟨rfl, by simp only [quarantined]; decide +kernel, by simp only [since]; decide, .inr ?_⟩
  rw [State.dtbLimit, if_pos free]
theorem witness_ErrorHealthAndResetEvents_places :
    (let s := { base with quarantine := [(2 ^ 28, true)], ev := { v := 0x10000000000 } }; let page := s.ev.v.toNat / 4096
       s.ev.v.toNat % 4096 = 0 ∧ SMap.find s.quarantine page = some true ∧ ((memPlace (page * 4096)).level, page) ∉ s.retiredUnits)
    ∧ (let s := { base with dev := { base.dev with domains := [(195, { steps := 4 })] }, ev := { k := 195 } }
       s.ev.k < 196 ∧ s.ev.b = false ∧ (s.domain s.ev.k).crossed = none ∧ (s.domain s.ev.k).steps < 5)
    ∧ (let s := (base.onSegment 191 31 fun g => { g with claimed := true, mode := .fifo, gang := 1 }).withEv { k := 2, m := 191, n := 31, b := true }
       let g := (s.gang (s.segment s.ev.m s.ev.n).gang).grid
       s.ev.k = 2 ∧ s.scrubs 2 = true ∧ s.ev.m < 192 ∧ s.ev.n < 32 ∧ (s.segment s.ev.m s.ev.n).claimed = true ∧ (s.segment s.ev.m s.ev.n).mode ≠ .cache
       ∧ (s.grid g).lost = false ∧ (s.grid g).ended = false) := by decide +kernel
theorem witness_ErrorHealthAndResetEvents_mapped :
    let s := base.withEv { k := 6, v := 0x200FFF, b := true }
    s.ev.k = 6 ∧ (s.ev.b = true → s.scrubs (memPlace s.ev.v.toNat).level = true) ∧ cacheable s.ev.v.toNat = true ∧ s.ev.v.toNat / 4096 = 0x200 ∧ (s.ctx 0).phase ≠ .none
    ∧ 0 ∈ s.mappers (s.ev.v.toNat / 4096) := by decide +kernel
theorem witness_ErrorHealthAndResetEvents_resets :
    (base.withEv { w := 0xA5 }).ev.w = 0xA5 ∧ base.ev.w ≠ 0xA5 := by decide +kernel
/-- A health ring of 16 slots at 0x4000000, and a record asked for. -/
def ailing : State := { base with dev := { base.dev with healthAsk := [0, 1], hq := { base := 0x4000000, cfg := 4, wr := 15 } } }
theorem witness_ErrorHealthAndResetEvents_health :
    ((base.dev.hsec.toNat / 3600 + 1) * 3600 < 2 ^ 32 ∧ base.ev.n = 0 ∧ base.dev.hperiod.toNat ≠ 0
      ∧ (base.dev.hsec.toNat / base.dev.hperiod.toNat + 1) * base.dev.hperiod.toNat < 2 ^ 32)
    ∧ (base.withEv { w := 1 }).ev.w = 1
    ∧ (ailing.dev.healthAsk = [0, 1] ∧ ailing.dev.hq.registered = true ∧ ailing.dev.hq.full = false)
    ∧ (∀ f ∈ ([1, 2] : List (BitVec 2)), let s := { base with dev := { base.dev with fwState := f }, ev := { w := 1 } }
       s.ev.w = 1 ∧ (s.dev.fwState = 1 ∨ s.dev.fwState = 2))
    ∧ base.dev.fwState = 0
    ∧ (let s := { base with dev := { base.dev with fwState := 1 } }; s.dev.fwState = 1 ∧ (SMap.find s.ctxs 0).isSome = true ∧ (s.ctx 0).phase ≠ .none) := by
  decide +kernel
theorem witness_ErrorHealthAndResetEvents_counters :
    (let s := (base.onCore 767 fun c => { c with pmc := [(7, 0xFFFFFFFFFFFF)], pmcsel := [(7, 0x80000001)] }).withEv { k := 767, n := 7, v := 1 }
     let sel := SMap.get (s.core s.ev.k).pmcsel s.ev.n 0
     s.ev.b = false ∧ s.ev.k < 768 ∧ s.ev.n < 8 ∧ timedEvent false (sel.toNat % 256) = true ∧ pmcCounts sel (sel.toNat % 256) s.ev.m = true
     ∧ 2 ^ 48 ≤ (SMap.get (s.core s.ev.k).pmc s.ev.n 0).toNat + s.ev.v.toNat)
    ∧ (∀ q ∈ [(3, true, 8), (4, true, 7), (11, false, 8), (11, true, 8)], let s := { base with dev := { base.dev with retxRow := [(q.1, q.2.2)] }, ev := { k := q.1, b := q.2.1 } }
       s.ev.k % 12 = q.1 ∧ s.ev.k % 12 ∉ s.dev.portsDown ∧ SMap.get s.dev.retxRow (s.ev.k % 12) 0 = q.2.2 ∧ s.ev.b = q.2.1) := by decide +kernel
/-- A step from a state whose memories are in canonical form answers a next state. -/
theorem witness_StepKeepsMemoryForm : (placed 0).memWf = true ∧ ∃ t, step (placed 0) = .next t := by
  refine ⟨by decide +kernel, ?_⟩
  have h : givesNext (step (placed 0)) (fun _ => true) = true := by decide +kernel
  exact (exists_of_givesNext h).imp fun t ht => ht.1

/-! ## Words written out from the encodings (R69 to R78), one for each instruction -/

theorem test_words_major_00 : ∀ q ∈ ([
    (0x00000000, .nop), (0x00100000, .exit), (0x00200000, .ret), (0x00300004, .trap 4), (0x00400000, .bpt),
    (0x00500000, .yield), (0x00600000, .rtt), (0x00700003, .pushr 3), (0x00800000, .join), (0x00900000, .bsync),
    (0x00A00007, .gsync 7)] : List (Nat × Instr)),
    decodeTableWord 32 q.1 = some q.2 ∧ q.2.wf = true := by decide +kernel
theorem test_words_major_01 : ∀ q ∈ ([
    (0x0200000A, .bra 10), (0x027E0012, .bz 31 18), (0x02A7FFFF, .bnz 19 131071), (0x02CE001E, .bany 7 30),
    (0x030FFFFF, .ball 7 131071), (0x034E002A, .bnone 7 42), (0x0387FFFF, .bdiv 3 131071)] : List (Nat × Instr)),
    decodeTableWord 32 q.1 = some q.2 ∧ q.2.wf = true := by decide +kernel
theorem test_words_major_02 : ∀ q ∈ ([
    (0x05FFFFFF, .call 33554431)] : List (Nat × Instr)),
    decodeTableWord 32 q.1 = some q.2 ∧ q.2.wf = true := by decide +kernel
theorem test_words_major_03 : ∀ q ∈ ([
    (0x0601465E, .sadd 20 25 30), (0x0611F09F, .ssub 31 2 31), (0x062062D0, .smul 6 11 16), (0x0630F7D9, .smulhiI32 15 31 25),
    (0x06418742, .smulhiN32 24 29 2), (0x0651F19F, .sand 31 6 31), (0x0660A3D4, .sor 10 15 20), (0x067137DD, .sxor 19 31 29),
    (0x0681C046, .sshl 28 1 6), (0x0691F29F, .sshrN32 31 10 31), (0x06A0E4D8, .sshrI32 14 19 24),
    (0x06B177C1, .sminI32 23 31 1), (0x06C0014A, .smaxI32 0 5 10), (0x06D1F39F, .sminN32 31 14 31),
    (0x06E125DC, .smaxN32 18 23 28), (0x06F1B7C0, .sclz 27 31), (0x0701F180, .spopc 31 6), (0x071077C0, .smov 7 31),
    (0x0721F49F, .ssltI32 31 18 31), (0x073166C0, .ssltN32 22 27 0), (0x0741F7C9, .sseq 31 31 9), (0x07510684, .sadd64 8 13 2),
    (0x0761E31E, .ssub64 15 6 15)] : List (Nat × Instr)),
    decodeTableWord 32 q.1 = some q.2 ∧ q.2.wf = true := by decide +kernel
theorem test_words_major_04 : ∀ q ∈ ([
    (0x09AF8104, .saddi 26 31 260)] : List (Nat × Instr)),
    decodeTableWord 32 q.1 = some q.2 ∧ q.2.wf = true := by decide +kernel
theorem test_words_major_05 : ∀ q ∈ ([
    (0x0A3F810D, .sandi 3 31 269)] : List (Nat × Instr)),
    decodeTableWord 32 q.1 = some q.2 ∧ q.2.wf = true := by decide +kernel
theorem test_words_major_06 : ∀ q ∈ ([
    (0x0CC88116, .sori 12 17 278)] : List (Nat × Instr)),
    decodeTableWord 32 q.1 = some q.2 ∧ q.2.wf = true := by decide +kernel
theorem test_words_major_07 : ∀ q ∈ ([
    (0x0FFD7FFF, .sxori 31 26 32767)] : List (Nat × Instr)),
    decodeTableWord 32 q.1 = some q.2 ∧ q.2.wf = true := by decide +kernel
theorem test_words_major_08 : ∀ q ∈ ([
    (0x11E18008, .sshiShl 30 3 8), (0x107FA011, .sshiShrN32 7 31 17), (0x110AC01A, .sshiShrI32 16 21 26),
    (0x11FF601F, .sshiRotl 31 30 31)] : List (Nat × Instr)),
    decodeTableWord 32 q.1 = some q.2 ∧ q.2.wf = true := by decide +kernel
theorem test_words_major_09 : ∀ q ∈ ([
    (0x12200147, .slui 2 327)] : List (Nat × Instr)),
    decodeTableWord 32 q.1 = some q.2 ∧ q.2.wf = true := by decide +kernel
theorem test_words_major_0a : ∀ q ∈ ([
    (0x14314FFF, .scmpi 3 2 4 0xFFF)] : List (Nat × Instr)),
    decodeTableWord 32 q.1 = some q.2 ∧ q.2.wf = true := by decide +kernel
theorem test_words_major_0b : ∀ q ∈ ([
    (0x168D0152, .sld 8 13 338)] : List (Nat × Instr)),
    decodeTableWord 32 q.1 = some q.2 ∧ q.2.wf = true := by decide +kernel
theorem test_words_major_0c : ∀ q ∈ ([
    (0x19F67FFF, .sst 31 6 32767)] : List (Nat × Instr)),
    decodeTableWord 32 q.1 = some q.2 ∧ q.2.wf = true := by decide +kernel
theorem test_words_major_0d : ∀ q ∈ ([
    (0x1A0A0000, .lstart 10), (0x1A1E0000, .nextit 7), (0x1A200160, .brit 352), (0x1A300000, .lstop)] : List (Nat × Instr)),
    decodeTableWord 32 q.1 = some q.2 ∧ q.2.wf = true := by decide +kernel
theorem test_words_major_0e : ∀ q ∈ ([
    (0x1C028014, .getsr 5 20), (0x1C188004, .setsr 17 4)] : List (Nat × Instr)),
    decodeTableWord 32 q.1 = some q.2 ∧ q.2.wf = true := by decide +kernel
theorem test_words_major_0f : ∀ q ∈ ([
    (0x1E65C2BA, .waitc 6 11 16 21 26)] : List (Nat × Instr)),
    decodeTableWord 32 q.1 = some q.2 ∧ q.2.wf = true := by decide +kernel
theorem test_words_major_10 : ∀ q ∈ ([
    (0x2003FEBF, .vadd 63 58 63), (0x2013E0C8, .vsub 62 3 8), (0x20207FD1, .vmul 7 63 17), (0x2031055A, .vmulhiI32 16 21 26),
    (0x2043F7BF, .vmulhiN32 63 30 63), (0x205229EC, .vminI32 34 39 44), (0x2062BFF5, .vmaxI32 43 63 53),
    (0x20734E7E, .vminN32 52 57 62), (0x2083F0BF, .vmaxN32 63 2 63), (0x209062D0, .vand 6 11 16), (0x20A0FFD9, .vor 15 63 25),
    (0x20B18762, .vxor 24 29 34), (0x20C3F9BF, .vandn 63 38 63), (0x20D2ABF4, .vshl 42 47 52), (0x20E33FFD, .vshrN32 51 63 61),
    (0x20F3C046, .vshrI32 60 1 6), (0x2103F2BF, .vrotl 63 10 63), (0x2110E4C0, .vpopc 14 19), (0x21214640, .vclz 20 25),
    (0x2131A7C0, .vbrev 26 31), (0x2142096A, .vabsdI32 32 37 42), (0x2153FBBF, .vaddsI32 63 46 63),
    (0x21632DFC, .vsubsI32 50 55 60), (0x2174828C, .vadd64 4 5 6), (0x21876F8A, .vsub64 27 31 5),
    (0x2190424E, .vdot4I8 4 9 14), (0x21A3F4BF, .vdot2I16 63 18 63)] : List (Nat × Instr)),
    decodeTableWord 32 q.1 = some q.2 ∧ q.2.wf = true := by decide +kernel
theorem test_words_major_11 : ∀ q ∈ ([
    (0x22D0C304, .vinti 13 3 3 4)] : List (Nat × Instr)),
    decodeTableWord 32 q.1 = some q.2 ∧ q.2.wf = true := by decide +kernel
theorem test_words_major_12 : ∀ q ∈ ([
    (0x240166E0, .vfaddF32 22 27 32), (0x2411FFE9, .vfsubF32 31 63 41), (0x24228B72, .vfmulF32 40 45 50),
    (0x2433FDBF, .vfminF32 63 54 63), (0x2443AFC4, .vfmaxF32 58 63 4), (0x24503FC0, .vfabsF32 3 63),
    (0x2463F380, .vfnegF32 63 14), (0x2470FFD9, .vfcpsgnF32 15 63 25), (0x24818762, .vfaddF16x2 24 29 34),
    (0x2493F9BF, .vfsubF16x2 63 38 63), (0x24A2ABF4, .vfmulF16x2 42 47 52), (0x24B33FFD, .vfminF16x2 51 63 61),
    (0x24C3C046, .vfmaxF16x2 60 1 6), (0x24D3F2BF, .vfaddB16x2 63 10 63), (0x24E0E4D8, .vfsubB16x2 14 19 24),
    (0x24F17FE1, .vfmulB16x2 23 63 33), (0x2502096A, .vfminB16x2 32 37 42), (0x2513FBBF, .vfmaxB16x2 63 46 63),
    (0x25264BB8, .vfaddF64 18 23 28), (0x25376F8A, .vfsubF64 27 31 5), (0x2544849C, .vfmulF64 4 9 14),
    (0x2557E93E, .vfminF64 31 18 31), (0x2566CD80, .vfmaxF64 22 27 0), (0x2571FFE9, .vcmulB16 31 63 41)] : List (Nat × Instr)),
    decodeTableWord 32 q.1 = some q.2 ∧ q.2.wf = true := by decide +kernel
theorem test_words_major_13 : ∀ q ∈ ([
    (0x26516E57, .vfmaF32 40 45 50 23), (0x26E9CFC3, .vfmaF16x2 52 57 62 3), (0x2700294F, .vfmaB16x2 0 5 10 15),
    (0x27B11596, .vfmaF64 12 17 22 11)] : List (Nat × Instr)),
    decodeTableWord 32 q.1 = some q.2 ∧ q.2.wf = true := by decide +kernel
theorem test_words_major_14 : ∀ q ∈ ([
    (0x28502FE4, .vcmpI32 5 2 63 36), (0x28C03A2D, .vcmpN32 4 3 40 45), (0x29207D39, .vcmpF32 2 7 52 57),
    (0x29E03005, .vcmpF16x2 6 3 0 5)] : List (Nat × Instr)),
    decodeTableWord 32 q.1 = some q.2 ∧ q.2.wf = true := by decide +kernel
theorem test_words_major_15 : ∀ q ∈ ([
    (0x2A0021C0, .vcvtF32I32 2 7), (0x2A108340, .vcvtF32N32 8 13), (0x2A20E4C0, .vcvtI32F32 14 19),
    (0x2A314640, .vcvtI32F32Rz 20 25), (0x2A41A7C0, .vcvtN32F32 26 31), (0x2A560280, .vcvtF16x2F32 32 5),
    (0x2A666580, .vcvtB16x2F32 38 11), (0x2A72CC40, .vcvtF32F16 44 49), (0x2A832DC0, .vcvtF32F16h 50 55),
    (0x2A938F40, .vcvtF32B16 56 61), (0x2AA3E0C0, .vcvtF32B16h 62 3), (0x2AB48240, .vcvtF64F32 4 9),
    (0x2AC4A780, .vcvtF32F64 10 15), (0x2AD90500, .vcvtE4x4F32 16 5), (0x2AE96B00, .vcvtE5x4F32 22 11),
    (0x2AFDC200, .vcvtE2x8F32 28 1), (0x2B0229C0, .vcvtL6F32 34 39), (0x2B128B40, .vcvtF32L6 40 45),
    (0x2B22ECC0, .vcvtF32E4 46 51), (0x2B334E40, .vcvtF32E5 52 57), (0x2B43AFC0, .vcvtF32E2 58 63)] : List (Nat × Instr)),
    decodeTableWord 32 q.1 = some q.2 ∧ q.2.wf = true := by decide +kernel
theorem test_words_major_16 : ∀ q ∈ ([
    (0x2C000140, .vrcp 0 5), (0x2C1062C0, .vrsq 6 11), (0x2C20C440, .vsqrt 12 17), (0x2C3125C0, .vexp2 18 23),
    (0x2C418740, .vlog2 24 29), (0x2C51E8C0, .vsint 30 35), (0x2C624A40, .vcost 36 41), (0x2C72ABC0, .vtanh 42 47)] : List (Nat × Instr)),
    decodeTableWord 32 q.1 = some q.2 ∧ q.2.wf = true := by decide +kernel
theorem test_words_major_17 : ∀ q ∈ ([
    (0x2E0BC100, .vmov 2 60 4), (0x2E13F7C0, .vmovs 63 31), (0x2E23F000, .vlaneid 63), (0x2E308352, .vreadl 8 13 18),
    (0x2E43F59F, .vwritel 63 22 31), (0x2E51A7C0, .vfirst 26 31)] : List (Nat × Instr)),
    decodeTableWord 32 q.1 = some q.2 ∧ q.2.wf = true := by decide +kernel
theorem test_words_major_18 : ∀ q ∈ ([
    (0x3002096A, .vshflIdx 32 37 42), (0x30124201, .vshflUp 9 2 1), (0x302FEE1F, .vshflDown 63 46 31),
    (0x303CB71C, .vshflXor 50 55 28), (0x304EFF05, .vshflBcast 59 63 5)] : List (Nat × Instr)),
    decodeTableWord 32 q.1 = some q.2 ∧ q.2.wf = true := by decide +kernel
theorem test_words_major_19 : ∀ q ∈ ([
    (0x32004240, .raddI32 4 9), (0x3210A3C0, .raddF32 10 15), (0x32210540, .rminI32 16 21), (0x323166C0, .rmaxI32 22 27),
    (0x3241C840, .rminN32 28 33), (0x325229C0, .rmaxN32 34 39), (0x32628B40, .rminF32 40 45), (0x3272ECC0, .rmaxF32 46 51),
    (0x32834E40, .rand 52 57), (0x3293AFC0, .ror 58 63), (0x32A00140, .rxor 0 5), (0x330062C0, .scanaddI32 6 11),
    (0x3310C440, .scanaddI32Ex 12 17), (0x332125C0, .scanaddF32 18 23)] : List (Nat × Instr)),
    decodeTableWord 32 q.1 = some q.2 ∧ q.2.wf = true := by decide +kernel
theorem test_words_major_1a : ∀ q ∈ ([
    (0x34000140, .vvoteAny 0 5), (0x341060C0, .vvoteAll 6 3), (0x34204040, .vvoteBallot 4 1), (0x3432A1C0, .vvoteCount 42 7)] : List (Nat × Instr)),
    decodeTableWord 32 q.1 = some q.2 ∧ q.2.wf = true := by decide +kernel
theorem test_words_major_1b : ∀ q ∈ ([
    (0x36035E80, .vtab 0 53 58)] : List (Nat × Instr)),
    decodeTableWord 32 q.1 = some q.2 ∧ q.2.wf = true := by decide +kernel
theorem test_words_major_1c : ∀ q ∈ ([
    (0x38000142, .pand 0 5 2), (0x38107187, .por 7 6 7), (0x382021C4, .pxor 2 7 4), (0x383031C5, .pandn 3 7 5),
    (0x38404040, .pnot 4 1), (0x385021C0, .pmov 2 7), (0x38600000, .setexec 0), (0x38703000, .getexec 3),
    (0x388062C0, .pfroms 6 11), (0x3890C040, .ptos 12 1), (0x38A00080, .execand 2), (0x38B07080, .ppopc 7 2)] : List (Nat × Instr)),
    decodeTableWord 32 q.1 = some q.2 ∧ q.2.wf = true := by decide +kernel
theorem test_words_major_20 : ∀ q ∈ ([
    (0xC0810191, .vld 2 0 0 8 3 2 1)] : List (Nat × Instr)),
    decodeTableWord 32 q.1 = some q.2 ∧ q.2.wf = true := by decide +kernel
theorem test_words_major_21 : ∀ q ∈ ([
    (0x43379FFA, .vst 4 1 2 60 63 15 2)] : List (Nat × Instr)),
    decodeTableWord 32 q.1 = some q.2 ∧ q.2.wf = true := by decide +kernel
theorem test_words_major_22 : ∀ q ∈ ([
    (0x44009FF8, .vatomAddI32 4 63 15 0), (0x44217D71, .vatomAddF32 11 58 14 1), (0x44425AEA, .vatomAddB16x2 18 53 13 2),
    (0x44633860, .vatomMinI32 25 48 12 0), (0x448415D9, .vatomMaxI32 32 43 11 1), (0x44A4F352, .vatomMinN32 39 38 10 2),
    (0x44C5D0C8, .vatomMaxN32 46 33 9 0), (0x44E6AE41, .vatomAnd 53 28 8 1), (0x45078BBA, .vatomOr 60 23 7 2),
    (0x4520E930, .vatomXor 7 18 6 0), (0x4541C6A9, .vatomXchg 14 13 5 1), (0x456F8CF2, .vatomCas 30 25 14 2),
    (0x45839F98, .vatomIncw 28 63 3 0), (0x45A47D11, .vatomDecw 35 58 2 1), (0x45CE1E91, .vatomAddI64 24 61 2 1)] : List (Nat × Instr)),
    decodeTableWord 32 q.1 = some q.2 ∧ q.2.wf = true := by decide +kernel
theorem test_words_major_23 : ∀ q ∈ ([
    (0x46A0CF80, .mwait 5 6 31 0)] : List (Nat × Instr)),
    decodeTableWord 32 q.1 = some q.2 ∧ q.2.wf = true := by decide +kernel
theorem test_words_major_24 : ∀ q ∈ ([
    (0x48010C00, .binit 2 3), (0x481F8000, .barrive 31), (0x48180010, .barrivePeer 16), (0x4829FC00, .bexpect 19 31),
    (0x483FF800, .bwait 31 30), (0x484FFD20, .btry 31 31 9), (0x48540000, .binval 8)] : List (Nat × Instr)),
    decodeTableWord 32 q.1 = some q.2 ∧ q.2.wf = true := by decide +kernel
theorem test_words_major_25 : ∀ q ∈ ([
    (0x4A0C0003, .cpy 3 3), (0x4A140061, .cpymc 1 3 1), (0x4A2C0002, .cpyb 3 2), (0x4A3C0003, .cpyout 3 3),
    (0x4A4C0003, .cpypar 3 0 3), (0x4A580961, .cpygf 2 75 0 1), (0x4A680003, .cpypeer 2 3)] : List (Nat × Instr)),
    decodeTableWord 32 q.1 = some q.2 ∧ q.2.wf = true := by decide +kernel
theorem test_words_major_26 : ∀ q ∈ ([
    (0x4C080000, .chn 8)] : List (Nat × Instr)),
    decodeTableWord 32 q.1 = some q.2 ∧ q.2.wf = true := by decide +kernel
theorem test_words_major_27 : ∀ q ∈ ([
    (0x4E0B7C01, .pref 11 31 1), (0x4E122400, .wback 4 9), (0x4E253C00, .discard 10 15), (0x4E380002, .bankcfg 16 2),
    (0x4E4983E0, .bankq 19 31)] : List (Nat × Instr)),
    decodeTableWord 32 q.1 = some q.2 ∧ q.2.wf = true := by decide +kernel
theorem test_words_major_28 : ∀ q ∈ ([
    (0x500BCF80, .deposit 15 62)] : List (Nat × Instr)),
    decodeTableWord 32 q.1 = some q.2 ∧ q.2.wf = true := by decide +kernel
theorem test_words_major_29 : ∀ q ∈ ([
    (0x52000000, .fence), (0x52100000, .fenceRel), (0x52200000, .fenceAcq)] : List (Nat × Instr)),
    decodeTableWord 32 q.1 = some q.2 ∧ q.2.wf = true := by decide +kernel
theorem test_words_major_30 : ∀ q ∈ ([
    (0x601A2130, .mma 0 3 1 8 9 1 0)] : List (Nat × Instr)),
    decodeTableWord 32 q.1 = some q.2 ∧ q.2.wf = true := by decide +kernel
theorem test_words_major_31 : ∀ q ∈ ([
    (0x6207A7E0, .mscale 3 3 9 31)] : List (Nat × Instr)),
    decodeTableWord 32 q.1 = some q.2 ∧ q.2.wf = true := by decide +kernel
theorem test_words_major_32 : ∀ q ∈ ([
    (0x64060000, .tzero 3), (0x64224B12, .tload 1 18 24 1 2), (0x64460BF0, .tstore 3 2 31 1 0),
    (0x646046C1, .taddst 0 17 22 0 1), (0x64878000, .tmove 3 3)] : List (Nat × Instr)),
    decodeTableWord 32 q.1 = some q.2 ∧ q.2.wf = true := by decide +kernel
theorem test_words_major_33 : ∀ q ∈ ([
    (0x667643F0, .mquant 3 2 3 16 31 2)] : List (Nat × Instr)),
    decodeTableWord 32 q.1 = some q.2 ∧ q.2.wf = true := by decide +kernel
theorem test_words_major_34 : ∀ q ∈ ([
    (0x68000000, .opfence), (0x68200260, .mbatch 19), (0x684002C0, .mwaitb 22)] : List (Nat × Instr)),
    decodeTableWord 32 q.1 = some q.2 ∧ q.2.wf = true := by decide +kernel
theorem test_words_major_38 : ∀ q ∈ ([
    (0x700FFFFF, .sigchk 1048575), (0x701006DC, .sigset 1756)] : List (Nat × Instr)),
    decodeTableWord 32 q.1 = some q.2 ∧ q.2.wf = true := by decide +kernel
theorem test_words_major_39 : ∀ q ∈ ([
    (0x72000401, .seal 0 16 1), (0x7200000F, .sealNovec 7)] : List (Nat × Instr)),
    decodeTableWord 32 q.1 = some q.2 ∧ q.2.wf = true := by decide +kernel
theorem test_words_major_3a : ∀ q ∈ ([
    (0x74027000, .tblload 2 7), (0x74080800, .tblloadLog 8), (0x741001FF, .tblswap 1 255), (0x742FD800, .grprdCnt 31 22),
    (0x742190A1, .grprdMem 3 4 5), (0x742BFC02, .grprdSelf 23 31)] : List (Nat × Instr)),
    decodeTableWord 32 q.1 = some q.2 ∧ q.2.wf = true := by decide +kernel

/-! ## Examples of the manual -/

/-- The shuffle of chapter 6: lane l of V2 holds 100 + l (R157). -/
theorem test_example_vshfl_up : givesNext (exec (.vshflUp 9 2 1)
      (base.atRegs fun r => { (r.setEntry 2 (Vector.ofFn fun l => BitVec.ofNat 32 (100 + l.val))).setEntry 9 (Vector.replicate 32 7) with exec := 0xFFFFFFFE }))
    (fun t => (t.warp.regs.entry 9).toList.take 4 == [7, 100, 101, 102] && (t.warp.regs.entry 9).toList.getD 31 0 == 130) = true := by decide +kernel
/-- Lane l of V1 holds l, eight lanes to a partition (R158, R159). -/
def eights : State := base.atRegs fun r => { (r.setEntry 1 (Vector.ofFn fun l => BitVec.ofNat 32 l.val)).setEntry 5 (Vector.replicate 32 7) with
  exec := 0x00F0FF03, part := 3 }
theorem test_example_radd : givesNext (exec (.raddI32 4 1) eights) (fun t =>
    (t.warp.regs.entry 4).toList == List.replicate 8 1 ++ List.replicate 8 92 ++ List.replicate 8 86 ++ List.replicate 8 0
      && t.grp.wsRaised == wsEMPTY) = true := by decide +kernel
theorem test_example_scanadd : givesNext (exec (.scanaddI32Ex 5 1) eights) (fun t =>
    (t.warp.regs.entry 5).toList == [0, 0] ++ List.replicate 6 7 ++ [0, 8, 17, 27, 38, 50, 63, 77] ++ List.replicate 4 7 ++ [0, 20, 41, 63]
      ++ List.replicate 8 7) = true := by decide +kernel
/-- Lanes 0 to 3 of each partition hold 2^24, 1, 1 and -2^24 (R54, R56). -/
def fours : State := base.atRegs fun r => { r.setEntry 1 (Vector.ofFn fun l => #v[0x4B800000, 0x3F800000, 0x3F800000, 0xCB800000][l.val % 4]) with part := 2 }
theorem test_example_tree_sum : givesNext (exec (.raddF32 4 1) fours) (fun t => (t.warp.regs.entry 4)[0] == 0x3F800000) = true := by decide +kernel
theorem test_example_scan_sum : givesNext (exec (.scanaddF32 4 1) fours) (fun t =>
    (t.warp.regs.entry 4).toList.take 4 == [0x4B800000, 0x4B800000, 0x4B800001, 0x3F800000]) = true := by decide +kernel
/-- 24.0, 500.0, -0.3 and a NaN converted to E4 (chapter 6). -/
theorem test_example_vcvt : givesNext (exec (.vcvtE4x4F32 20 3) ((((base.withV 12 0x41C00000).withV 13 0x43FA0000).withV 14 0xBE99999A).withV 15 0x7FC00000))
    (fun t => (t.warp.regs.entry 20)[31] == 0x7FAA7E5C && t.warp.regs.fpmode == 0x00000148) = true := by decide +kernel
/-- Four lanes add 1.0 to one word that holds 2^24 (chapter 12). -/
def adding : Access :=
  { kind := .atom 1 0 5, lanes := (List.range 4).map fun l =>
      { lane := l, va := 0x1000, pieces := [⟨.phys 0x200000, 0x1000, 4⟩], data := [0x3F800000] } }
theorem test_example_atomic_sum :
    givesNext (exec .evAtomicReturn { withLines adding with mem := base.mem.writeBytes 0x200000 (bytesOfNat 4 0x4B800000) }) (fun t =>
      (t.warp.regs.entry 5).toList.take 4 == [0x4B800000, 0x4B800000, 0x4B800001, 0x4B800002] && t.mem.readNat 0x200000 4 == 0x4B800002) = true := by
  decide +kernel
/-- The words of packet 40 and a SIGCHK folded into CFSIG (chapter 13). -/
theorem test_example_cfsig :
    ([0xA6080843, 0xC0810191, 0x08630001] : List Nat).foldl (fun c w => foldCf c w) 0 = 0x1141222F
    ∧ (0x1141222F : Word).toNat % 2 ^ 20 = 0x1222F := by decide +kernel
/-- A stepped sum rounds at each step and an exact one once (chapter 2). -/
theorem test_example_matrix_sums :
    mmaStepped 5 2 false 0x4B800000 (fun _ => 0x3F80) (fun _ => 0x3F80) = 0x4B800000
    ∧ exactDrain 0 false 0x4B800000 (exactSum logTabReset 0 2 (fun _ => 0) (fun _ => 0)) = 0x4B800001 := by decide +kernel
theorem test_example_l6_product : l6Prod logTabReset 0x07 0x26 = some (-0x09838000) := by decide +kernel
/-- A block of E2 with absmax 9.0 (chapter 2). -/
theorem test_example_e2_block : quantBlock logTabReset 1 [0x41100000, 0x400CCCCD, 0xC0A00000, 0x40700000] = (0x3FC0, [7, 3, 13, 4]) := by decide +kernel
/-- A multiply, a scale and a store of one element (chapter 8). -/
theorem test_example_tile : exactDrain 1 true 0 (exactSum logTabReset 1 32 (fun _ => 3) (fun _ => 4)) = 0x42C00000
    ∧ mscaleElement 0x41200000 0x3F00 0x4040 0x42C00000 = 0x431A0000 := by decide +kernel
/-- The home and slice of a line (chapter 10), and a core's place on the device (chapter 1). -/
theorem test_example_places : homeDie 0x2A0D = 0 ∧ homeSlice 0x2A0D = 2 ∧ poolSlice 0x2A0D = 39
    ∧ clusterOfCore 262 = 65 ∧ dieOfCluster 65 = 1 ∧ windowOf 0x000F100020800000 = .peer 65 0 ∧ dieOfCluster (clusterOfCore 517) = 2 := by decide
/-- The image of R90's example, finalised. -/
theorem test_example_rpf :
    (match finalise [2 ^ 61 + 6, 0x26080843 + 2 ^ 59, 0x40810191 + 2 ^ 57, 0x08637FFF + 2 ^ 57, 0x24009204, 0x028DFFFC + 2 ^ 52] with
      | .ok f => f.words == [(0, 0xA6080843), (1, 0xC0810191), (2, 0x08637FFF), (3, 0x24009204), (4, 0x00500000), (5, 0x028DFFFF)] && f.npkt == 2
      | .error _ => false) = true := by decide +kernel
/-- Three deposits sorted by key and by block, and their runs (chapter 14). -/
theorem test_example_deposits :
    let r (key bidx wid lane : Nat) : List Word := [0, 0, 0, 0, key + lane * 2 ^ 16 + wid * 2 ^ 24, 0, bidx, 0, 0, 0, 0, 0].map (BitVec.ofNat 32)
    sortRecs [r 5 1 0 3, r 5 0 1 0, r 2 0 0 9] = [r 2 0 0 9, r 5 0 1 0, r 5 1 0 3] ∧ keyRuns 0 [r 2 0 0 9, r 5 0 1 0, r 5 1 0 3] = [(2, 0, 1), (5, 1, 2)] := by
  decide +kernel
/-- The store signature of two lanes (chapter 13). -/
theorem test_example_ssig : foldSig (foldSig 0 3 (sigTerm 0x0000010000000040)) 6 (sigTerm 0x0000010000000044) = 0x277 := by decide +kernel

/-! ## Words that the manual works out -/

theorem test_words_of_the_manual : ∀ q ∈ ([
    (0x21505187, .vaddsI32 5 6 7), (0x29202042, .vcmpF32 2 2 1 2), (0x2AD94300, .vcvtE4x4F32 20 3), (0x32104040, .raddF32 4 1),
    (0x1E0FFFFF, .waitc 0 31 31 31 31), (0x500880C0, .deposit 2 3), (0x4420A190, .vatomAddF32 5 3 2 0), (0x46A12390, .mwait 5 9 7 2),
    (0x4331811A, .vst 4 1 2 12 2 3 2), (0x74042000, .tblload 4 2), (0x74100004, .tblswap 0 4), (0x7001222F, .sigchk 0x1222F),
    (0x028DFFF9, .bnz 6 0x1FFF9), (0x08630001, .saddi 6 6 1), (0x6200A960, .mscale 0 1 10 11), (0x661431A8, .mquant 0 2 2 12 13 1),
    (0x682001C0, .mbatch 14), (0x684001C0, .mwaitb 14), (0x644031A1, .tstore 0 12 13 0 1), (0x60222130, .mma 1 0 1 8 9 1 0)] : List (Nat × Instr)),
    decodeTableWord 32 q.1 = some q.2 ∧ decodeTableWord 32 (q.1 % 2 ^ 31 + 2 ^ 31) = some q.2 := by decide +kernel
/-- Reserved values are refused by their subcodes (R73). -/
theorem test_words_refused : decodeWord 0x00B00000 = .error 2 ∧ decodeWord 0x00000001 = .error 3 ∧ decodeWord 0x2AD54300 = .error 3
    ∧ decodeWord 0x2AD94380 = .error 4 ∧ decodeWord 0x06002000 = .ok (.sadd 2 0 0) ∧ decodeWord 0x06020000 = .error 5
    ∧ decodeWord 0x72038400 = .error 2 ∧ decodeWord 0x1C020009 = .error 10 ∧ decodeWord 0x3A000000 = .error 1 := by
  refine ⟨by rfl, by rfl, by rfl, by rfl, by rfl, by rfl, by rfl, by rfl, by rfl⟩

/-! ## Terms that no word holds: one for each check of WellFormed, refused -/

theorem test_ill_formed : ∀ i ∈ ([.getsr 0 9, .setsr 0 20, .vinti 17 0 0 0, .vinti 13 0 0 32, .vcmpI32 6 0 0 0, .vcmpN32 6 0 0 0,
    .vmov 1 1 0, .vmov 2 0 2, .vld 7 0 2 0 0 0 0, .vld 4 0 1 0 0 0 0, .vld 4 0 2 2 0 0 0, .vst 5 0 0 0 0 0 0, .vst 3 0 0 0 0 0 0,
    .vst 3 0 1 1 0 0 0, .vatomAddI32 0 0 0 3, .vatomAddF32 63 0 0 2, .vatomAddB16x2 0 0 0 3, .vatomMinI32 0 0 0 3, .vatomMaxI32 63 0 0 2,
    .vatomMinN32 0 0 0 3, .vatomMaxN32 0 0 0 3, .vatomAnd 0 0 0 3, .vatomOr 0 0 0 3, .vatomXor 0 0 0 3, .vatomXchg 0 0 0 3,
    .vatomCas 31 0 0 2, .vatomIncw 0 0 0 3, .vatomDecw 0 0 0 3, .vatomAddI64 31 0 0 2, .mwait 6 0 0 0, .wback 1 0, .discard 31 0,
    .bankcfg 0 3, .mma 10 0 0 0 0 0 0, .tload 0 0 0 0 3, .tstore 0 1 0 1 0, .taddst 0 0 0 0 3, .mquant 0 3 0 0 0 0, .seal 1 0 0, .seal 60 5 0] : List Instr),
    i.wf = false := by decide +kernel

end Sys2Proof.Machine
end

section
/-! SUPPORT and proofs for the words of chapter 2's formats. First the lane-wise words: what a write of vectors gives, the
guard of floating-point words, and the lane function that each word hands to them. -/

namespace Sys2Proof.Machine.Formats

/-! ## What a write of vectors gives -/

theorem raiseWs_zero (s : State) : s.raiseWs 0 = s := by
  simp [State.raiseWs, State.onRegs]

theorem ofFn_get (f : Fin 32 → Word) (l : Fin 32) : (Vector.ofFn f)[l] = f l := by simp

/-- A word that replaces the window, raises its sticky bits and completes, from what the new window holds. -/
theorem givesVectors_window {s : State} {win : SMap Lanes} {mask : Word} {d k : Nat} {v : Nat → Fin 32 → Word}
    (fp : BitVec 5) (ws : BitVec 4)
    (h : ∀ (n : Nat) (l : Fin 32), (Regs.entry { s.warp.regs with win := win } n)[l]
      = if d ≤ n ∧ n < d + k ∧ mask.getLsbD l.val then v (n - d) l else (s.warp.regs.entry n)[l]) :
    GivesVectors ((((s.onRegs fun r => { r with win := win }).raiseWs ws).raiseFp fp).ok) s mask d k v fp ws :=
  ⟨_, rfl, h, rfl, rfl, rfl, rfl, rfl⟩

/-- One register written, from what the new entry holds in the lanes of the mask and in the others. -/
theorem givesVectors_setEntry {s : State} {d : Nat} {mask : Word} {new : Lanes} {v : Fin 32 → Word} (fp : BitVec 5) (ws : BitVec 4)
    (h : ∀ l : Fin 32, new[l] = if mask.getLsbD l.val then v l else (s.warp.regs.entry d)[l]) :
    GivesVectors ((((s.onRegs fun r => r.setEntry d new).raiseWs ws).raiseFp fp).ok) s mask d 1 (fun _ => v) fp ws := by
  refine givesVectors_window (win := (s.warp.regs.setEntry d new).win) fp ws fun n l => ?_
  change ((s.warp.regs.setEntry d new).entry n)[l] = _
  rw [Regs.entry_setEntry]
  by_cases hn : n = d
  · subst hn
    simp only [if_true, Nat.le_refl, Nat.lt_succ_self, true_and, h]
  · have : ¬ (d ≤ n ∧ n < d + 1) := by omega
    simp only [hn, ← and_assoc, this, false_and, if_false]

theorem setV_eq_onRegs (s : State) (d : Nat) (v : Lanes) :
    s.setV d v = s.onRegs fun r => r.setEntry d (blend s.snap.exec v (s.warp.regs.entry d)) := by
  simp only [State.setV, State.onRegs]
theorem givesVectors_setV (s : State) (d : Nat) (f : Fin 32 → Word) (fp : BitVec 5) (ws : BitVec 4) :
    GivesVectors ((((s.setV d (Vector.ofFn f)).raiseWs ws).raiseFp fp).ok) s s.snap.exec d 1 (fun _ => f) fp ws := by
  rw [setV_eq_onRegs]
  exact givesVectors_setEntry fp ws fun l => by rw [blend_get, ofFn_get]
theorem givesVectors_setVAll (s : State) (d : Nat) (f : Fin 32 → Word) (fp : BitVec 5) (ws : BitVec 4) :
    GivesVectors ((((s.setVAll d (Vector.ofFn f)).raiseWs ws).raiseFp fp).ok) s 0xFFFFFFFF d 1 (fun _ => f) fp ws := by
  have hall : ∀ l : Fin 32, (0xFFFFFFFF : Word).getLsbD l.val = true := by decide
  exact givesVectors_setEntry fp ws fun l => by rw [hall, if_pos rfl, ofFn_get]

/-- The active lanes of a register pair written. -/
theorem givesVectors_setV_pair (s : State) (d : Nat) (v : Nat → Fin 32 → Word) (fp : BitVec 5) :
    GivesVectors ((((s.setV d (Vector.ofFn (v 0))).setV (d + 1) (Vector.ofFn (v 1))).raiseFp fp).ok) s s.snap.exec d 2 v fp := by
  rw [← raiseWs_zero ((s.setV d _).setV (d + 1) _)]
  let r := s.warp.regs.setEntry d (blend s.snap.exec (Vector.ofFn (v 0)) (s.warp.regs.entry d))
  refine givesVectors_window (s := s)
    (win := (r.setEntry (d + 1) (blend s.snap.exec (Vector.ofFn (v 1)) (r.entry (d + 1)))).win) fp 0 fun n l => ?_
  change ((r.setEntry (d + 1) (blend s.snap.exec (Vector.ofFn (v 1)) (r.entry (d + 1)))).entry n)[l] = _
  simp only [r, Regs.entry_setEntry]
  by_cases h0 : n = d
  · subst h0; simp [-Fin.getElem_fin, ofFn_get]
  by_cases h1 : n = d + 1
  · subst h1; simp [-Fin.getElem_fin, ofFn_get]
  · have : ¬ (d ≤ n ∧ n < d + 2) := by omega
    simp only [h0, h1, ← and_assoc, this, false_and, if_false]

/-! ## Floating-point words that trap, and those that complete (R52, R54) -/

theorem fpGuard_marker {s : State} {ms : List Lanes} {fl : BitVec 5} {k : State → State} {m : Word}
    (hu : s.snap.uninit = true) (hm : firstMarker s.snap.exec ms = some m) : Traps (s.fpGuard ms fl k) s 21 0 m := by
  simp only [State.fpGuard, hu, hm, if_true]
  exact takeTrap_traps ..
theorem fpGuard_enabled {s : State} {ms : List Lanes} {fl : BitVec 5} {k : State → State}
    (hm : s.snap.uninit = true → firstMarker s.snap.exec ms = none) (he : fl &&& s.snap.fpEnables ≠ 0) :
    Traps (s.fpGuard ms fl k) s 22 (fl.setWidth 32) 0 := by
  have hn : (if s.snap.uninit then firstMarker s.snap.exec ms else none) = none := by
    cases hu : s.snap.uninit with
    | true => exact hm hu
    | false => rfl
  simp only [State.fpGuard, hn, if_pos he]
  exact takeTrap_traps ..

/-- What a lane-wise word does where it is quiet, where a marker is found, and where a raised exception is enabled: the
claim that `OneElementFloatResults` makes of each word. -/
def FloatWord (o : Out) (s : State) (src : List Lanes) (d : Nat) (f : Fin 32 → Rnd) : Prop :=
  (FpQuiet s src (raisedBy s f) →
    GivesVectors o s s.snap.exec d 1 (fun _ l => BitVec.ofNat 32 (f l).bits) (raisedBy s f))
  ∧ (∀ m, s.snap.uninit = true → firstMarker s.snap.exec src = some m → Traps o s 21 0 m)
  ∧ ((s.snap.uninit = true → firstMarker s.snap.exec src = none) → raisedBy s f &&& s.snap.fpEnables ≠ 0 →
      Traps o s 22 ((raisedBy s f).setWidth 32) 0)

theorem fpLanes_quiet {s : State} {src : List Lanes} {d : Nat} {f : Fin 32 → Word × BitVec 5}
    (h : FpQuiet s src (orFlags s.exec fun l => (f l).2)) :
    GivesVectors (fpLanes src d f s) s s.snap.exec d 1 (fun _ l => (f l).1) (orFlags s.exec fun l => (f l).2) := by
  rw [fpLanes, fpGuard_quiet _ _ _ _ h, ← raiseWs_zero (s.setV d _)]
  exact givesVectors_setV s d (fun l => (f l).1) _ 0
theorem raisedBy_eq (s : State) (f : Fin 32 → Rnd) : raisedBy s f = orFlags s.exec fun l => (f l).flags := rfl
theorem fpLanes_floatWord (s : State) (src : List Lanes) (d : Nat) (f : Fin 32 → Rnd) :
    FloatWord (fpLanes src d (fun l => (f l).lane) s) s src d f := by
  rw [FloatWord, raisedBy_eq]
  exact ⟨fpLanes_quiet (f := fun l => (f l).lane), fun _ => fpGuard_marker, fpGuard_enabled⟩
theorem f32op1_floatWord {s : State} {d a : BitVec 6} (f : FpEnv → Nat → Rnd)
    (h : NamesBelow s [(d.toNat, 1), (a.toNat, 1)]) :
    FloatWord (f32op1 f d a s) s [s.srcV a.toNat] d.toNat fun l => f s.snap.fpEnv ((s.srcV a.toNat)[l]).toNat := by
  rw [f32op1, vnames_of_below _ _ _ h]
  exact fpLanes_floatWord ..
theorem f32op2_floatWord {s : State} {d a b : BitVec 6} (f : FpEnv → Nat → Nat → Rnd)
    (h : NamesBelow s [(d.toNat, 1), (a.toNat, 1), (b.toNat, 1)]) :
    FloatWord (f32op2 f d a b s) s [s.srcV a.toNat, s.srcV b.toNat] d.toNat
      fun l => f s.snap.fpEnv ((s.srcV a.toNat)[l]).toNat ((s.srcV b.toNat)[l]).toNat := by
  rw [f32op2, vnames_of_below _ _ _ h]
  exact fpLanes_floatWord ..

theorem vfmaF32_floatWord {s : State} {d a b : BitVec 6} {c : BitVec 5}
    (h : NamesBelow s [(d.toNat, 1), (a.toNat, 1), (b.toNat, 1), (c.toNat, 1)]) :
    FloatWord (execVfmaF32 d a b c s) s [s.srcV a.toNat, s.srcV b.toNat, s.srcV c.toNat] d.toNat
      fun l => fmaV fmtF32 s.snap.fpEnv.rm (unpack fmtF32 ((s.srcV a.toNat)[l]).toNat)
        (unpack fmtF32 ((s.srcV b.toNat)[l]).toNat) (unpack fmtF32 ((s.srcV c.toNat)[l]).toNat) := by
  rw [execVfmaF32, vnames_of_below _ _ _ h]
  exact fpLanes_floatWord ..

theorem namesBelow_mono {s : State} {xs ys : List (Nat × Nat)} (h : NamesBelow s ys) (hs : xs ⊆ ys) : NamesBelow s xs :=
  fun r hr => h r (hs hr)

/-- Settles O27: every word is `fpLanes` of its lane function over its own sources. -/
theorem oneElementFloatResults : Obligations.OneElementFloatResults := by
  unfold Obligations.OneElementFloatResults
  intro d a b c tid s h
  have op1 (f : FpEnv → Nat → Rnd) := f32op1_floatWord (d := d) (a := a) f (namesBelow_mono h (by simp))
  have op2 (f : FpEnv → Nat → Nat → Rnd) := f32op2_floatWord (d := d) (a := a) (b := b) f (namesBelow_mono h (by simp))
  exact ⟨op2 fun e x y => addC fmtF32 e.rm x y, op2 fun e x y => subC fmtF32 e.rm x y, op2 fun e x y => mulC fmtF32 e.rm x y,
    op2 fun e x y => minC fmtF32 e.rm x y, op2 fun e x y => maxC fmtF32 e.rm x y, op1 fun _ x => signOp fmtF32 x false,
    op1 fun _ x => signOp fmtF32 x (!x.testBit 31), op2 fun _ x y => signOp fmtF32 x (y.testBit 31), vfmaF32_floatWord h,
    op1 fun _ => sfu 0, op1 fun _ => sfu 1, op1 fun _ => sfu 2, op1 fun _ => sfu 3, op1 fun _ => sfu 4, op1 fun _ => sfu 5,
    op1 fun _ => sfu 6, op1 fun _ => sfu 7,
    op1 fun _ => evalTable ((s.ctx s.warp.ctx).fnWord tid.toNat (s.banks.getLsbD tid.toNat))⟩

/-! ## Pairs of halves and doubles -/

/-- The two halves of a lane as one result, the flags of both: what a pair-format word writes to the lane. -/
def pairRnd (fmt : Fmt) (env : FpEnv) (f : Nat → Rnd) : Rnd :=
  let lo := ftzRes fmt env.ftz (f 0); let hi := ftzRes fmt env.ftz (f 1)
  ⟨lo.bits % 65536 + 65536 * (hi.bits % 65536), lo.flags ||| hi.flags⟩
theorem halfPair_eq (fmt : Fmt) (env : FpEnv) (f : Nat → Rnd) : halfPair fmt env f = (pairRnd fmt env f).lane := rfl

theorem halfOp2_floatWord {s : State} {d a b : BitVec 6} (fmt : Fmt) (f : Nat → FVal → FVal → Nat → Nat → Rnd)
    (h : NamesBelow s [(d.toNat, 1), (a.toNat, 1), (b.toNat, 1)]) :
    FloatWord (halfOp2 fmt f d a b s) s [s.srcV a.toNat, s.srcV b.toNat] d.toNat fun l => pairRnd fmt s.snap.fpEnv fun k =>
      f s.snap.fpEnv.rm (halfVal fmt s.snap.fpEnv (s.srcV a.toNat)[l] k) (halfVal fmt s.snap.fpEnv (s.srcV b.toNat)[l] k)
        (halfCode fmt s.snap.fpEnv (s.srcV a.toNat)[l] k) (halfCode fmt s.snap.fpEnv (s.srcV b.toNat)[l] k) := by
  simp only [halfOp2, vnames_of_below _ _ _ h, halfPair_eq]
  exact fpLanes_floatWord ..
theorem fmaHalves_floatWord {s : State} {d a b : BitVec 6} {c : BitVec 5} (fmt : Fmt)
    (h : NamesBelow s [(d.toNat, 1), (a.toNat, 1), (b.toNat, 1), (c.toNat, 1)]) :
    FloatWord (fmaHalves fmt d a b c s) s [s.srcV a.toNat, s.srcV b.toNat, s.srcV c.toNat] d.toNat
      fun l => pairRnd fmt s.snap.fpEnv fun k => fmaV fmt s.snap.fpEnv.rm (halfVal fmt s.snap.fpEnv (s.srcV a.toNat)[l] k)
        (halfVal fmt s.snap.fpEnv (s.srcV b.toNat)[l] k) (halfVal fmt s.snap.fpEnv (s.srcV c.toNat)[l] k) := by
  simp only [fmaHalves, vnames_of_below _ _ _ h, halfPair_eq]
  exact fpLanes_floatWord ..
theorem vcmulB16_floatWord {s : State} {d a b : BitVec 6} (h : NamesBelow s [(d.toNat, 1), (a.toNat, 1), (b.toNat, 1)]) :
    let env := s.snap.fpEnv; let x (l : Fin 32) (k : Nat) := halfVal fmtB16 env (s.srcV a.toNat)[l] k
    let y (l : Fin 32) (k : Nat) := halfVal fmtB16 env (s.srcV b.toNat)[l] k
    FloatWord (execVcmulB16 d a b s) s [s.srcV a.toNat, s.srcV b.toNat] d.toNat fun l => pairRnd fmtB16 env fun k =>
      if k = 0 then bracket fmtB16 env.rm true (x l 0) (y l 0) (x l 1) (y l 1)
      else bracket fmtB16 env.rm false (x l 0) (y l 1) (x l 1) (y l 0) := by
  simp only [execVcmulB16, vnames_of_below _ _ _ h, halfPair_eq]
  exact fpLanes_floatWord ..

/-- The halves of a 64-bit code as the words of a pair. -/
theorem loHalf_ofNat (n : Nat) : loHalf (BitVec.ofNat 64 n) = BitVec.ofNat 32 (n / 2 ^ (32 * 0)) := by
  apply BitVec.eq_of_toNat_eq; simp [loHalf]
theorem hiHalf_ofNat (n : Nat) : hiHalf (BitVec.ofNat 64 n) = BitVec.ofNat 32 (n / 2 ^ (32 * 1)) := by
  apply BitVec.eq_of_toNat_eq; simp [hiHalf, Nat.shiftRight_eq_div_pow]; omega

theorem fp64Lanes_quiet {s : State} {ms : List Lanes} {d : BitVec 5} {f : Fin 32 → Rnd} (h : FpQuiet s ms (raisedBy s f)) :
    GivesVectors (fp64Lanes ms d f s) s s.snap.exec (2 * d.toNat) 2
      (fun k l => BitVec.ofNat 32 ((f l).bits / 2 ^ (32 * k))) (raisedBy s f) := by
  rw [raisedBy_eq] at h ⊢
  rw [fp64Lanes, fpGuard_quiet _ _ _ _ h]
  simp only [loHalf_ofNat, hiHalf_ofNat]
  exact givesVectors_setV_pair s _ (fun k l => BitVec.ofNat 32 ((f l).bits / 2 ^ (32 * k))) _
theorem f64op2_quiet {s : State} {d a b : BitVec 5} (f : Nat → Nat → Nat → Rnd)
    (h : NamesBelow s [(2 * d.toNat, 2), (2 * a.toNat, 2), (2 * b.toNat, 2)]) :
    let r (l : Fin 32) : Rnd := f s.snap.fpEnv.rm (s.srcV64 a.toNat l) (s.srcV64 b.toNat l)
    FpQuiet s (s.pairWords a.toNat ++ s.pairWords b.toNat) (raisedBy s r) →
    GivesVectors (f64op2 f d a b s) s s.snap.exec (2 * d.toNat) 2
      (fun k l => BitVec.ofNat 32 ((r l).bits / 2 ^ (32 * k))) (raisedBy s r) := by
  rw [f64op2, vnames_of_below _ _ _ h]
  exact fp64Lanes_quiet
theorem vfmaF64_quiet {s : State} {d a b : BitVec 5} {c : BitVec 4}
    (h : NamesBelow s [(2 * d.toNat, 2), (2 * a.toNat, 2), (2 * b.toNat, 2), (2 * c.toNat, 2)]) :
    let r (l : Fin 32) : Rnd := fmaV fmtF64 s.snap.fpEnv.rm (unpack fmtF64 (s.srcV64 a.toNat l))
      (unpack fmtF64 (s.srcV64 b.toNat l)) (unpack fmtF64 (s.srcV64 c.toNat l))
    FpQuiet s (s.pairWords a.toNat ++ s.pairWords b.toNat ++ s.pairWords c.toNat) (raisedBy s r) →
    GivesVectors (execVfmaF64 d a b c s) s s.snap.exec (2 * d.toNat) 2
      (fun k l => BitVec.ofNat 32 ((r l).bits / 2 ^ (32 * k))) (raisedBy s r) := by
  rw [execVfmaF64, vnames_of_below _ _ _ h]
  exact fp64Lanes_quiet

/-- Settles O28: a pair-format word is `fpLanes` of both halves of each lane, an F64 word `fp64Lanes`. -/
theorem pairAndDoubleFloatResults : Obligations.PairAndDoubleFloatResults := by
  unfold Obligations.PairAndDoubleFloatResults
  refine ⟨fun d a b c s h => ?_, fun d a b c s h => ?_⟩
  · have h2 : NamesBelow s [(d.toNat, 1), (a.toNat, 1), (b.toNat, 1)] := namesBelow_mono h (by simp)
    have op2 (fmt : Fmt) (f : Nat → FVal → FVal → Nat → Nat → Rnd) := (halfOp2_floatWord fmt f h2).1
    have words (fmt : Fmt) := And.intro (op2 fmt fun rm x y _ _ => addV fmt rm x y) <|
      And.intro (op2 fmt fun rm x y _ _ => addV fmt rm x y.negate) <|
      And.intro (op2 fmt fun rm x y _ _ => mulR fmt rm x y) <|
      And.intro (op2 fmt fun _ x y p q => minMaxV fmt false x y p q) <|
      And.intro (op2 fmt fun _ x y p q => minMaxV fmt true x y p q) (fmaHalves_floatWord fmt h).1
    exact ⟨words fmtF16, words fmtB16, (vcmulB16_floatWord h2).1⟩
  · have op2 (f : Nat → Nat → Nat → Rnd) := f64op2_quiet (d := d) (a := a) (b := b) f (namesBelow_mono h (by simp))
    exact ⟨op2 (addC fmtF64), op2 (subC fmtF64), op2 (mulC fmtF64), op2 (minC fmtF64), op2 (maxC fmtF64), vfmaF64_quiet h⟩

/-! ## Comparisons (R98, R151) -/

theorem setBits_getLsbD (f : Fin 32 → Bool) (ls : List (Fin 32)) (m : Word) (l : Fin 32) :
    (ls.foldl (fun m k => if f k then m ||| (1#32 <<< k.val) else m) m).getLsbD l.val
      = (m.getLsbD l.val || (decide (l ∈ ls) && f l)) := by
  induction ls generalizing m with
  | nil => simp
  | cons k ls ih =>
    have hbit : (1#32 <<< k.val).getLsbD l.val = decide (l = k) := by
      rw [Bool.eq_iff_iff]; simp [Fin.ext_iff]; omega
    rw [List.foldl_cons, ih]
    by_cases hk : l = k
    · subst hk; cases hf : f l <;> simp
    · cases hf : f k <;> simp only [if_true, if_false, Bool.false_eq_true, BitVec.getLsbD_or, hbit, hk, decide_false,
        Bool.or_false, List.mem_cons, false_or]
theorem maskOf_getLsbD (f : Fin 32 → Bool) (l : Fin 32) : (maskOf f).getLsbD l.val = f l := by
  rw [maskOf, setBits_getLsbD]; simp [allLanes]

/-- The word completes with the active bits of P[p] set to `f` and the flags `fp` raised, and nothing else changed: the
claim that `ComparisonsWriteTheActiveBits` makes of each word. -/
def GivesActiveBits (o : Out) (s : State) (p : Nat) (f : Fin 32 → Bool) (fp : BitVec 5) : Prop :=
  ∃ t, o = .next t ∧ OnlyRegs s t ∧ t.warp.pc = s.warp.pc.next
    ∧ (∀ (n : Fin 8) (l : Fin 32), (t.warp.regs.p[n]).getLsbD l.val =
        if n.val = p ∧ s.snap.exec.getLsbD l.val = true then f l else (s.warp.regs.p[n]).getLsbD l.val)
    ∧ t.warp.regs = { s.warp.regs with
        p := t.warp.regs.p, fpmode := s.warp.regs.fpmode ||| (fp.setWidth 32) <<< 4 }

theorem raiseFp_zero (s : State) : s.raiseFp 0 = s := by simp [State.raiseFp, State.onRegs]

theorem setPActive_getLsbD (s : State) (p : BitVec 3) (m : Word) (n : Fin 8) (l : Fin 32) :
    ((s.setPActive p m).warp.regs.p[n]).getLsbD l.val =
      if n.val = p.toNat ∧ s.snap.exec.getLsbD l.val = true then m.getLsbD l.val else (s.warp.regs.p[n]).getLsbD l.val := by
  by_cases hn : n.val = p.toNat
  · cases he : s.snap.exec.getLsbD l.val <;>
      simp [State.setPActive, State.onRegs, -BitVec.getLsbD_eq_getElem, BitVec.getLsbD_not, hn, he]
  · simp [State.setPActive, State.onRegs, hn, Ne.symm hn]
theorem givesActiveBits_setPActive (s : State) (p : BitVec 3) (f : Fin 32 → Bool) (fp : BitVec 5) :
    GivesActiveBits (((s.setPActive p (maskOf f)).raiseFp fp).ok) s p.toNat f fp := by
  refine ⟨_, rfl, rfl, rfl, fun n l => ?_, rfl⟩
  rw [← maskOf_getLsbD f l]
  exact setPActive_getLsbD ..

theorem vcmpFp_quiet {s : State} {p : BitVec 3} {a b : BitVec 6} (f : Word → Word → Bool × BitVec 5)
    (h : NamesBelow s [(a.toNat, 1), (b.toNat, 1)]) :
    let r (l : Fin 32) := f (s.srcV a.toNat)[l] (s.srcV b.toNat)[l]; let fl := raisedBy s fun l => ⟨0, (r l).2⟩
    FpQuiet s [s.srcV a.toNat, s.srcV b.toNat] fl →
    GivesActiveBits (vcmpFp p a b f s) s p.toNat (fun l => (r l).1) fl := by
  intro r fl hq
  rw [vcmpFp, vnames_of_below _ _ _ h]
  exact fpGuard_quiet s _ _ _ hq ▸ givesActiveBits_setPActive s p (fun l => (r l).1) fl

/-- The six conditions of VCMP on numbers (R151). -/
def intCond (u v : Int) : Nat → Bool
  | 0 => decide (u = v)
  | 1 => decide (u ≠ v)
  | 2 => decide (u < v)
  | 3 => decide (u ≤ v)
  | 4 => decide (v < u)
  | _ => decide (v ≤ u)

theorem cmpInt_eq_intCond {signed : Bool} (k : BitVec 3) {x y : Word} {u v : Int} (he : x = y ↔ u = v)
    (hlt : (if signed then x.slt y else decide (x < y)) = decide (u < v))
    (hgt : (if signed then y.slt x else decide (y < x)) = decide (v < u)) :
    cmpInt signed k x y = intCond u v k.toNat := by
  have hle (a b : Int) : decide (a ≤ b) = !decide (b < a) := by rw [Bool.eq_iff_iff]; simp
  have hk : k ∈ ([0, 1, 2, 3, 4, 5, 6, 7] : List (BitVec 3)) := by revert k; decide
  simp only [List.mem_cons, List.not_mem_nil, or_false] at hk
  rcases hk with rfl | rfl | rfl | rfl | rfl | rfl | rfl | rfl <;> simp [cmpInt, intCond, hlt, hgt, he, hle]
theorem cmpInt_signed (k : BitVec 3) (x y : Word) : cmpInt true k x y = intCond x.toInt y.toInt k.toNat :=
  cmpInt_eq_intCond k BitVec.toInt_inj.symm rfl rfl
theorem cmpInt_unsigned (k : BitVec 3) (x y : Word) : cmpInt false k x y = intCond x.toNat y.toNat k.toNat :=
  cmpInt_eq_intCond k (by rw [Int.ofNat_inj, BitVec.toNat_inj]) (by simp [BitVec.lt_def]) (by simp [BitVec.lt_def])

/-- A fact about the condition by its code, told code by code. -/
theorem intCond_cases {P : (Fin 32 → Bool) → Prop} {u v : Fin 32 → Int} {c : Nat} (h : P fun l => intCond (u l) (v l) c) :
    (c = 0 → P fun l => decide (u l = v l)) ∧ (c = 1 → P fun l => decide (u l ≠ v l))
    ∧ (c = 2 → P fun l => decide (u l < v l)) ∧ (c = 3 → P fun l => decide (u l ≤ v l))
    ∧ (c = 4 → P fun l => decide (v l < u l)) ∧ (c = 5 → P fun l => decide (v l ≤ u l)) := by
  refine ⟨?_, ?_, ?_, ?_, ?_, ?_⟩ <;> (rintro rfl; exact h)

theorem vcmpInt_gives {s : State} {signed : Bool} {k p : BitVec 3} {a b : BitVec 6}
    (h : NamesBelow s [(a.toNat, 1), (b.toNat, 1)]) :
    GivesActiveBits (vcmpInt signed k p a b s) s p.toNat
      (fun l => cmpInt signed k (s.srcV a.toNat)[l] (s.srcV b.toNat)[l]) 0 := by
  rw [vcmpInt, vnames_of_below _ _ _ h, ← raiseFp_zero (s.setPActive p _)]
  exact givesActiveBits_setPActive ..

/-- Settles O29: the predicate is a blend of the comparison and the old bits under EXEC, and the six codes of an
integer comparison are the six relations of the numbers. -/
theorem comparisonsWriteTheActiveBits : Obligations.ComparisonsWriteTheActiveBits := by
  unfold Obligations.ComparisonsWriteTheActiveBits
  intro k p a b s h
  have signed := vcmpInt_gives (signed := true) (k := k) (p := p) h
  have unsigned := vcmpInt_gives (signed := false) (k := k) (p := p) h
  simp only [cmpInt_signed, cmpInt_unsigned] at signed unsigned
  let e (x y : Word) (i : Nat) := cmpV k.toNat (halfVal fmtF16 s.snap.fpEnv x i) (halfVal fmtF16 s.snap.fpEnv y i)
  exact ⟨intCond_cases (P := fun f => GivesActiveBits (exec (.vcmpI32 k p a b) s) s p.toNat f 0) signed,
    intCond_cases (P := fun f => GivesActiveBits (exec (.vcmpN32 k p a b) s) s p.toNat f 0) unsigned,
    vcmpFp_quiet (fun x y => cmpV k.toNat (unpack fmtF32 x.toNat) (unpack fmtF32 y.toNat)) h,
    vcmpFp_quiet (fun x y => ((e x y 0).1 && (e x y 1).1, (e x y 0).2 ||| (e x y 1).2)) h⟩

/-! ## Conversions (R152, R153) -/

theorem cvtPlain_floatWord {s : State} {d a : BitVec 6} (f : FpEnv → Word → Rnd) (h : NamesBelow s [(d.toNat, 1), (a.toNat, 1)]) :
    FloatWord (cvtPlain f d a s) s [] d.toNat fun l => f s.snap.fpEnv (s.srcV a.toNat)[l] := by
  rw [cvtPlain, vnames_of_below _ _ _ h]
  exact fpLanes_floatWord ..
theorem widen_floatWord {s : State} {d a : BitVec 6} (fmt : Fmt) (i : Nat) (h : NamesBelow s [(d.toNat, 1), (a.toNat, 1)]) :
    FloatWord (widen fmt i d a s) s [s.srcV a.toNat] d.toNat
      fun l => roundV fmtF32 0 (halfVal fmt s.snap.fpEnv (s.srcV a.toNat)[l] i) := by
  rw [widen, vnames_of_below _ _ _ h]
  exact fpLanes_floatWord ..
/-- The elements packed from `k` registers, and the flags that they raise together. -/
theorem cvtPack_quiet {s : State} {d : BitVec 6} {base : Nat} (f : FpEnv → FVal → Rnd) (n k : Nat)
    (h : NamesBelow s [(d.toNat, 1), (base, k)]) :
    let e (j : Nat) (l : Fin 32) : Rnd := f s.snap.fpEnv (unpack fmtF32 ((s.srcV (base + j))[l]).toNat)
    let r (l : Fin 32) : Rnd := ⟨0, (List.range k).foldl (fun g j => g ||| (e j l).flags) 0⟩
    FpQuiet s ((List.range k).map fun j => s.srcV (base + j)) (raisedBy s r) →
    GivesVectors (cvtPack f n k d base s) s s.snap.exec d.toNat 1
      (fun _ l => (List.range k).foldl (fun w j => w ||| BitVec.ofNat 32 ((e j l).bits * 2 ^ (n * j))) 0) (raisedBy s r) := by
  intro e r hq
  rw [cvtPack, vnames_of_below _ _ _ h]
  exact fpLanes_quiet (f := fun l =>
    ((List.range k).foldl (fun w j => w ||| BitVec.ofNat 32 ((e j l).bits * 2 ^ (n * j))) 0, (r l).flags)) hq
theorem vcvtF64F32_quiet {s : State} {d : BitVec 5} {a : BitVec 6} (h : NamesBelow s [(2 * d.toNat, 2), (a.toNat, 1)]) :
    let f (l : Fin 32) : Rnd := roundV fmtF64 0 (unpack fmtF32 ((s.srcV a.toNat)[l]).toNat)
    FpQuiet s [s.srcV a.toNat] (raisedBy s f) →
    GivesVectors (execVcvtF64F32 d a s) s s.snap.exec (2 * d.toNat) 2
      (fun k l => BitVec.ofNat 32 ((f l).bits / 2 ^ (32 * k))) (raisedBy s f) := by
  rw [execVcvtF64F32, vnames_of_below _ _ _ h]
  exact fp64Lanes_quiet
theorem vcvtF32F64_floatWord {s : State} {d : BitVec 6} {a : BitVec 5} (h : NamesBelow s [(d.toNat, 1), (2 * a.toNat, 2)]) :
    FloatWord (execVcvtF32F64 d a s) s (s.pairWords a.toNat) d.toNat
      fun l => roundV fmtF32 s.snap.fpEnv.rm (unpack fmtF64 (s.srcV64 a.toNat l)) := by
  rw [execVcvtF32F64, vnames_of_below _ _ _ h]
  exact fpLanes_floatWord ..

/-- Settles O30: a conversion of one source is `fpLanes` of its lane function, a packing one of the fold over its
elements, and VCVT.F64.F32 writes a pair. -/
theorem conversionsRoundOnce : Obligations.ConversionsRoundOnce := by
  unfold Obligations.ConversionsRoundOnce
  refine ⟨fun d a s h => ?_, fun d a s k n i f base => ?_, fun d a s h => vcvtF64F32_quiet h,
    fun d a s h => (vcvtF32F64_floatWord h).1⟩
  · have op (f : FpEnv → Nat → Rnd) := (f32op1_floatWord f h).1
    have plain (f : FpEnv → Word → Rnd) := (cvtPlain_floatWord f h).1
    have half (fmt : Fmt) (k : Nat) := (widen_floatWord fmt k h).1
    exact ⟨plain fun e x => roundInt fmtF32 e.rm false x.toInt 0, plain fun e x => roundInt fmtF32 e.rm false x.toNat 0,
      op fun _ x => cvtIntV 0 (-2147483648) 2147483647 (unpack fmtF32 x),
      op fun _ x => cvtIntV 1 (-2147483648) 2147483647 (unpack fmtF32 x), op fun _ x => cvtIntV 1 0 4294967295 (unpack fmtF32 x),
      half fmtF16 0, half fmtF16 1, half fmtB16 0, half fmtB16 1, op fun _ x => cvtL6 s.logTab (unpack fmtF32 x),
      plain fun _ x => roundV fmtF32 0 (l6Val s.logTab (x.toNat % 64)),
      plain fun _ x => roundV fmtF32 0 (unpack fmtE4 (x.toNat % 256)),
      plain fun _ x => roundV fmtF32 0 (unpack fmtE5 (x.toNat % 256)),
      plain fun _ x => roundV fmtF32 0 (unpack fmtE2 (x.toNat % 16))⟩
  · have h4 : (a.setWidth 4).toNat = a.toNat % 16 := BitVec.toNat_setWidth 4 a
    have h3 : (a.setWidth 3).toNat = a.toNat % 8 := BitVec.toNat_setWidth 3 a
    rintro env (⟨rfl, rfl, rfl, rfl, rfl⟩ | ⟨rfl, rfl, rfl, rfl, rfl⟩ | ⟨rfl, rfl, rfl, rfl, rfl⟩ |
      ⟨rfl, rfl, rfl, rfl, rfl⟩ | ⟨rfl, rfl, rfl, rfl, rfl⟩) h
    · exact cvtPack_quiet (fun e v => ftzRes fmtF16 e.ftz (cvtV fmtF16 e.rm v)) 16 2 h
    · exact cvtPack_quiet (fun e v => ftzRes fmtB16 e.ftz (cvtV fmtB16 e.rm v)) 16 2 h
    · rw [← h4] at h ⊢
      exact cvtPack_quiet (fun e v => cvtV fmtE4 e.rm v) 8 4 h
    · rw [← h4] at h ⊢
      exact cvtPack_quiet (fun e v => cvtV fmtE5 e.rm v) 8 4 h
    · rw [← h3] at h ⊢
      exact cvtPack_quiet (fun e v => cvtV fmtE2 e.rm v) 4 8 h

/-! ## Special inputs of VSFU (R154) -/

theorem sfu_nan {x : Nat} {b : Bool} (fn : Nat) (hx : unpack fmtF32 x = .nan b) :
    sfu fn x = ⟨0x7FC00000, if b then 1 else 0⟩ := by
  simp only [sfu, hx]; rfl
/-- The root, its reciprocal and the logarithm are invalid below zero. -/
theorem sfu_negative {x m : Nat} {e : Int} (hx : unpack fmtF32 x = .num true m e) (hm : m ≠ 0) :
    ∀ fn ∈ [1, 2, 4], sfu fn x = ⟨0x7FC00000, 1⟩ := by
  simp only [List.forall_mem_cons, sfu, hx, if_neg hm]
  exact ⟨rfl, rfl, rfl, by simp⟩
theorem sfu_negInf {x : Nat} (hx : unpack fmtF32 x = .inf true) : ∀ fn ∈ [1, 2, 4], sfu fn x = ⟨0x7FC00000, 1⟩ := by
  simp only [List.forall_mem_cons, sfu, hx]
  exact ⟨rfl, rfl, rfl, by simp⟩
theorem sfu_turns {x m : Nat} {b : Bool} {e : Int} (hx : unpack fmtF32 x = .num b m e) :
    sfu 5 x = turnR false b m e ∧ sfu 6 x = turnR true b m e := by
  simp only [sfu, hx, and_self]

/-- VSINT and VCOST at a whole number of quarters, by the quarter that it falls in. -/
def quarterRes (cosine neg : Bool) (quarter : Nat) : Rnd :=
  let q := if cosine then (quarter + 1) % 4 else quarter
  if q % 2 = 0 then exactRes (fmtF32.withSign (neg && !cosine) 0)
  else exactRes (fmtF32.withSign (decide (2 ≤ q) != (neg && !cosine)) 0x3F800000)

theorem turnR_eq_quarterRes (cosine neg : Bool) {m : Nat} {e : Int} (h : 2 ^ (-(e + 2)).toNat ∣ m * 2 ^ (e + 2).toNat) :
    turnR cosine neg m e = quarterRes cosine neg (m * 2 ^ (e + 2).toNat / 2 ^ (-(e + 2)).toNat % 4) := by
  simp only [turnR, Nat.mod_eq_zero_of_dvd h, if_true, quarterRes]

theorem quarterRes_table : ∀ (b : Bool), ∀ q < 4,
    (q % 2 = 0 → quarterRes false b q = ⟨if b then 0x80000000 else 0, 0⟩)
    ∧ (q = 1 → quarterRes false b q = ⟨if b then 0xBF800000 else 0x3F800000, 0⟩)
    ∧ (q = 3 → quarterRes false b q = ⟨if b then 0x3F800000 else 0xBF800000, 0⟩)
    ∧ (q % 2 = 1 → quarterRes true b q = ⟨0, 0⟩)
    ∧ (q = 0 → quarterRes true b q = ⟨0x3F800000, 0⟩) ∧ (q = 2 → quarterRes true b q = ⟨0xBF800000, 0⟩) := by decide

/-- Settles O33: the constants are evaluated, the NaNs and negative numbers are arms of `sfu`, and at a quarter
turn the rounded value is one of 0 and ±1. -/
theorem specialFunctionSpecialInputs : Obligations.SpecialFunctionSpecialInputs := by
  unfold Obligations.SpecialFunctionSpecialInputs
  refine ⟨fun x _ fn _ b hx => sfu_nan fn hx, rfl, rfl, rfl, rfl, rfl, rfl, rfl, rfl, rfl, rfl, rfl, rfl, rfl, rfl, rfl, rfl,
    rfl, rfl, by simp only [List.forall_mem_cons]; exact ⟨⟨rfl, rfl⟩, ⟨rfl, rfl⟩, by simp⟩, rfl, rfl, rfl, rfl,
    fun x fn hf m e hx hm => sfu_negative hx hm fn hf, fun x fn hf hx => sfu_negInf hx fn hf, fun x b m e hx => ?_⟩
  obtain ⟨hs, hc⟩ := sfu_turns hx
  intro d t k hd
  have hk : k % 4 % 2 = k % 2 := Nat.mod_mod_of_dvd k (by decide)
  rw [hs, hc, turnR_eq_quarterRes false b hd, turnR_eq_quarterRes true b hd, ← hk]
  exact quarterRes_table b (k % 4) (Nat.mod_lt k (by decide))

end Sys2Proof.Machine.Formats
end

section
/-! SUPPORT and proofs for the F32 reductions and scans: the tree that the model builds level by level is the tree of halves
of R55, and its steps over a whole partition are those of R56 lane by lane. -/

namespace Sys2Proof.Machine.Formats

/-! ## Flags gathered -/

theorem foldl_or_init {α : Type} (p : α → BitVec 5) (l : List α) (z : BitVec 5) :
    l.foldl (fun f x => f ||| p x) z = z ||| l.foldl (fun f x => f ||| p x) 0 := by
  induction l generalizing z with
  | nil => exact BitVec.or_zero.symm
  | cons x xs ih =>
    rw [List.foldl_cons, ih, List.foldl_cons, ih (0 ||| p x)]
    simp [BitVec.or_assoc]
theorem foldl_or_or {α : Type} (p q : α → BitVec 5) (l : List α) :
    l.foldl (fun f x => f ||| (p x ||| q x)) 0 = l.foldl (fun f x => f ||| p x) 0 ||| l.foldl (fun f x => f ||| q x) 0 := by
  induction l with
  | nil => exact BitVec.or_zero.symm
  | cons x xs ih =>
    simp only [List.foldl_cons, foldl_or_init _ xs (0 ||| _), ih]
    ac_rfl

theorem and_or_self_left (x y : BitVec 5) : x &&& (x ||| y) = x := by
  ext i hi; cases h : x[i] <;> simp [h]

/-! ## The tree of R55 by levels and by halves -/

/-- A level of the tree over a list of even length and another is a level over each. -/
theorem treeLevel_append (op : Nat → Nat → Rnd) (ys : List (Option Nat)) :
    ∀ (n : Nat) (xs : List (Option Nat)), xs.length = 2 * n →
      treeLevel op (xs ++ ys) = ((treeLevel op xs).1 ++ (treeLevel op ys).1, (treeLevel op xs).2 ||| (treeLevel op ys).2)
  | 0, xs, h => by
    obtain rfl := List.length_eq_zero_iff.mp h
    simp [treeLevel]
  | n + 1, x :: y :: xs, h => by
    have ih := treeLevel_append op ys n xs (by simp only [List.length_cons] at h; omega)
    simp only [List.cons_append, treeLevel, ih, BitVec.or_assoc]

theorem treeLevel_length (op : Nat → Nat → Rnd) : ∀ (n : Nat) (xs : List (Option Nat)), xs.length = 2 * n →
    (treeLevel op xs).1.length = n
  | 0, xs, h => by
    obtain rfl := List.length_eq_zero_iff.mp h
    rfl
  | n + 1, x :: y :: xs, h => by
    have ih := treeLevel_length op n xs (by simp only [List.length_cons] at h; omega)
    simp only [treeLevel, List.length_cons, ih]

/-- Levels over two lists of 2^n nodes go on side by side. -/
theorem treeReduce_append (op : Nat → Nat → Rnd) (n : Nat) (xs ys : List (Option Nat)) (f g : BitVec 5)
    (hx : xs.length = 2 ^ n) :
    treeReduce op n (xs ++ ys, f ||| g) = ((treeReduce op n (xs, f)).1 ++ (treeReduce op n (ys, g)).1,
      (treeReduce op n (xs, f)).2 ||| (treeReduce op n (ys, g)).2) := by
  induction n generalizing xs ys f g with
  | zero => rfl
  | succ n ih =>
    have hx' : xs.length = 2 * 2 ^ n := by rw [hx, Nat.pow_succ, Nat.mul_comm]
    simp only [treeReduce, treeLevel_append op ys _ xs hx']
    rw [← ih _ _ _ _ (treeLevel_length op _ xs hx')]
    congr 2
    ac_rfl

/-- The last level is done last. -/
theorem treeReduce_succ (op : Nat → Nat → Rnd) (n : Nat) (l : List (Option Nat) × BitVec 5) :
    treeReduce op (n + 1) l = treeReduce op 1 (treeReduce op n l) := by
  induction n generalizing l with
  | zero => rfl
  | succ n ih => rw [treeReduce, ih]; rfl

/-- The model's tree by levels has the root and the flags of the tree of R55 by halves. -/
theorem treeReduce_eq_treeOver (op : Nat → Nat → Rnd) (leaf : Nat → Option Nat) (h b : Nat) (fl : BitVec 5) :
    treeReduce op h ((List.range (2 ^ h)).map fun i => leaf (b + i), fl)
      = ([(treeOver op leaf h b).1], (treeOver op leaf h b).2 ||| fl) := by
  induction h generalizing b fl with
  | zero => simp [treeReduce, treeOver]
  | succ h ih =>
    have hr : (List.range (2 ^ (h + 1))).map (fun i => leaf (b + i)) = (List.range (2 ^ h)).map (fun i => leaf (b + i))
        ++ (List.range (2 ^ h)).map fun i => leaf (b + 2 ^ h + i) := by
      rw [Nat.pow_succ, Nat.mul_two, List.range_add, List.map_append, List.map_map]
      simp only [Function.comp_def, Nat.add_assoc]
    rw [treeReduce_succ, hr, ← BitVec.zero_or (x := fl), treeReduce_append _ _ _ _ _ _ (by simp), ih, ih]
    simp only [treeReduce, treeLevel, treeOver, List.cons_append, List.nil_append]
    congr 1
    simp only [BitVec.or_zero, BitVec.zero_or]
    ac_rfl

/-! ## The steps of R56 -/

theorem scanStep_scanOver (op : Nat → Nat → Rnd) (leaf : Nat → Option Nat) (w j : Nat) (fl : BitVec 5) :
    (scanStep op (2 ^ j) ((List.range w).map (scanOver op leaf j)) fl).1 = (List.range w).map (scanOver op leaf (j + 1)) := by
  apply List.ext_getElem
  · simp [scanStep]
  · intro l h1 h2
    simp only [scanStep, List.getElem_map, List.getElem_zipWith, List.getElem_range, scanOver, List.getElem_append,
      List.length_replicate, List.getElem_replicate]
    by_cases hl : 2 ^ j ≤ l
    · rw [dif_neg (by omega), if_pos hl]
    · rw [dif_pos (by omega), if_neg hl]
      cases scanOver op leaf j l <;> rfl

theorem scanSteps_scanOver (op : Nat → Nat → Rnd) (leaf : Nat → Option Nat) (w n j : Nat) (fl : BitVec 5) :
    (scanSteps op n (2 ^ j) ((List.range w).map (scanOver op leaf j), fl)).1 = (List.range w).map (scanOver op leaf (j + n)) := by
  induction n generalizing j fl with
  | zero => rfl
  | succ n ih =>
    have h := scanStep_scanOver op leaf w j fl
    rw [scanSteps, ← Nat.pow_succ', ← Prod.eta (scanStep _ _ _ _), h, ih, Nat.succ_add_eq_add_succ]

/-- The flags that a scan starts with stay raised. -/
theorem scanSteps_flags (op : Nat → Nat → Rnd) (n k : Nat) (xs : List (Option Nat)) (fl : BitVec 5) :
    (scanSteps op n k (xs, fl)).2 = fl ||| (scanSteps op n k (xs, 0)).2 := by
  induction n generalizing k xs fl with
  | zero => exact BitVec.or_zero.symm
  | succ n ih =>
    have hs : scanStep op k xs fl = ((scanStep op k xs 0).1, fl ||| (scanStep op k xs 0).2) :=
      Prod.ext rfl (foldl_or_init _ _ fl)
    rw [scanSteps, scanSteps, hs, ih, BitVec.or_assoc, ← ih]

/-! ## Partitions (R102, R140) -/

theorem width_pow (r : Regs) : 2 ^ Nat.log2 r.width = r.width := by
  unfold Regs.width; split <;> decide
theorem width_dvd (r : Regs) : r.width ∣ 32 := by
  unfold Regs.width; split <;> decide
theorem width_pos (r : Regs) : 0 < r.width := Nat.pos_of_dvd_of_pos (width_dvd r) (by decide)

theorem baseLane_eq (w l : Nat) : baseLane w l = l / w * w := Nat.div_mul_self_eq_mod_sub_self.symm

theorem activeIn_baseLane (s : State) (l : Fin 32) : activeIn s.exec s.snap.width (baseLane s.snap.width l.val) = partners s l := by
  refine List.filter_congr fun k _ => ?_
  have hw := width_pos s.snap
  have hk : k.val / s.snap.width = l.val / s.snap.width ↔ _ := Nat.div_eq_iff hw
  have hb : (k.val / s.snap.width == l.val / s.snap.width) = (decide (l.val / s.snap.width * s.snap.width ≤ k.val)
      && decide (k.val < l.val / s.snap.width * s.snap.width + s.snap.width)) := by
    rw [Bool.eq_iff_iff, beq_iff_eq, ← Bool.decide_and, decide_eq_true_iff, hk]
    omega
  rw [baseLane_eq, State.exec, hb]

/-- EMPTY is raised where some lane has no partner. -/
theorem emptyBits_eq (s : State) : (if someEmpty s.exec s.snap.width then wsEMPTY else 0) = emptyBits s := by
  have h : someEmpty s.exec s.snap.width = (List.finRange 32).any fun l => (partners s l).isEmpty := by
    rw [Bool.eq_iff_iff, someEmpty, List.any_eq_true, List.any_eq_true]
    constructor
    · rintro ⟨l, -, hl⟩
      obtain ⟨hm, he⟩ := (Bool.and_eq_true _ _).mp hl
      have hb : baseLane s.snap.width l.val = l.val := by rw [baseLane, of_decide_eq_true hm, Nat.sub_zero]
      exact ⟨l, List.mem_finRange l, by rw [← activeIn_baseLane, hb]; exact he⟩
    · rintro ⟨l, -, hl⟩
      have hm : baseLane s.snap.width l.val % s.snap.width = 0 := by rw [baseLane_eq, Nat.mul_mod_left]
      refine ⟨⟨baseLane s.snap.width l.val, Nat.lt_of_le_of_lt (Nat.sub_le _ _) l.isLt⟩, List.mem_finRange _, ?_⟩
      simpa only [hm, decide_true, Bool.true_and, activeIn_baseLane] using hl
  rw [h, emptyBits]

/-- The lanes of the partitions, one after the other, are all the lanes. -/
theorem exists_partition_iff {w : Nat} (hw : 0 < w) (hd : w ∣ 32) (P : Nat → Prop) :
    (∃ q < 32 / w, ∃ i < w, P (q * w + i)) ↔ ∃ l < 32, P l := by
  constructor
  · rintro ⟨q, hq, i, hi, h⟩
    have h1 : (q + 1) * w ≤ 32 / w * w := Nat.mul_le_mul_right w hq
    rw [Nat.div_mul_cancel hd, Nat.succ_mul] at h1
    exact ⟨_, by omega, h⟩
  · rintro ⟨l, hl, h⟩
    exact ⟨l / w, Nat.div_lt_div_of_lt_of_dvd hd hl, l % w, Nat.mod_lt l hw, by rwa [Nat.div_add_mod']⟩

/-! ## Leaves, roots and their flags (R55, R158) -/

/-- The leaf of a lane: what an active lane of the source holds. -/
def lanesLeaf (e : Word) (v : Lanes) (k : Nat) : Option Nat := if e.getLsbD k then some (laneAt v k).toNat else none

theorem leaves_eq (e : Word) (w b : Nat) (v : Lanes) : leaves e w b v = (List.range w).map fun i => lanesLeaf e v (b + i) := rfl

theorem foldl_flagIf {α : Type} (p : α → Bool) (g : BitVec 5) (l : List α) :
    l.foldl (fun f x => f ||| flagIf (p x) g) 0 = flagIf (l.any p) g := by
  induction l with
  | nil => rfl
  | cons x xs ih =>
    rw [List.foldl_cons, foldl_or_init, ih, List.any_cons]
    cases p x <;> cases xs.any p <;> simp [flagIf]

/-- NV where an active lane of the source holds a signalling NaN. -/
def snanRaised (e : Word) (v : Lanes) : BitVec 5 :=
  if ∃ l : Fin 32, e.getLsbD l.val = true ∧ (unpack fmtF32 v[l].toNat).isSnan = true then 1 else 0

/-- The partitions together raise NV for the signalling NaNs of all lanes. -/
theorem snanFlags_bases {e : Word} {w : Nat} {v : Lanes} (hw : 0 < w) (hd : w ∣ 32) :
    (List.range (32 / w)).foldl (fun f q => f ||| snanFlags (leaves e w (q * w) v)) 0
      = snanRaised e v := by
  have hs (q : Nat) : snanFlags (leaves e w q v) = flagIf ((List.range w).any fun i =>
      e.getLsbD (q + i) && (unpack fmtF32 (laneAt v (q + i)).toNat).isSnan) flNV := by
    rw [snanFlags, leaves_eq, List.any_map]
    congr 2
    funext i
    simp only [Function.comp, lanesLeaf]
    cases e.getLsbD (q + i) <;> rfl
  simp only [hs]
  rw [foldl_flagIf, flagIf, snanRaised]
  refine ite_congr (propext ?_) (fun _ => rfl) (fun _ => rfl)
  simp only [List.any_eq_true, List.mem_range, Bool.and_eq_true]
  rw [exists_partition_iff hw hd fun k => e.getLsbD k = true ∧ (unpack fmtF32 (laneAt v k).toNat).isSnan = true, Fin.exists_iff]
  refine exists_congr fun l => exists_prop.symm.trans (exists_congr fun hl => ?_)
  simp only [laneAt, Nat.mod_eq_of_lt hl, Fin.getElem_fin]

/-- What a partition writes: its root, a NaN made canonical, or the identity where no lane is active (R158). -/
def rootWord (ident : Word) : Option Nat → Word
  | some c => BitVec.ofNat 32 (canon32 c)
  | none => ident

theorem treeReduce_leaves (op : Nat → Nat → Rnd) {w : Nat} (hw : 2 ^ Nat.log2 w = w) (e : Word) (b : Nat) (v : Lanes)
    (fl : BitVec 5) :
    treeReduce op (Nat.log2 w) (leaves e w b v, fl)
      = ([(treeOver op (lanesLeaf e v) (Nat.log2 w) b).1], (treeOver op (lanesLeaf e v) (Nat.log2 w) b).2 ||| fl) := by
  have h := treeReduce_eq_treeOver op (lanesLeaf e v) (Nat.log2 w) b fl
  rwa [hw] at h

/-- An F32 reduction that completes writes the roots of its trees and raises the flags of their steps (R55, R158). -/
theorem reduceF32_quiet {s : State} {d a : BitVec 6} (op : Nat → Nat → Rnd) (ident : Word)
    (h : NamesBelow s [(d.toNat, 1), (a.toNat, 1)]) :
    let w := s.snap.width; let A := s.srcV a.toNat; let e := s.snap.exec
    let tree (q : Nat) := treeOver op (lanesLeaf e A) (Nat.log2 w) (q * w)
    let fl := (List.range (32 / w)).foldl (fun f q => f ||| (tree q).2) (snanRaised e A)
    FpQuiet s [A] fl → GivesVectors (reduceF32 op ident d a s) s 0xFFFFFFFF d.toNat 1
      (fun _ l => rootWord ident (tree (l.val / w)).1) fl (emptyBits s) := by
  intro w A e tree fl hq
  have hfl : (bases w).foldl (fun f b =>
      f ||| ((treeOver op (lanesLeaf e A) (Nat.log2 w) b).2 ||| snanFlags (leaves e w b A))) 0 = fl := by
    rw [bases, List.foldl_map, foldl_or_or, snanFlags_bases (width_pos s.snap) (width_dvd s.snap), BitVec.or_comm]
    exact (foldl_or_init (fun q => (tree q).2) _ _).symm
  rw [reduceF32, vnames_of_below _ _ _ h]
  simp only [emptyBits_eq, treeReduce_leaves op (width_pow s.snap), List.headD_cons, baseLane_eq]
  simp only [State.exec] at hq ⊢
  rw [hfl, fpGuard_quiet _ _ _ _ hq]
  exact givesVectors_setVAll s d.toNat (fun l => rootWord ident (tree (l.val / w)).1) fl (emptyBits s)

theorem getD_map_range (g : Nat → Option Nat) {w i : Nat} (h : i < w) : ((List.range w).map g).getD i none = g i := by
  simp [h]

/-- The scan of a partition: each lane's value after the steps of R56, with the flags it starts with among those raised. -/
theorem scanSteps_leaves (op : Nat → Nat → Rnd) (n w : Nat) (e : Word) (b : Nat) (v : Lanes) (fl : BitVec 5) :
    scanSteps op n 1 (leaves e w b v, fl) = ((List.range w).map (scanOver op (fun k => lanesLeaf e v (b + k)) n),
      fl ||| (scanSteps op n 1 (leaves e w b v, 0)).2) := by
  refine Prod.ext ?_ (scanSteps_flags ..)
  have h := scanSteps_scanOver op (fun k => lanesLeaf e v (b + k)) w n 0 fl
  rwa [Nat.zero_add] at h

/-- SCANADD.F32 completes where no exception is enabled, its flags those of signalling sources and more (R56, R159). -/
theorem scanaddF32_quiet {s : State} {d a : BitVec 6} (h : NamesBelow s [(d.toNat, 1), (a.toNat, 1)])
    (hm : s.snap.uninit = true → firstMarker s.snap.exec [s.srcV a.toNat] = none) (he : s.snap.fpEnables = 0) :
    let w := s.snap.width; let A := s.srcV a.toNat; let e := s.snap.exec
    ∃ fl : BitVec 5, snanRaised e A &&& fl = snanRaised e A ∧ GivesVectors (execScanaddF32 d a s) s e d.toNat 1
      (fun _ l => rootWord 0
        (scanOver (addC fmtF32 s.snap.fpEnv.rm) (fun k => lanesLeaf e A (l.val / w * w + k)) (Nat.log2 w) (l.val % w)))
      fl (emptyBits s) := by
  intro w A e
  let op := addC fmtF32 s.snap.fpEnv.rm
  let steps (b : Nat) : BitVec 5 := (scanSteps op (Nat.log2 w) 1 (leaves e w b A, 0)).2
  let fl := (bases w).foldl (fun f b => f ||| (snanFlags (leaves e w b A) ||| steps b)) 0
  have hfl : fl = snanRaised e A ||| (bases w).foldl (fun f b => f ||| steps b) 0 := by
    simp only [fl, foldl_or_or]
    rw [bases, List.foldl_map, snanFlags_bases (width_pos s.snap) (width_dvd s.snap)]
  have hl (l : Fin 32) : l.val % s.snap.width < s.snap.width := Nat.mod_lt _ (width_pos s.snap)
  have hq : FpQuiet s [A] fl := ⟨hm, by rw [he]; exact BitVec.and_zero⟩
  refine ⟨fl, by rw [hfl, and_or_self_left], ?_⟩
  have hg := givesVectors_setV s d.toNat (fun l => rootWord 0
    (scanOver op (fun k => lanesLeaf e A (l.val / w * w + k)) (Nat.log2 w) (l.val % w))) fl (emptyBits s)
  rw [execScanaddF32, vnames_of_below _ _ _ h]
  simp only [emptyBits_eq, scanSteps_leaves _ _ _ _ _ _ (snanFlags _), baseLane_eq, getD_map_range _ (hl _)]
  exact fpGuard_quiet s _ _ _ hq ▸ hg

/-- Settles O31: the levels of the model's reduction build the tree of halves (`treeReduce_eq_treeOver`), its steps the
scan (`scanSteps_scanOver`). -/
theorem floatReductionsFollowTheFixedTree : Obligations.FloatReductionsFollowTheFixedTree := by
  unfold Obligations.FloatReductionsFollowTheFixedTree
  intro d a s h
  exact ⟨reduceF32_quiet (addC fmtF32 s.snap.fpEnv.rm) _ h, reduceF32_quiet (minC fmtF32 0) _ h, reduceF32_quiet (maxC fmtF32 0) _ h,
    scanaddF32_quiet h⟩

end Sys2Proof.Machine.Formats
end
